-- ==== Sys2Proof/Word.lean ====
section
/-! DEFINITION. The words of the TM-4812 model and the small types its commands are written with:
unit numbers as the spec numbers them (00 R6), the sources of a row, the physical outcomes that a
row meets, and the sparse table in which State keeps every numbered collection of things. -/

namespace Sys2Proof

abbrev Byte := BitVec 8
abbrev W16 := BitVec 16
abbrev W32 := BitVec 32
abbrev W64 := BitVec 64

/-- A device physical address, 49 bits (00 R7). -/
abbrev Dpa := BitVec 49

/-- Unit numbers (00 R6). -/
abbrev QueueId := Fin 1024
abbrev TagId := Fin 32
abbrev SlotId := Fin 32
abbrev WeevilId := Fin 256
abbrev EngineId := Fin 48
abbrev CoreId := Fin 64
abbrev StackId := Fin 12
abbrev PcId := Fin 32
abbrev PchId := Fin 384
abbrev ChannelId := Fin 32
abbrev ContextId := Fin 128

/-- A requester of memory: the classes 0-8 of Table 10.3, and 9 for the maintenance unit, which the
controller tags apart from every class (10 R357). -/
abbrev Requester := Fin 10

/-- A table of values by number, in one canonical form: numbers strictly rising, and no entry that
equals the table's default, which is what an unlisted number reads as. -/
abbrev Tab (α : Type) := List (Nat × α)

/-- Who starts a maintenance activity (14 Table 14.2): hardware, or the MAINT command at the front
of a queue. -/
inductive Src where
  | auto
  | maint (q : QueueId)
  deriving DecidableEq, Repr

/-- Who accesses a register: a core, at its DPA (00 R11), or a host through the endpoint's BAR0, at an offset in it (16 R550). -/
inductive Master where
  | core (c : CoreId)
  | bar0
  deriving DecidableEq, Repr

/-- A requester of memory by its class and, of class 0, the core that it is (10 R357, R361). -/
structure Origin where
  cls : Requester
  core : CoreId
  deriving DecidableEq, Repr

/-- An instruction of the IEEE 1500 wrapper: its name, and its class: 0 reads, 1 repairs softly or tests, 2 blows fuses (14 R506). -/
structure Wrapper where
  name : String
  cls : Fin 3
  deriving DecidableEq, Repr

/-- A source of the selector's entries (05 R148, R149): a Weevil, or a lap engine on the side list. -/
inductive Port where
  | weevil (w : WeevilId)
  | side (e : EngineId)
  deriving DecidableEq, Repr

/-- The physical finding of an HBM read (10 Table 10.4, R347). Poison is no operand: State holds the poisoned
sectors. -/
inductive Finding where
  | clean
  | oneSymbol
  | twoSymbols
  | tagMismatch
  | dieCorrected
  | dieUncorrectable
  deriving DecidableEq, Repr

/-- A work request of RDMA (16 R546, R547): its queue pair, the key of a registration, and the finding at its place. -/
structure WorkReq where
  qp : Nat
  key : Nat
  finding : Finding
  deriving DecidableEq, Repr

/-- Which signature check of a block fails in a scan (04 R104, R138), or which slot meets a
double-bit error in slot state memory (04 R95). -/
inductive ScanFail where
  | none
  | header
  | attr
  | group (g : Nat)
  | slotWord (n : SlotId)
  deriving DecidableEq, Repr

/-- How a flash read ends (06 R205, R206): decoded, decoded after some re-reads with shifted
thresholds, rebuilt from parity, or lost. -/
inductive FlashRead where
  | ok
  | retried
  | rebuilt
  | lost
  deriving DecidableEq, Repr

/-- The units of a tensor engine, numbered as UNIT of the trap record (11 Table 11.8). -/
inductive OcUnit where
  | front
  | vector
  | matrix
  | expansion
  | lut
  | selection
  | reduction
  | dma
  deriving DecidableEq, Repr

/-- What raises an execution fault (08 R264): the DMA operation at the front of its queue, or an
uncorrectable word met by a unit (07 R217), or a backing unit that cannot be rebuilt (code 0x13). -/
inductive ExecCause where
  | transfer
  | uncorrectable (u : OcUnit)
  | backingLost
  deriving DecidableEq, Repr

/-- A part of a bank mode change (10 Table 10.7): steps 1 and 2 with the mask asked for, steps 3 and 4, steps 5 to 7. -/
inductive ModeStep where
  | confirm (mask : BitVec 48)
  | zero
  | finish
  deriving DecidableEq, Repr

/-- Why a block moves (02 Table 2.1, R50). -/
inductive MoveKind where
  | compact
  | reencode
  | fold
  | rehome
  | retireEmpty
  deriving DecidableEq, Repr

/-- Where the allocator puts a new block: Weevil, header index, first row, identity line, refine and
payload extents (04 R97-R101, 06 R189). -/
structure Place where
  weevil : WeevilId
  header : Nat
  row : Nat
  excl : BitVec 16
  ident : Dpa
  fla : BitVec 40
  pfla : BitVec 40
  deriving DecidableEq, Repr

/-- A thing whose storage is freed once CSN_HORIZON has passed its retire CSN (02 R27, R51, 03 R87). -/
inductive Reclaimable where
  | side (n : Nat)
  | block (w : WeevilId) (h : Nat)
  | generation (cid : BitVec 16) (tag : Byte)
  | collection (cid : BitVec 16)
  deriving DecidableEq, Repr

/-- Who issues a SCAN_FENCE (10 R362): a core, or an engine by SFENCE or WVX. -/
inductive Fencer where
  | core (c : CoreId)
  | engine (e : EngineId)
  deriving DecidableEq, Repr

/-- What starts the hold-up save (15 R528, 16 R539). -/
inductive SaveCause where
  | sag
  | overVoltage
  | presentBroken
  deriving DecidableEq, Repr

/-- Who asks for a reset (16 Table 16.5), with the LAST_CAUSE code of MOD_RST. -/
inductive ResetCause where
  | resetN
  | modRst
  | management
  | watchdog
  deriving DecidableEq, Repr

/-- A reset of the PCIe function (16 R552). -/
inductive FlrKind where
  | functionLevel
  | hot
  | perst
  deriving DecidableEq, Repr

/-- What a port's training brings (16 R543, R544): the link's rate or generation code, its lanes, the
medium and the power class of the module. -/
structure LinkResult where
  up : Byte
  outcome : Fin 3
  rate : BitVec 3
  lanes : BitVec 5
  media : BitVec 4
  modPower : Byte
  deriving DecidableEq, Repr

end Sys2Proof
end

