-- ==== Sys2Proof/Syntax.lean ====
section
/-! DEFINITION. The commands of the block: one constructor for each row of spec/opcode_table.json, with the
operands the row's own rule names (the register value written, the unit, the physical outcome met). A row
that acts on a fetched 64-byte command, an accepted window entry, an engine's next instruction or a waiting
request names only where that stands: its bytes are in State. -/

namespace Sys2Proof

inductive Instr where
  -- command queues (12)
  | qauSqtail (q : QueueId) (v : W64)
  | qauCqhead (q : QueueId) (v : W64)
  | queueEnable (q : QueueId) (v : W64)
  | queueDisable (q : QueueId) (v : W64)
  | queueDrainEnd (q : QueueId)
  | qauAbort (v : W64)
  | search (q : QueueId)
  | range (q : QueueId)
  | insertBatch (q : QueueId)
  | deleteBatch (q : QueueId)
  | upsertBatch (q : QueueId)
  | pin (q : QueueId)
  | unpin (q : QueueId)
  | flush (q : QueueId)
  | stats (q : QueueId)
  | selftest (q : QueueId)
  | power (q : QueueId)
  -- MAINT subops (12, 14)
  | create (q : QueueId)
  | destroy (q : QueueId)
  | genInstall (q : QueueId)
  | sample (q : QueueId)
  | launch (q : QueueId)
  | resume (q : QueueId)
  | kill (q : QueueId)
  | pinRelease (q : QueueId)
  | update (q : QueueId)
  | refetch (src : Src) (part : Fin 9) (unit : Nat)
  | bypass (q : QueueId) (ch : ChannelId)
  | rowRemap (s : StackId) (p : PcId) (bank : Fin 48) (row : Nat)
  | rowRetire (s : StackId) (p : PcId) (bank : Fin 48) (row : Nat)
  | laneRemap (s : StackId) (chan : Fin 16)
  | flashRetire (ch : ChannelId) (block : Nat) (package : Option (Fin 4))
  | pcRetire (src : Src) (p : PchId)
  | stackRetire (src : Src) (s : StackId)
  | channelRewrite (ch : ChannelId)
  | holdupTest (src : Src) (sect : Fin 6)
  | ieee1500 (q : QueueId) (s : StackId) (chan : Fin 16) (i : Wrapper) (data : List Byte)
  | collPriority (q : QueueId)
  | claimStart (n : Fin 64)
  | claimWaitTimeout (n : Fin 64)
  | fenceHoldEnd (q : QueueId) (t : TagId)
  | slotAdmit (n : SlotId)
  | returnToRun
  -- scan, selection, refine (04, 05, 06)
  | scanBlock (w : WeevilId) (f : ScanFail)
  | backPressureRelease (w : WeevilId)
  | chainCand (p : Port)
  | thresholdReceive (p : Port) (n : SlotId)
  | chainStats (p : Port)
  | chainLeave (p : Port)
  | refineReadDone (b : ChannelId) (o : FlashRead)
  | refineResult (b : ChannelId)
  | payloadReadDone (q : QueueId) (t : TagId) (o : FlashRead)
  | lapChunk (e : EngineId) (failed : Bool)
  -- commits and the allocator (02, 06)
  | batchCommit (q : QueueId) (t : TagId) (failed : Bool)
  | journalProgramDone
  | csnRange
  | checkpoint
  | mergeHandover (cid : BitVec 16) (es : List Nat) (pl : Place) (sigOk : Bool)
  | blockMove (k : MoveKind) (src : List (WeevilId × Nat)) (pl : Option Place) (sigOk : Bool)
  | csnBackfill (ref : BitVec 16)
  | exclusionSettle (w : WeevilId) (h : Nat)
  | reclaim (r : Reclaimable)
  | blockReload (w : WeevilId) (h : Nat) (readback : Bool)
  -- the Weevil command window (04)
  | hdrWrite (w : WeevilId)
  | exclWrite (w : WeevilId)
  | settle (w : WeevilId)
  | repairReady (w : WeevilId)
  | pause (w : WeevilId)
  | weevilResume (w : WeevilId)
  | pauseTimeout (w : WeevilId)
  | ucodeStage (w : WeevilId)
  | ucodeSwap (w : WeevilId)
  | stateRead (w : WeevilId)
  | dscan (w : WeevilId)
  | weevilSelftest (w : WeevilId) (result : W32)
  | v1Go (w : WeevilId)
  | v1Abort (w : WeevilId)
  -- Ocelm: front end (08)
  | nop (e : EngineId)
  | endProg (e : EngineId)
  | stageEnd (e : EngineId)
  | trap (e : EngineId)
  | getf (e : EngineId)
  | clrf (e : EngineId)
  | rdcnt (e : EngineId)
  | add (e : EngineId)
  | sub (e : EngineId)
  | mul (e : EngineId)
  | div (e : EngineId)
  | and (e : EngineId)
  | or (e : EngineId)
  | xor (e : EngineId)
  | shift (e : EngineId)
  | minmax (e : EngineId)
  | cmp (e : EngineId)
  | addi (e : EngineId)
  | andi (e : EngineId)
  | shifti (e : EngineId)
  | li (e : EngineId)
  | lc (e : EngineId)
  | fop (e : EngineId)
  | amov (e : EngineId)
  | aadd (e : EngineId)
  | aaddi (e : EngineId)
  | alc (e : EngineId)
  | tset (e : EngineId)
  | tfld (e : EngineId)
  | tget (e : EngineId)
  | br (e : EngineId)
  | jal (e : EngineId)
  | jr (e : EngineId)
  | loop (e : EngineId)
  -- Ocelm: units (08)
  | varith (e : EngineId)
  | vcmp (e : EngineId)
  | vsel (e : EngineId)
  | vcvt (e : EngineId)
  | vperm (e : EngineId)
  | vbcast (e : EngineId)
  | vext (e : EngineId)
  | vsrnd (e : EngineId)
  | vld (e : EngineId)
  | vst (e : EngineId)
  | plogic (e : EngineId)
  | pset (e : EngineId)
  | pcnt (e : EngineId)
  | mopen (e : EngineId)
  | mmul (e : EngineId)
  | mclose (e : EngineId)
  | mdrop (e : EngineId)
  | macc (e : EngineId)
  | xpnd (e : EngineId)
  | ldist (e : EngineId)
  | lbound (e : EngineId)
  | thrc (e : EngineId)
  | topk (e : EngineId)
  | rsum (e : EngineId)
  | rmv (e : EngineId)
  | rmaxsum (e : EngineId)
  | dld (e : EngineId)
  | dst (e : EngineId)
  | dcpy (e : EngineId)
  | amo (e : EngineId)
  | aaddt (e : EngineId)
  | wvx (e : EngineId)
  | sfence (e : EngineId)
  | twait (e : EngineId)
  | fence (e : EngineId)
  | windec (e : EngineId)
  | opComplete (e : EngineId) (u : OcUnit)
  | executionFault (e : EngineId) (c : ExecCause)
  | budgetReached (e : EngineId)
  -- contexts and the MMU (11)
  | pageIn (e : EngineId)
  | pageInDone (c : ContextId)
  | pageinPreempt (c : ContextId)
  | eviction (c : ContextId) (va : BitVec 48)
  | evictionWriteDone (c : ContextId) (va : BitVec 48) (fla : BitVec 40)
  | preempt (e : EngineId)
  | contextRestore (c : ContextId) (e : EngineId)
  | workStart (k : Fin 4) (e : EngineId)
  | contextTimeout (c : ContextId)
  | engCtlDrain (e : EngineId) (v : W64)
  | engCtlLapok (e : EngineId) (v : W64)
  | drained (e : EngineId)
  -- HBM (10)
  | memoryRead (r : Origin) (a : Dpa) (n : Nat) (f : Finding)
  | memoryWrite (r : Origin) (a : Dpa) (bs : List Byte) (f : Finding)
  | memoryAtomic (r : Origin) (a : Dpa) (ty : Fin 4) (op : Fin 8) (x : W64) (cmp : W64)
  | writeBufferDrain (p : PchId)
  | refresh (p : PchId) (postpone : Bool)
  | patrolScrub (a : Dpa) (f : Finding)
  | sensorRead (ts : List (Option Nat))
  | thermalClear (g : Fin 18)
  | protectiveRestClear
  | bankModeChange (p : PchId) (part : ModeStep)
  | hbmcSfence (c : CoreId) (s : StackId) (v : W64)
  | scanFenceDone (r : Fencer) (p : PchId)
  | stackStopsAnswering (s : StackId)
  -- flash (06)
  | openRowProgram (row : Nat)
  | flashScrub (fla : BitVec 40) (o : FlashRead) (high : Bool) (fresh : BitVec 40)
  | garbageCollection (fla : BitVec 40) (fresh : BitVec 40)
  | wearRelocation (sb : Nat) (fresh : Nat)
  -- warden (13)
  | getIdentity
  | attest
  | challenge
  | auditRead
  | claim
  | transfer
  | policy
  | time
  | sessionOpen
  | debugUnlock
  | debugEnd
  | extend
  | debugLeaseExpiry
  | grantExpiry (k : Fin 4095)
  | pinExpired (n : Fin 16)
  | tamper (detector : Fin 6)
  -- start-up, resets, power (15, 16)
  | watchdog (u : Fin 7)
  | coldStart
  | scanFormReload (cid : BitVec 16)
  | warmReset (c : ResetCause)
  | fullReset (c : ResetCause)
  | holdupSave (c : SaveCause) (stored : Bool)
  | bankCharged
  | capStep (watts : BitVec 16)
  | railReturn
  | paceSample (laps : List W32)
  | boundRecompute
  | powerStateReached
  | wake
  | flowSample (flow : BitVec 16)
  | counterFlush
  | thermalHistogramSample
  -- meter (15)
  | meterSign (v : W64)
  | meterSignDone
  | meterInstUpdate (power curr volt : BitVec 16) (mj : BitVec 32)
  | meterSave
  | sealOpen
  | sealClose (key : W64)
  | lrsUpdate (version : BitVec 16) (authentic : Bool)
  | paramChange (number : W64) (authentic : Bool)
  | ifUpdate (version : W64) (authentic : Bool)
  | logCleared
  -- links and management (16)
  | netPortWrite (p : Fin 2) (v : W64)
  | linkTrained (p : Fin 4) (r : LinkResult)
  | rdmaWrite (r : WorkReq) (a : Dpa) (bs : List Byte)
  | rdmaRead (r : WorkReq) (a : Dpa) (n : Nat)
  | send (qp : Nat) (bs : List Byte)
  | functionLevelReset (k : FlrKind)
  | pcieCfgWrite (v : W64)
  | getStart
  | mailbox (type : W32) (echo : W64) (body : List Byte)
  | firmwareUpdate (part : Byte) (one : Bool) (unit : BitVec 16) (image : List Byte)
  | platformMonitoring (g : Fin 18)
  | fruData
  -- registers (00)
  | allocSidefillWrite (v : W64)
  | reelCtlWrite (v : W64)
  | fcdCfgWrite (v : W64)
  | schedCfgWrite (v : W64)
  | mmuCfgWrite (v : W64)
  | pwrCfgWrite (v : W64)
  | registerReadClear (m : Master) (a : Dpa) (size : Nat)
  | csrWrite (m : Master) (a : Dpa) (size : Nat) (v : W64)
  | claimEnd (n : Fin 64) (result : W32) (cap esr : BitVec 16)
  | inputRange (vin : BitVec 16)
  | portDown (p : Fin 4)
  | meterFault (code : W64)
  | coreRestart
  deriving DecidableEq, Repr

end Sys2Proof
end

