-- ==== Sys2Proof/Decode.lean ====
section
/-! DEFINITION. Commands as words. No row of spec/opcode_table.json gives bits (each has an empty list of fields): the commands
are accesses, entries and events, and what an entry's bytes mean is read by the meaning that takes it. -/

namespace Sys2Proof

/-- No word spells a command of this block. -/
def decodeTableWord (_nbits _w : Nat) : Option Instr := none

end Sys2Proof
end

