-- ==== Sys2Proof/Config.lean ====
section
/-! DEFINITION. What one module fixes and what the spec leaves open: constants with no body, so that
no proof can see a value of them. Fused values (log 1), free values (log 5), the algorithms the spec
names but does not give (log 7). -/

namespace Sys2Proof.Config

/-- MOD_ID.STEP (00 R1), fused. -/
opaque step : Byte
/-- True on a TM-4812-F48, false on an F96 (00 R1, R2), fused in MOD_ID.VARIANT. -/
opaque isF48 : Bool
/-- Versions of the images in the firmware store at manufacture (04 WVG_STAT, 06 BOR_STAT, 07 ENG_STAT). -/
opaque weevilUcode : BitVec 16
opaque borerFw : BitVec 16
opaque engineUcode : BitVec 16
/-- Version word of a part's image, as RESULT0 of UPDATE reports it (14 R491). -/
opaque imageVersion : List Byte → BitVec 32
/-- A channel's class (06 Table 6.1): the high-endurance code 0x2 if true, else 0x1. -/
opaque channelHigh : Nat → Bool
/-- The controller that meets an access to a DPA of no stack (10 R336, log 14). -/
opaque holeController : Nat → Nat
/-- What the allocator has recorded of its reserves in an entry of the region table (10 R566, log 89). -/
opaque reserve : Nat → BitVec 128
/-- Good erase blocks of a channel at the first mount (06 R567). -/
opaque goodBlocks : Nat → BitVec 32
/-- What a command waited for a Reel slot that was not to be had at its admission, in µs, by its fetch number (01 R21, log 17). -/
opaque slotWait : Nat → BitVec 32
/-- Stripe rows of a superblock (06, stripes; no number is given). -/
opaque superRows : Nat
/-- Intervals of a stack's parameter page, in ns: tRFCpb, tFAW, tRC, tRCD, tRP, tRB as numbers 0 to 5 (10 R365). -/
opaque pageTiming : Nat → Nat → BitVec 8
/-- Laps in 100 us of the ten reference rings at ROP, fused at manufacture (15 R515). -/
opaque ropLaps : Nat → Nat
/-- J5 SLOT_ID strap (16 MGMT_STAT). -/
opaque slotId : BitVec 5
/-- The meter's serial, software version at manufacture, and digest of a version of the software (15 Table 15.6). -/
opaque meterSerial : W64
opaque meterLrsVer : BitVec 16
opaque meterLrsDigest : BitVec 16 → BitVec 256
/-- The vendor's certificate over the identity key and the module's serial (13 R451). -/
opaque identityCert : List Byte
/-- The fused secret of the warden (13 Table 13.5). -/
opaque kroot : BitVec 256
/-- Digest of ROM and fuses that MR0 takes (13 Table 13.6). -/
opaque romDigest : BitVec 256
/-- Digests of the factory images measured into MR1 and MR3-MR8 (13 Table 13.6). -/
opaque factoryDigest : Nat → BitVec 256
/-- Security version of an image, and the vendor's signature over it (13 R448). -/
opaque imageSvn : List Byte → Nat
opaque vendorSigned : List Byte → Bool
/-- Whether a unit's new image passes its check after the swap (14 R496): part, unit, image. -/
opaque postSwapOk : Nat → Nat → List Byte → Bool

/-- The free values of the model: the n-th draw (log 5). -/
opaque free : Nat → Nat
/-- TYPE of the audit entry with a sequence number that no mailbox request makes (13 R473, 14 R511, log 21). -/
opaque auditType : Nat → BitVec 32

/-- What an INT32 tile adds for a product of INT8 values whose block scales leave no integer: of the product's digits and the binary places
behind its point (08 R284, log 108). -/
opaque blockTerm : Int → Nat → Int
/-- AES-256-XTS of IEEE Std 1619 under a key pair and a tweak (06 R192, log 75). -/
opaque aesXts : List Byte → Nat → List Byte → List Byte
/-- SHAKE256 with a 32-byte output (FIPS 202, log 7). -/
opaque shake256 : List Byte → BitVec 256
/-- KMAC256 (key, customisation, data, output bytes) (NIST SP 800-185, log 7). -/
opaque kmac256 : List Byte → List Byte → List Byte → Nat → List Byte
/-- CRC-32C (log 7). -/
opaque crc32c : List Byte → BitVec 32
/-- AES-256-GCM: key, nonce, additional data, text (log 7). -/
opaque gcmSeal : List Byte → List Byte → List Byte → List Byte → List Byte
opaque gcmOpen : List Byte → List Byte → List Byte → List Byte → Option (List Byte)
/-- XMSS signatures: public key, message, signature; and the module's and the meter's own signers by index. -/
opaque xmssVerify : List Byte → List Byte → List Byte → Bool
/-- The public key of a seed, and the signature made with a seed at an index (13 Table 13.5, R453, log 7). -/
opaque xmssPublic : List Byte → BitVec 544
opaque xmssSign : List Byte → Nat → List Byte → List Byte
opaque meterSignature : Nat → List Byte → List Byte
/-- ML-KEM-1024: the boot's encapsulation key and decapsulation under it; ML-DSA-87 verification. -/
opaque kemKey : Nat → List Byte
opaque kemDecaps : Nat → List Byte → List Byte
opaque mlDsaVerify : List Byte → List Byte → List Byte → Bool
/-- The DRBG's n-th draw of 32 bytes (13, the warden). -/
opaque drbg : Nat → List Byte
/-- Which of the FP32 values with an error below 1 ulp the engine's fixed exponential gives, of each operand (08 R300, log 7). -/
opaque exp32Pick : BitVec 32 → Nat
/-- The records that a SAMPLE of seed, admission CSN and count selects out of n (07 R252). -/
opaque sampleOrder : W64 → Nat → Nat → List Nat
/-- Addresses of a stage's areas in its address space (07 R237 names them in no number): role 0 image,
1 input, 2 output, 3 scratch, 4 parameter block. -/
opaque stageVa : Nat → BitVec 48
/-- Contents of the management answers whose bytes other specifications fix (16 R555). -/
opaque fruBytes : List Byte
/-- The response of a stack's IEEE 1500 wrapper: stack, channel, the instruction's JEDEC name, its data (14 R506). -/
opaque wrapperOut : Nat → Nat → String → List Byte → List Byte
/-- The row that a hard repair's data name: pseudo-channel of the channel, row of the pseudo-channel (14 R506, log 110). -/
opaque fusedRow : String → List Byte → Bool × BitVec 21

/-- Where the MMU puts a page table in its reserve of 256 MiB, in units of the table's size: by context, level and the bits of the virtual
address above the table's own (11 R371, R372, log 94). -/
opaque pageTable : Nat → Nat → Nat → Nat

/-- What a vector result in E4M3 beyond the format's range reads as, by sign (08 R273 gives no value). -/
opaque e4m3Over : Bool → BitVec 8
/-- The image of a stage program with a measurement (07 R236 names the measurement alone). -/
opaque stageImage : BitVec 256 → List W64
/-- The collection parameter block, and the admitted generation set of a query block: from the numbers of the coding
parameters and the codebooks' bytes, from the tags (07 Table 7.5 gives no layout). -/
opaque paramBlock : List Nat → List Byte → List Byte
opaque genSetBlock : List Byte → List Byte
/-- The owner public-key digest and the module identity that a vendor-signed claim ticket names, and what follows it
(13 R443 gives no layout). -/
opaque claimTicket : List Byte → Option (BitVec 64 × BitVec 256 × List Byte)

end Sys2Proof.Config
end

