-- ==== Sys2Proof/Machine/State.lean ====
section
/-! DEFINITION. The state of the module, as plain data, and the state right after reset: a factory-fresh,
unowned module before its first COLD_START (log 2). Every register and every other piece of state that the
spec names stands in the record of its block; tables (Tab) list only what differs from their default. -/

namespace Sys2Proof.Machine

/-- The block stops with no fault: whatever goes wrong is reported in a status, a result, a trap record or an
error register, and the block goes on (12 R428, 11 Table 11.7, 10 R336). No constructor, so nobody raises one. -/
inductive Fault where
  deriving DecidableEq, Repr

/-- Why the block gives a command no meaning: none is left, the name stands for an arm still to write. -/
inductive Refusal where
  /-- Raised by Dispatch.lean's arm of a row that has no meaning yet; safe. -/
  | notModelled (mnemonic : String)
  deriving DecidableEq, Repr

/-! ## Collections and the corpus (02, 03, 04, 06) -/

/-- Coding parameters of a collection (03 Table 3.1). -/
structure Params where
  metric : Nat
  dim : Nat
  pq8 : Bool
  m : Nat
  format : Nat
  outN : Nat
  outIdx : List Nat
  biasUnit : W32
  refineEnc : Nat
  deriving DecidableEq, Repr

/-- A code generation (03 R87, R88): tag, BF16 codebooks (centroid-major within subspace), digest. -/
structure Gen where
  tag : Byte
  book : List W16
  digest : BitVec 256
  deriving DecidableEq, Repr

/-- A collection (02 R25-R27, 14 R504, 16 R562). `destroyed` is its destruction CSN X. `keyed`: the Borers hold its key pair, and
`key` is that pair (06 R193, 13 Table 13.5). Generations stand in install order, the older first. -/
structure Coll where
  params : Params
  sealed : Bool
  gens : List Gen
  priority : Nat
  searchable : Bool
  flashOnly : Bool
  createCsn : Nat
  destroyed : Option Nat
  keyed : Bool
  key : List Byte
  deriving DecidableEq, Repr

/-- The packed scan form of a record (03 R70): code bytes, attribute word, extension word, FP16 outliers. -/
structure ScanRec where
  code : List Byte
  attr : W64
  ext : W64
  outl : List W16
  deriving DecidableEq, Repr

/-- A side-list entry (02 Table 2.4), with its staging-index entry, the slot address (06 R189). `issued` is the second of its CSN's
issue (02 R46), `jsn` the journal entry that inserted it (06 R211). -/
structure SideEnt where
  cid : W16
  vid : W64
  fromCsn : W64
  retire : W64
  fromRef : W16
  retireRef : W16
  version : BitVec 20
  format : BitVec 2
  gen : Byte
  srec : ScanRec
  slot : W64
  issued : Nat
  jsn : Nat
  deriving DecidableEq, Repr

/-- A scan-stack block: its 128-byte header (04 Tables 4.2 and R97), the records of its rows, its identity
line (04 R101), its refine extent table entry (06 R189) and the FLA of its scan-form image (06 R181, R190). -/
structure Block where
  hdr : BitVec 1024
  recs : List ScanRec
  ident : List (BitVec 68)
  extent : BitVec 128
  img : Option Nat
  deriving DecidableEq, Repr

/-- A side-list chunk in use (07 R245): its collection, its place in the order in which chunks were opened, and the
entries appended so far. -/
structure Chunk where
  cid : W16
  ord : Nat
  used : Nat
  deriving DecidableEq, Repr

/-- The corpus: collections by CID, side entries by entry number, side-list chunks by number, blocks by Weevil * 2^19 + header index, pending-exclusion lists by Weevil * 8192 +
list number (04 R96, 02 R47). -/
structure Corpus where
  colls : Tab (Option Coll)
  sides : Tab (Option SideEnt)
  chunks : Tab (Option Chunk)
  blocks : Tab (Option Block)
  excl : Tab (List (BitVec 128))
  deriving DecidableEq, Repr

/-- A commit-table entry in use (02 R31, R32): its CSN once issued. -/
structure CommitEnt where
  csn : Option Nat
  deriving DecidableEq, Repr

/-- A pin (02 R55-R60); session 0xFFF for an unsealed queue, `takenAt` in seconds. -/
structure Pin where
  held : Bool
  csn : Nat
  queue : Nat
  session : BitVec 12
  leaseMs : Nat
  takenAt : Nat
  deriving DecidableEq, Repr

/-- The commit unit (02): CSN_CURRENT, the next CSN to issue, the end of the CSN range in use (R37), the end of the
next one and whether its record is programmed, the commit table, the pins. `mirrors`: the commit-table mirrors of WVG0-WVG7
(04 R94), by n * 65536 + entry: the CSN it holds, 0 while none is issued. -/
structure Csn where
  current : Nat
  next : Nat
  rangeEnd : Nat
  nextRange : Option (Nat × Bool)
  table : Tab (Option CommitEnt)
  mirrors : Tab Nat
  pins : Tab Pin
  deriving DecidableEq, Repr

/-- The allocator's registers and records (02 R44, 14 R498). Retired rows by physical row number; `fused`: rows of
hard repairs that the next cold start counts as part of the array (14 R506); `plainGone`: retired plain stacks, in the order in which
their content moved (14 R502). -/
structure Alloc where
  urgentPct : Nat
  busyPct : Nat
  urgentPosted : Bool
  retiredRows : List Nat
  fused : List Nat
  plainGone : List Nat
  deriving DecidableEq, Repr

/-! ## Flash (06) -/

/-- A payload record (06 R188) as its ciphertext stands in flash: its header's VID, version and CRC, the payload bytes, and the key
pair and the tweak of the cipher (06 R192). -/
structure PayRec where
  vid : W64
  version : BitVec 20
  crc : W32
  bytes : List Byte
  key : List Byte
  tweak : BitVec 128
  deriving DecidableEq, Repr

/-- A vector slot (06 Table 6.3) as its ciphertext stands in flash: what it holds, the key pair and the tweak of the cipher
(06 R192). `payload`: the record of `payLen` bytes that belongs to it, until flash loses it; `lost`: flash has lost the slot (06 R206). -/
structure VSlot where
  cid : W16
  vid : W64
  version : BitVec 20
  enc : Nat
  dim : Nat
  attr : W64
  ext : W64
  vector : List Byte
  payLen : Nat
  payload : Option PayRec
  crc : W32
  key : List Byte
  tweak : BitVec 128
  lost : Bool
  deriving DecidableEq, Repr

/-- A scan-form image (06 R184, R190) as its ciphertext stands in flash: header and rows, the key pair and the tweak of the cipher, which is
the FLA that it was written at (06 R192). -/
structure ScanImage where
  hdr : BitVec 1024
  recs : List ScanRec
  key : List Byte
  tweak : Nat
  deriving DecidableEq, Repr

/-- A copy that a delete names (06 Table 6.8): a side entry, or a record of a block. -/
inductive CopyRef where
  | side (n : Nat)
  | bank (key : Nat) (r : Nat)
  deriving DecidableEq, Repr

/-- Bodies of journal entries (06 Table 6.8), by reference to what they image: side-list entries by number, copies
deleted, blocks by key. PRIORITY is COLL_PRIORITY journalled with the collection (12 R423). -/
inductive JBody where
  | insert (ns : List Nat)
  | delete (ds : List CopyRef)
  | upsert (ds : List CopyRef) (ns : List Nat)
  | commit
  | handover (key : Nat)
  | move (new : Option Nat) (olds : List Nat)
  | collection (destroy : Bool) (params : List Byte)
  | generation (tag : Byte) (digest : BitVec 256)
  | csnRange (last : Nat)
  | checkpoint (jsn : Nat)
  | priority (p : Nat)
  deriving DecidableEq, Repr

/-- A journal entry (06 Table 6.7): `image` is header and body, `bytes` their number. `cmd` is the fetch number of the batch whose durable
completion waits for it, `key` the pair that encrypts it in flash (13 Table 13.5), `ack` the queue and the record count of a DURABLE event
due once it is programmed, `pos` its place in the HBM ring (06 R209). -/
structure JEnt where
  jsn : Nat
  durable : Bool
  ref : W16
  cid : W16
  count : Nat
  bytes : Nat
  image : List Byte
  csn : Nat
  body : JBody
  cmd : Option Nat
  ack : Option (Nat × Nat)
  key : List Byte
  pos : Nat
  deriving DecidableEq, Repr

/-- A candidate on its way to a Borer, and what the Borer returns (06 Table 6.5). -/
structure RefineJob where
  cmd : Nat
  vid : W64
  version : BitVec 20
  slot : W64
  surplus : Bool
  deriving DecidableEq, Repr

structure RefineRes where
  cmd : Nat
  vid : W64
  version : BitVec 20
  score : Option W32
  deriving DecidableEq, Repr

/-- A channel and its Borer (06). `state` 0 ACTIVE, 1 BYPASSED, 2 FAILED. -/
structure Channel where
  fw : W16
  state : Nat
  spare : Nat
  corrHi : Nat
  retry : Nat
  recon : Nat
  excl : Nat
  keys : Bool
  jobs : List RefineJob
  results : List RefineRes
  failedPackages : Nat
  deriving DecidableEq, Repr

/-- A stripe row (06 R182, R183): open or programmed, units placed in it, the channel that a degraded row skips, data of it lost. -/
structure Row where
  openRow : Bool
  begun : Bool
  skip : Option Nat
  lost : Bool
  deriving DecidableEq, Repr

/-- The page store (06). `map`: what replay restores, the corpus at CSN `mapCsn`: the checkpoint and every journal entry
programmed with its COMMIT. `ckptBytes`: ring space of the journal before the last checkpoint, whose JSN is `ckptJsn`, that is not
yet free (R211). `tail`: HBM journal entries not yet programmed; `ringPos`: the place in the HBM ring of the next (R209). `journalRuns`: what the
journal has programmed and not freed, each run's FLA, units and last JSN; `ckptRun`: the last checkpoint's. Vector slots, backing pages and
scan-form images by address. `supers`: the erase block of a superblock on a channel, by 32 * superblock + channel, plus 1; 0 for the
superblock's own number (R207). `preErased`: superblocks of the hold-up save area that stand erased (R184). `retired`: superblocks
retired whole (R207); `retried`: units that needed read-retry, and `gone`: blocks retired by channel * 65536 + block, each with its
second; `deadPackages`: packages retired whole, by 4 * channel + package (14 R500). -/
structure Flash where
  engback : Nat
  sparePct : Nat
  freeUnits : Nat
  sparePosted : Bool
  channels : Tab Channel
  rows : Tab Row
  retired : List Nat
  retried : List (Nat × Nat)
  gone : List (Nat × Nat)
  deadPackages : List Nat
  slots : Tab (Option VSlot)
  slotCursor : Nat
  backing : Tab (List Byte)
  backingBytes : Nat
  imgs : Tab (Option ScanImage)
  journalRuns : List (Nat × Nat × Nat)
  ckptRun : Option (Nat × Nat)
  supers : Tab Nat
  preErased : Nat
  ringPos : Nat
  jsn : Nat
  tail : List JEnt
  ring : Nat
  sinceCkpt : Nat
  ckptJsn : Nat
  ckptBytes : Nat
  programmed : Nat
  map : Corpus
  mapCsn : Nat
  images : Tab (List Byte)
  incoming : Tab (List (List Byte))
  directory : Tab W32
  rewritePaused : Bool
  deriving DecidableEq, Repr

/-! ## Queues (12) -/

/-- A record on its way to a completion ring (12 Tables 12.11, 12.15): its 32 bytes but SQHEAD, P and, for an
event, SEQ and BOOT, which are taken at the write. `done` is the fetch number of the command that a completion
completes; `ord` is the order in which records are held (R408); `second`: the second record of a trap, the next record after its
first (Table 12.16). -/
structure OutRec where
  bytes : BitVec 256
  done : Option Nat
  ord : Nat
  second : Bool
  deriving DecidableEq, Repr

/-- A queue pair (12 R401-R410). `tail`, `head`: the last indices written. `held`: completions and q events
waiting in order; `stopped`: fetch stopped by an uncorrectable entry (R406); `lost`: q events dropped since the last EVENT_LOST; `atReset`: the completions due for what
was in flight at a WARM reset (R436). -/
structure Queue where
  session : BitVec 12
  intv : BitVec 11
  ien : Bool
  cqLog2 : BitVec 4
  sqLog2 : BitVec 4
  maint : Bool
  enable : Bool
  draining : Bool
  reEnable : Bool
  sqBase : Dpa
  cqBase : Dpa
  tail : Nat
  head : Nat
  sqHead : Nat
  cqTail : Nat
  phase : Bool
  err : Nat
  stopped : Bool
  tags : BitVec 32
  held : List OutRec
  lost : Nat
  atReset : List (BitVec 256)
  deriving DecidableEq, Repr

/-- One generation's scoring set (03 R82). -/
structure GenSet where
  tag : Byte
  sh : Nat
  mul : Nat
  r : W32
  biasf : W32
  qout : List W16
  deriving DecidableEq, Repr

/-- One generation as a slot holds it: scoring set, LUT, bound table (04 Table 4.4). -/
structure GenCtx where
  set : GenSet
  lut : List Byte
  bounds : List Int
  deriving DecidableEq, Repr

/-- What the scheduler loads for a slot (04 Table 4.4) and into the Borers (06, before Table 6.5). -/
structure SlotCtx where
  cid : W16
  adm : Nat
  range : Bool
  statsFull : Bool
  sealed : Bool
  paced : Bool
  params : Params
  gens : List GenCtx
  pred : List W32
  clear : BitVec 4096
  theta0 : Int
  beta : Nat
  k : Nat
  w : Nat
  refine : Bool
  query : List W16
  deriving DecidableEq, Repr

/-- What one source has counted for one slot (05 Tables 5.1, 5.2): ELIG, VISCLR, OWED, the highest score scored
in full (INT32 minimum if none), Σ s, Σ s², counts by absolute bin u (05 R171), whether a clamp acted (03 R85)
and whether an integrity fault was met. -/
structure Tally where
  elig : Nat
  visclr : Nat
  owed : Nat
  max : Int
  sum : Int
  sumsq : Nat
  hist : List (Int × Nat)
  clip : Bool
  integ : Bool
  deriving DecidableEq, Repr

def Tally.zero : Tally := ⟨0, 0, 0, -2147483648, 0, 0, [], false, false⟩

/-- A candidate at the selector (05 Table 5.1): VID, score, version, SIDE, slot address. -/
structure Cand where
  vid : W64
  score : Int
  version : BitVec 20
  side : Bool
  slot : W64
  deriving DecidableEq, Repr

/-- A candidate after refine (05 R161) or rerank (07 R243): the FP32 score, absent when it is excluded. -/
structure Scored where
  cand : Cand
  score : Option W32
  deriving DecidableEq, Repr

/-- Which stage of a SEARCH (07, search stage programs). -/
inductive Stage where
  | encode
  | lut
  | rerank
  deriving DecidableEq, Repr

/-- Where a fetched command stands. -/
inductive Phase where
  | fetched
  | fenceHeld
  | powerHeld
  | waitEngine (st : Stage)
  | inStage (st : Stage)
  | waitSlot
  | inSlot
  | refining
  | payload
  | waitEncode
  | encoding
  | staging
  | committed
  | flushing
  | selftest (claim : Nat)
  | activity (claim : Nat)
  | entering
  deriving DecidableEq, Repr

structure Approval where
  meas : BitVec 256
  handle : W32
  kind : Nat
  sealedOk : Bool
  deriving DecidableEq, Repr

/-- A SEARCH or RANGE that has passed its checks. `aborted`: it completes with ABORTED once its flash reads in flight have
returned (12 R430). `gens`: the live generations at admission (03 R89). `waits`: it did not meet all three conditions of 01 R21 then. -/
structure SearchJob where
  ctx : SlotCtx
  pinTake : Option Nat
  partialList : Bool
  withPayload : Bool
  cr : Nat
  rw : Nat
  encodeProg : W32
  lutProg : W32
  rerankProg : W32
  encodeBudget : Nat
  rerankBudget : Nat
  input : List Byte
  raddr : W64
  rlen : Nat
  rclass : Nat
  gens : List Gen
  waits : Bool
  queryF : List W32
  clipN : Nat
  clipD : Nat
  lutDone : Bool
  slot : Option Nat
  result : List Cand
  tally : Tally
  total : Nat
  tiesN : Nat
  scanTies : Nat
  scored : List Scored
  awaiting : Nat
  integ : Bool
  dupInc : Bool
  allPaced : Bool
  final : List (Cand × W32)
  payloads : List (List Byte)
  offsetRead : Bool
  boundUs : Nat
  encUnits : Nat
  rrUnits : Nat
  sideSources : List Nat
  aborted : Bool
  order : Nat
  approvals : List Approval
  deriving DecidableEq, Repr

/-- One record of an insert or upsert batch as delivered (12 R418), and as encoded (03 R72). -/
structure InRec where
  vid : W64
  attr : W64
  ext : W64
  vec : List W32
  payload : List Byte
  deriving DecidableEq, Repr

structure BatchJob where
  cid : W16
  durable : Bool
  wclear : BitVec 4096
  gen : Byte
  vids : List W64
  recs : List InRec
  ents : List Nat
  ref : Option W16
  kind : Option Bool
  csn : Nat
  count : Nat
  replaced : Nat
  jsn : Nat
  deriving DecidableEq, Repr

/-- A maintenance activity (14 Table 14.2), or a self-test (12 Table 12.8). -/
inductive Activity where
  | update (part unit : Nat) (rest : List Nat) (image : List Byte) (failed : Nat)
  | refetch (part unit : Nat)
  | bypass (ch : Nat)
  | rowRemap (s p bank row : Nat)
  | rowRetire (s p bank row : Nat)
  | laneRemap (s chan : Nat)
  | flashRetire (ch block : Nat) (package : Option Nat)
  | pcRetire (p : Nat)
  | stackRetire (s : Nat)
  | channelRewrite (ch : Nat)
  | holdupTest (sect : Nat)
  | ieee1500 (s chan : Nat) (name : String) (cls : Nat) (data : List Byte)
  | selftest (target index : Nat) (extended : Bool)
  deriving DecidableEq, Repr

/-- What a fetched command works on; `act` is the activity of a MAINT command held for the return to Run. -/
inductive Job where
  | none
  | search (j : SearchJob)
  | batch (j : BatchJob)
  | flush (csn : Nat)
  | power (st : Nat)
  | act (a : Activity)
  deriving DecidableEq, Repr

/-- A fetched command: queue, tag, fetch number, its 64 bytes, phase, admission CSN (once it has one), work.
`plain` is the plaintext of a sealed queue's request envelope (13 R460), `body` a MAINT body as read at its checks. -/
structure Cmd where
  queue : Nat
  tag : Nat
  seq : Nat
  bytes : List Byte
  phase : Phase
  held : Bool
  delayed : Bool
  adm : Option Nat
  session : BitVec 12
  plain : Option (List Byte)
  envSeq : Nat
  body : List Byte
  job : Job
  deriving DecidableEq, Repr

structure Qau where
  evq : Nat
  even : Bool
  evdrop : Nat
  seq : Nat
  queues : Tab Queue
  backlog : List OutRec
  mLost : Nat
  cmds : List Cmd
  fetched : Nat
  order : Nat
  irqs : List (Nat × Nat)
  irqTgt : Tab (BitVec 7)
  admitted : Nat
  deriving DecidableEq, Repr

/-! ## Weevils, the Reel, the selector (04, 05) -/

/-- A slot on one Weevil or lap member (04 Table 4.4). `phase` 0 free, 1 loaded, 2 active, 3 left. `start` is
the header index, or the chunk, at which it began; `owed` the blocks or chunks owed (04 R138, R140). -/
structure WSlot where
  phase : Nat
  theta : Int
  mx : Int
  start : Nat
  owed : List Nat
  tally : Tally
  allPaced : Bool
  deriving DecidableEq, Repr

def WSlot.free : WSlot := ⟨0, 0, -2147483648, 0, [], Tally.zero, true⟩

/-- An entry of a source's stream (05 Table 5.2). A Weevil's CAND carries a locator (04 R101). A STATS entry stands for one word of its
source's counts. -/
inductive Entry where
  | cand (slot : Nat) (c : Cand)
  | stats (slot word : Nat) (t : Tally)
  | leave (slot : Nat) (t : Tally)
  deriving DecidableEq, Repr

/-- A Weevil's own state (04). `out`: its output buffer of 512 entries (05 R150); `waiting`: emissions that wait for a place in
it. `level`: the thermal level applied at its last block boundary (10 R367). `accepted`: window entries accepted, in order, with their requester and their 64 bytes as they
stood at acceptance (R134). -/
structure Weevil where
  pos : Nat
  paused : Bool
  stalled : Bool
  paced : Bool
  wslots : Tab WSlot
  out : List Entry
  waiting : List Entry
  accepted : List (Nat × Nat × List Byte)
  repair : List Nat
  staged : Option (List Byte)
  ucode : W16
  image : Option (List Byte)
  v1Run : Bool
  passThrough : Bool
  level : Nat
  deriving DecidableEq, Repr

/-- A Reel slot (04 R110). -/
structure ReelSlot where
  busy : Bool
  cmd : Nat
  queue : Nat
  tag : Nat
  loaded : Bool
  ctx : Option SlotCtx
  deriving DecidableEq, Repr

structure Reel where
  pauseMax : Nat
  dshare : Nat
  mode : Bool
  scans : Nat
  lastUs : Nat
  cfg : Tab (BitVec 4)
  slots : Tab ReelSlot
  weevils : Tab Weevil
  quar : Tab Nat
  deriving DecidableEq, Repr

/-- One half's selection for one slot (05 R159). `atSend`: the VIDs held when it last sent a threshold (R156). -/
structure SelSlot where
  held : List Cand
  total : Nat
  sent : Option Int
  tieScore : Option Int
  tieN : Nat
  dupInc : Bool
  integ : Bool
  left : Nat
  tally : Tally
  atSend : List W64
  deriving DecidableEq, Repr

def SelSlot.empty : SelSlot := ⟨[], 0, none, none, 0, false, false, 0, Tally.zero, []⟩

/-- The selectors (05): SEL_STAT counts, exit ports, halves by half * 32 + slot, the highest threshold sent
per slot (05 R154), CAND entries of a slot's present scan by exit port * 32 + slot (05 R152). -/
structure Sel where
  dups : Nat
  dupinc : Nat
  thrSent : Nat
  entries : Tab Nat
  stallUs : Tab Nat
  halves : Tab SelSlot
  sent : Tab (Option Int)
  scanEnts : Tab Nat
  deriving DecidableEq, Repr

/-! ## HBM (10, 14) -/

/-- A region (10 Table 10.2). -/
structure Region where
  aperture : Nat
  extents : Nat
  first : Nat
  raw : Bool
  interleave : Nat
  warden : Bool
  dscan : Bool
  pc : Nat
  inStacks : BitVec 12
  tag : Byte
  access : BitVec 16
  deriving DecidableEq, Repr

/-- A stack's controller (10). `hot`: the stack's sensor failed and it is held at level 2 (R368). `lanes`:
spare lanes used, by channel. -/
structure Stack where
  temp : Nat
  level : Nat
  cool : Tab Nat
  hot : Bool
  retired : Bool
  answering : Bool
  lanes : Tab Nat
  ce : Nat
  ue : Nat
  mis : Nat
  dieCe : Nat
  dieUe : Nat
  poison : Nat
  accErr : Nat
  logClass : Nat
  logCause : Nat
  logDpa : Nat
  pending : Tab (BitVec 32)
  engFence : Tab (BitVec 32)
  deriving DecidableEq, Repr

/-- A pseudo-channel's mode (10 R352-R354), the mask that a change under way brings, buffered line writes, postponed refreshes; rows of failed signatures, each with the
second of its last failure (14 R501). -/
structure Pch where
  scan : Bool
  pendingChange : Bool
  zeroing : Bool
  banks : BitVec 48
  nextBanks : BitVec 48
  wbuf : Nat
  postponed : Nat
  retired : Bool
  retiredRows : Nat
  badRows : List (Nat × Nat)
  deriving DecidableEq, Repr

/-- A bank's repair state (14 R497, R498): spares used; chain depth of each remapped row. -/
structure Bank where
  spares : Nat
  chain : Tab Nat
  deriving DecidableEq, Repr

/-- The memory system. `tags`: the TAG of each PROT sector that has been written (10 R343), by sector. -/
structure Hbm where
  mem : List Host.Cell
  poisoned : List Nat
  tags : Tab Byte
  regions : Tab (Option Region)
  ctls : Tab Stack
  pchs : Tab Pch
  banks : Tab Bank
  serviceStopped : Bool
  deriving DecidableEq, Repr

/-! ## Engines (07, 08, 09, 11) -/

/-- An exact group sum of TILED order (09 R317): value m * 2^e, or NaN, or an infinity. -/
structure GroupSum where
  nan : Bool
  pinf : Bool
  ninf : Bool
  m : Int
  e : Int
  deriving DecidableEq, Repr

def GroupSum.zero : GroupSum := ⟨false, false, false, 0, 0⟩

/-- One accumulator of an open tile (09 Table 9.4): p is also lane 0, `i` the INT32 accumulator. -/
structure Acc where
  p : W32
  s : W32
  c : W32
  l1 : W32
  l2 : W32
  l3 : W32
  grp : GroupSum
  n : Nat
  i : Int
  deriving DecidableEq, Repr

/-- The open tile (08 R281, 09 R321). -/
structure OpenTile where
  rows : Nat
  cols : Nat
  isInt : Bool
  tiled : Bool
  group : Nat
  accs : List Acc
  tsat : Bool
  tinv : Bool
  scaleA : Option (BitVec 128)
  scaleB : Option (BitVec 128)
  deriving DecidableEq, Repr

/-- The matrix state that the front end tracks at issue (08 R288, 09 R316, R318). -/
structure MatIssue where
  rows : Nat
  cols : Nat
  isInt : Bool
  zeroLoad : Bool
  order : Option Bool
  terms : Nat
  scales : Option (Nat × Nat)
  deriving DecidableEq, Repr

/-- Register files named by hazard records (07 R227); `e` is the open tile. -/
inductive RegFile where
  | s
  | a
  | v
  | p
  | t
  deriving DecidableEq, Repr

structure RegHaz where
  unit : OcUnit
  file : RegFile
  idx : Nat
  write : Bool
  token : Option Nat
  deriving DecidableEq, Repr

structure SramHaz where
  unit : OcUnit
  lo : Nat
  hi : Nat
  write : Bool
  token : Option Nat
  deriving DecidableEq, Repr

/-- An issued operation of a unit, with the operands read at issue (07 R227): its word, s and a values, tile
descriptors; the fetch address; the progress offset (11 R380). -/
structure Op where
  seq : Nat
  unit : OcUnit
  word : W64
  pc : Nat
  sa : W64
  sb : W64
  sc : W64
  aa : W64
  ad : W64
  td : BitVec 128
  ta : BitVec 128
  tb : BitVec 128
  offset : Nat
  deriving DecidableEq, Repr

/-- A page of an engine address space (11 Tables 11.1, 11.2). `frame`: the DPA of the frame it holds, also while that is
being filled; `writing`: being written out (R378). -/
structure Page where
  va : Nat
  size : Nat
  kind : Nat
  w : Bool
  pin : Bool
  res : Bool
  d : Bool
  a : Bool
  frame : Option Nat
  fla : BitVec 40
  backed : Bool
  writing : Bool
  wanted : Bool
  deriving DecidableEq, Repr

/-- A trap record (11 Table 11.8). -/
structure TrapRec where
  pc : Nat
  code : Nat
  unit : OcUnit
  info : Nat
  va : Nat
  offset : Nat
  deriving DecidableEq, Repr

/-- Where a context stands (11): on an engine, saved and runnable, waiting for a page, trapped since a second. -/
inductive CtxState where
  | running (e : Nat)
  | saved
  | pageWait
  | trapped (since : Nat)
  deriving DecidableEq, Repr

/-- What a context runs: a stage of a command (07), or a program launched from a queue (12 R423). -/
inductive Owner where
  | stage (cmd : Nat) (st : Stage)
  | maint (queue : Nat)
  deriving DecidableEq, Repr

/-- A context (11): program, register files, tokens (counted from the unfinished operations), hazard records,
open tile, live windows, SRAM, address space; `saved`: it has run and been saved (11 R392); `lastFault`: the code of its most recent trap
(11 R382). -/
structure Ctx where
  owner : Owner
  cls : Nat
  st : CtxState
  prog : BitVec 24
  isSealed : Bool
  ucode : W16
  image : List W64
  pc : Nat
  ef : BitVec 5
  count : Nat
  budget : Nat
  s : Tab W64
  a : Tab W64
  v : Tab (BitVec 2048)
  p : Tab (BitVec 256)
  t : Tab (BitVec 128)
  issued : Nat
  ops : List Op
  regHaz : List RegHaz
  sramHaz : List SramHaz
  mat : Option MatIssue
  tile : Option OpenTile
  live : BitVec 48
  sram : Tab Byte
  pages : List Page
  maps : Nat
  pageAt : Option Nat
  trapRec : Option TrapRec
  ended : Bool
  saved : Bool
  lastFault : Nat
  deriving DecidableEq, Repr

/-- What an engine works on, or is to work on: `stage` is a stage program that waits for its context. -/
inductive EngWork where
  | idle
  | context (c : Nat)
  | lutStd (cmd : Nat)
  | stage (cmd : Nat)
  | encode (cmd : Nat)
  | lap (group : Nat)
  | test (cmd : Nat)
  deriving DecidableEq, Repr

/-- An engine (07 ENG_STAT, ENG_CTL). -/
structure Engine where
  ucode : W16
  drain : Bool
  lapok : Bool
  work : EngWork
  isDrained : Bool
  updating : Bool
  permanent : Bool
  fault : Nat
  cls : Nat
  req : Nat
  lapSlots : Tab WSlot
  chunkPos : Nat
  out : List Entry
  deriving DecidableEq, Repr

/-- A lap group (07 R246). -/
structure LapGroup where
  id : Nat
  cid : W16
  members : List Nat
  slots : List Nat
  deriving DecidableEq, Repr

/-- Engine work waiting in a class; `req` is its place in the order of requests (11 R397). -/
structure Work where
  cls : Nat
  cmd : Nat
  work : EngWork
  req : Nat
  deriving DecidableEq, Repr

structure Eng where
  engines : Tab Engine
  ctxs : Tab (Option Ctx)
  groups : List LapGroup
  nextGroup : Nat
  work : List Work
  nextReq : Nat
  saving : Nat
  preempts : Nat
  slotWait : Nat
  resvA : Nat
  resvB : Nat
  floors : Tab (BitVec 2)
  freeMin : Nat
  preemptUs : Nat
  pageins : Nat
  evicts : Nat
  deriving DecidableEq, Repr

/-! ## Warden (13) -/

/-- A lock entry (13 Table 13.3): CSR DPA, field mask, value. -/
structure Lock where
  dpa : Nat
  mask : W64
  value : W64
  deriving DecidableEq, Repr

/-- The policy in force (13 Table 13.3). -/
structure Policy where
  version : Nat
  flags : W32
  epoch : Nat
  svn : List Nat
  osRead : BitVec 4096
  osWrite : BitVec 4096
  revoked : List W64
  approvals : List Approval
  regions : List Region
  locks : List Lock
  digest : BitVec 256
  deriving DecidableEq, Repr

/-- A key-table entry in use (13 R455-R458). -/
structure Session where
  queue : Nat
  keyIn : List Byte
  keyOut : List Byte
  confKey : List Byte
  sid : List Byte
  flags : W32
  cids : List W16
  read : BitVec 4096
  write : BitVec 4096
  grantId : W64
  epoch : Nat
  notAfter : Nat
  seqIn : Nat
  seqOut : Nat
  ending : Option Nat
  deriving DecidableEq, Repr

structure AuditEnt where
  boot : Nat
  seq : Nat
  wall : Nat
  unc : Nat
  type : Nat
  digest : BitVec 256
  deriving DecidableEq, Repr

/-- A request in hand (13 R441), with the mailbox buffer it stands in; none for one that the management port relayed (16 R555). -/
structure Request where
  type : Nat
  echo : W64
  body : List Byte
  buf : Option (BitVec 31)
  bad : Option Nat
  deriving DecidableEq, Repr

/-- The calendar (14 R509, R510): wall estimate and uncertainty as last set, and the second at which. -/
structure Calendar where
  wall : Nat
  unc : Nat
  setAt : Nat
  deriving DecidableEq, Repr

structure Warden where
  owner : Option (List Byte)
  ownerEpoch : Nat
  salt : Nat
  erased : Bool
  idSeed : List Byte
  digests : List (BitVec 256)
  policy : Option Policy
  nextPolicy : Option Policy
  locks : List Lock
  mrs : Tab (BitVec 256)
  buf : BitVec 31
  request : Option Request
  result : Nat
  rlen : Nat
  challenges : List (BitVec 256 × Nat)
  draws : Nat
  audit : List AuditEnt
  auditSeq : Nat
  auditHead : BitVec 256
  calendar : Option Calendar
  tseq : Option Nat
  sigNext : Nat
  sigEnd : Nat
  sigBoot : Nat
  savedSig : Option (Nat × Nat)
  kem : Nat
  keys : Tab (Option Session)
  handover : Bool
  debugOpen : Bool
  scrub : Bool
  lease : Nat
  sealedOff : Bool
  debugSinceBoot : Bool
  tamper : Nat
  tamperSinceBoot : Bool
  romOnly : Bool
  ksKey : List Byte
  jnlKey : List Byte
  fuseFail : Bool
  deriving DecidableEq, Repr

/-! ## Maintenance (14) -/

/-- A claim-table entry (14 MAINT_CLAIMn). `state` 0 waiting, 1 running, 2 paused, 3 ending. -/
structure Claim where
  state : Nat
  act : Activity
  auto : Bool
  cmd : Nat
  queue : Nat
  tag : Nat
  pausedBy : List Nat
  since : Nat
  begun : Bool
  deriving DecidableEq, Repr

structure Maint where
  claims : Tab (Option Claim)
  drops : Nat
  refused : Nat
  weevilSlots : List Nat
  swapBack : Option Nat
  deriving DecidableEq, Repr

/-! ## Power, thermal, hold-up, meter, lifetime (14, 15) -/

/-- Counters kept for life (14 Table 14.9). -/
structure LifeCounts where
  poh : Nat
  scans : Nat
  erase : Tab Nat
  therm : Tab Nat
  deriving DecidableEq, Repr

structure Life where
  boot : Nat
  now : LifeCounts
  stored : LifeCounts
  selKind : Nat
  selIndex : BitVec 32
  deriving DecidableEq, Repr

/-- The power controller (15). `state` and `target`: 0 Run, 1 Poise, 2 Rest, 3 Hush, 4 Vigil. `protect`: protective Rest;
`byProtect`: the state was entered for it. `withheld`: free Reel slots and work of classes 2 and 3 (R513). `bound`: the module bound
in ns. `owner`: the POWER command that asked; `after`: the state that follows its return to Run. -/
structure Pwr where
  state : Nat
  target : Nat
  entering : Bool
  protect : Bool
  protectFlow : Bool
  byProtect : Bool
  railMv : Nat
  capW : Nat
  opsel : Nat
  hotHalf : Bool
  hotClear : Nat
  withheld : Bool
  pinW : Nat
  iin : Nat
  vin : Nat
  pace : W16
  bound : Nat
  owner : Option Nat
  after : Option Nat
  deriving DecidableEq, Repr

/-- A sensor group (15 Table 15.3). `cool`: per level, for how many reads together, 40 at most, the reading has stayed 3 °C below
the level's threshold. -/
structure Group where
  level : Nat
  peak : Nat
  temp : Nat
  cool : Tab Nat
  failed : Bool
  deriving DecidableEq, Repr

/-- The thermal monitor and the flow monitor (15 R523, R524, 16 R541): counts of readings together, as far as 10 ms, 1 s. -/
structure Therm where
  groups : Tab Group
  allClear : Nat
  flow : Nat
  lowFlow : Nat
  veryLow : Nat
  okFlow : Nat
  flowPosted : Bool
  deriving DecidableEq, Repr

structure Sect where
  removed : Bool
  esr : Nat
  capUf : Nat
  deriving DecidableEq, Repr

structure Hold where
  bankMv : Nat
  testing : Nat
  charged : Bool
  below : Bool
  connected : BitVec 6
  sects : Tab Sect
  nextTest : Nat
  saveMib : Nat
  saveEnergy : Nat
  saveUs : Nat
  saveUsed : Bool
  saveValid : Bool
  saveBoot : Nat
  saveLife : Option LifeCounts
  reportDue : Bool
  deriving DecidableEq, Repr

/-- A meter log entry (15 R535). -/
structure MeterEnt where
  seq : Nat
  type : Nat
  energy : W64
  onTime : Nat
  data : W64
  deriving DecidableEq, Repr

/-- The meter (15 R532-R536). `ticks` counts updates of METER_INST, ten to a second of METER_ON; `lastSign` is the tick of the last
request that was taken; `rangeLeft`: the current has left 3-72 A since the last reading. -/
structure Meter where
  energy : W64
  nvEnergy : W64
  off : Bool
  power : W16
  curr : W16
  volt : W16
  present : Bool
  sealIntact : Bool
  fault : Bool
  lrsVer : W16
  ticks : Nat
  sigsLeft : Nat
  lastSign : Option Nat
  rangeLeft : Bool
  nonce : Tab W64
  busy : Bool
  result : Nat
  signNonce : List W64
  logIdx : Nat
  log : List MeterEnt
  logSeq : Nat
  rbuf : List Byte
  deriving DecidableEq, Repr

/-! ## Links and the module block (16) -/

structure NetPort where
  up : Byte
  media : Nat
  modPower : Byte
  macsec : Bool
  width : Nat
  rate : Nat
  tried : Bool
  deriving DecidableEq, Repr

/-- A memory registration (16 R547). -/
structure Registration where
  base : Nat
  len : Nat
  write : Bool
  deriving DecidableEq, Repr

/-- Blocks NET, PCIE and MGMT (16). `regs`: registrations by key. `msixTable`: address and data of the MSI-X vectors, two words each; `msixOn`:
vectors not masked. -/
structure Links where
  ports : Tab NetPort
  regs : Tab (Option Registration)
  saKeys : Tab W64
  received : List (Nat × List Byte)
  qcount : Nat
  qbase : Nat
  maxGen : Nat
  pcieOn : Bool
  flrs : Nat
  pcieUp : Bool
  pcieWidth : Nat
  pcieGen : Nat
  msixOn : Tab Bool
  msixTable : Tab W64
  msixPend : Tab Bool
  msixSent : List Nat
  ipv4 : W32
  fullLock : Bool
  warmLock : Bool
  mgmtAddr : W32
  mgmtRate : Nat
  deriving DecidableEq, Repr

/-- Block MOD and the course of start-up (16). `phase` as MOD_START.PHASE; `accepting`: the QAU accepts commands;
`reload`: collections still to reload, in order. -/
structure Mod where
  lastKind : Nat
  lastCause : Nat
  rstLock : Bool
  phase : Nat
  accepting : Bool
  startPosted : Bool
  startKind : Nat
  reload : List W16
  watchdogs : List Nat
  stoppedUnits : List Nat
  pwrgd : Bool
  coreFw : W32
  kept : Option Nat
  deriving DecidableEq, Repr

/-- The last answer given to a requester: bytes, or an access fault (log 6). -/
inductive Rsp where
  | none
  | bytes (bs : List Byte)
  | value (v : W64)
  | denied
  deriving DecidableEq, Repr

structure State where
  pending : List Instr
  freeCtr : Nat
  secs : Nat
  rsp : Rsp
  mod : Mod
  qau : Qau
  csn : Csn
  alloc : Alloc
  corpus : Corpus
  flash : Flash
  reel : Reel
  sel : Sel
  hbm : Hbm
  eng : Eng
  warden : Warden
  maint : Maint
  life : Life
  pwr : Pwr
  therm : Therm
  hold : Hold
  meter : Meter
  links : Links
  deriving DecidableEq, Repr

/-! ## Defaults of the tables, and the state after reset

A table's default is its unit's reset value: the Reset column of its register tables. -/

def Corpus.empty : Corpus := ⟨[], [], [], [], []⟩

def Pin.free : Pin := ⟨false, 0, 0, 0xFFF#12, 0, 0⟩

def Channel.initial : Channel := ⟨Config.borerFw, 0, 0, 0, 0, 0, 0, true, [], [], 0⟩

def Row.initial : Row := ⟨true, false, none, false⟩

def Queue.initial : Queue :=
  { session := 0xFFF#12, intv := 0, ien := false, cqLog2 := 0, sqLog2 := 0, maint := false, enable := false,
    draining := false, reEnable := false, sqBase := 0, cqBase := 0, tail := 0, head := 0, sqHead := 0, cqTail := 0,
    phase := true, err := 0, stopped := false, tags := 0, held := [], lost := 0, atReset := [] }

def Weevil.initial : Weevil :=
  { pos := 0, paused := false, stalled := false, paced := false, wslots := [], out := [], waiting := [], accepted := [], repair := [],
    staged := none, ucode := Config.weevilUcode, image := none, v1Run := false, passThrough := false, level := 0 }

def ReelSlot.free : ReelSlot := ⟨false, 0, 0, 0, false, none⟩

def Stack.initial : Stack :=
  { temp := 0, level := 0, cool := [], hot := false, retired := false, answering := true, lanes := [], ce := 0, ue := 0,
    mis := 0, dieCe := 0, dieUe := 0, poison := 0, accErr := 0, logClass := 0, logCause := 0, logDpa := 0,
    pending := [], engFence := [] }

def Pch.initial : Pch := ⟨false, false, false, 0, 0, 0, 0, false, 0, []⟩

def Bank.initial : Bank := ⟨0, []⟩

def Engine.initial : Engine :=
  { ucode := Config.engineUcode, drain := false, lapok := true, work := .idle, isDrained := false, updating := false,
    permanent := false, fault := 0, cls := 0, req := 0, lapSlots := [], chunkPos := 0, out := [] }

def Group.initial : Group := ⟨0, 0, 0, [], false⟩

def Sect.initial : Sect := ⟨false, 0, 0⟩

def NetPort.initial : NetPort := ⟨0, 0, 0, false, 3, 3, false⟩

def LifeCounts.zero : LifeCounts := ⟨0, 0, [], []⟩

def Csn.initial : Csn := ⟨0, 1, 0, none, [], [], []⟩

def Qau.initial : Qau := ⟨0, false, 0, 1, [], [], 0, [], 0, 0, [], [], 0⟩

def Reel.initial : Reel := ⟨50, 0, false, 0, 0, [], [], [], []⟩

def Sel.initial : Sel := ⟨0, 0, 0, [], [], [], [], []⟩

def Alloc.initial : Alloc := ⟨75, 90, false, [], [], []⟩

def Hbm.initial : Hbm := ⟨[], [], [], [], [], [], [], false⟩

/-- The refine area's 4 KiB units at the default ENGBACK (06 Table 6.2). -/
def refineUnits : Nat := (if Config.isF48 then 46492 else 94492) * 1000000000 / 4096

def Flash.initial : Flash :=
  { engback := 4, sparePct := 100, freeUnits := refineUnits, sparePosted := false, channels := [], rows := [],
    retired := [], retried := [], gone := [], deadPackages := [], slots := [], slotCursor := 0, backing := [], backingBytes := 0, imgs := [],
    journalRuns := [], ckptRun := none, supers := [], preErased := 2, ringPos := 0, jsn := 0, tail := [], ring := 0,
    sinceCkpt := 0, ckptJsn := 0, ckptBytes := 0, programmed := 0, map := Corpus.empty, mapCsn := 0, images := [], incoming := [],
    directory := [], rewritePaused := false }

def Eng.initial : Eng :=
  { engines := [], ctxs := [], groups := [], nextGroup := 0, work := [], nextReq := 0, saving := 0, preempts := 0, slotWait := 0,
    resvA := 2, resvB := 2, floors := [], freeMin := 512, preemptUs := 150, pageins := 0, evicts := 0 }

def Warden.initial : Warden :=
  { owner := none, ownerEpoch := 0, salt := 0, erased := false,
    idSeed := Config.kmac256 ((List.range 32).map (fun i => Config.kroot.extractLsb' (8 * i) 8)) [0x49, 0x44] [] 96, digests := [], policy := none, nextPolicy := none, locks := [],
    mrs := [], buf := 0, request := none, result := 0, rlen := 0, challenges := [], draws := 0,
    audit := [], auditSeq := 0, auditHead := 0, calendar := none, tseq := none, sigNext := 0, sigEnd := 0,
    sigBoot := 0, savedSig := none, kem := 0, keys := [], handover := false, debugOpen := false, scrub := false,
    lease := 0, sealedOff := false, debugSinceBoot := false, tamper := 0, tamperSinceBoot := false, romOnly := false, ksKey := [], jnlKey := [],
    fuseFail := false }

def Pwr.initial : Pwr :=
  { state := 0, target := 0, entering := false, protect := false, protectFlow := false, byProtect := false, railMv := 750, capW := 2400,
    opsel := 0, hotHalf := false, hotClear := 0, withheld := false, pinW := 0, iin := 0, vin := 0, pace := 0, bound := 0,
    owner := none, after := none }

def Hold.initial : Hold :=
  { bankMv := 0, testing := 0, charged := false, below := true, connected := 0, sects := [], nextTest := 0,
    saveMib := 0, saveEnergy := 0, saveUs := 0, saveUsed := false, saveValid := false, saveBoot := 0,
    saveLife := none, reportDue := false }

def Meter.initial : Meter :=
  { energy := 0, nvEnergy := 0, off := false, power := 0, curr := 0, volt := 0, present := true, sealIntact := true, fault := false,
    lrsVer := Config.meterLrsVer, ticks := 0, sigsLeft := 1048576, lastSign := none, rangeLeft := false, nonce := [],
    busy := false, result := 0, signNonce := [], logIdx := 0, log := [], logSeq := 0, rbuf := [] }

def Links.initial : Links :=
  { ports := [], regs := [], saKeys := [], received := [], qcount := 0, qbase := 0, maxGen := 0, pcieOn := false,
    flrs := 0, pcieUp := false, pcieWidth := 0, pcieGen := 0, msixOn := [], msixTable := [], msixPend := [], msixSent := [], ipv4 := 0,
    fullLock := false, warmLock := false, mgmtAddr := 0, mgmtRate := 0 }

def Mod.initial : Mod :=
  { lastKind := 0, lastCause := 0, rstLock := false, phase := 0, accepting := false,
    startPosted := false, startKind := 0, reload := [], watchdogs := [], stoppedUnits := [],
    pwrgd := false, coreFw := 0, kept := none }

/-- Right after reset (00, the Reset columns; log 2): every register at its reset value, no corpus, no owner,
HBM with nothing listed, before the start-up sequence that COLD_START runs. -/
def State.reset : State :=
  { pending := [], freeCtr := 0, secs := 0, rsp := .none, mod := Mod.initial, qau := Qau.initial, csn := Csn.initial,
    alloc := Alloc.initial, corpus := Corpus.empty, flash := Flash.initial, reel := Reel.initial, sel := Sel.initial,
    hbm := Hbm.initial, eng := Eng.initial, warden := Warden.initial,
    maint := ⟨[], 0, 0, [], none⟩, life := ⟨0, LifeCounts.zero, LifeCounts.zero, 0, 0⟩, pwr := Pwr.initial,
    therm := ⟨[], 0, 0, 0, 0, 0, false⟩, hold := Hold.initial, meter := Meter.initial, links := Links.initial }

end Sys2Proof.Machine
end

