-- ==== Sys2Proof/Machine/Tab.lean ====
section
/-! DEFINITION. Reading and writing a table (Tab) in its canonical form, and the bit and byte helpers that every
layout of the spec is read and written with (00 R19: little-endian, bit 0 least significant). -/

namespace Sys2Proof.Machine

variable {α : Type}

/-- The value at number `n`; the default `d` where none is listed. -/
def Tab.get (d : α) : Tab α → Nat → α
  | [], _ => d
  | (k, v) :: t, n => if n < k then d else if n = k then v else Tab.get d t n

/-- `n` takes value `v`: the default is never listed, and numbers rise. -/
def Tab.set [DecidableEq α] (d : α) : Tab α → Nat → α → Tab α
  | [], n, v => if v = d then [] else [(n, v)]
  | (k, w) :: t, n, v =>
    if n < k then (if v = d then (k, w) :: t else (n, v) :: (k, w) :: t)
    else if n = k then (if v = d then t else (n, v) :: t)
    else (k, w) :: Tab.set d t n v

/-- Numbers strictly rise from `lo` on and no entry equals the default. -/
def Tab.wfFrom [DecidableEq α] (d : α) : Nat → Tab α → Bool
  | _, [] => true
  | lo, (k, v) :: t => decide (lo ≤ k) && decide (v ≠ d) && Tab.wfFrom d (k + 1) t

/-- The canonical form of a table. -/
def Tab.wf [DecidableEq α] (d : α) (t : Tab α) : Bool := Tab.wfFrom d 0 t

/-- Change the value at one number. -/
def Tab.mod [DecidableEq α] (d : α) (t : Tab α) (n : Nat) (f : α → α) : Tab α :=
  Tab.set d t n (f (Tab.get d t n))

/-- Change every listed value; what an unlisted number reads as is kept by `f`. -/
def Tab.mapAll [DecidableEq α] (d : α) (f : α → α) (t : Tab α) : Tab α :=
  t.filterMap (fun e => if f e.2 = d then none else some (e.1, f e.2))

/-- The numbers below `n` from 0 on. -/
def upTo (n : Nat) : List Nat := List.range n

/-- `len` bits of a number from bit `lo` on. -/
def bits (x lo len : Nat) : Nat := (x >>> lo) % 2 ^ len

/-- Bit `i` of a number. -/
def bit (x i : Nat) : Bool := (x >>> i) % 2 = 1

def b2n (b : Bool) : Nat := if b then 1 else 0

/-- A field of `len` bits put at bit `lo`. -/
def field (v lo len : Nat) : Nat := (v % 2 ^ len) <<< lo

/-- Replace the field of `len` bits at bit `lo`. -/
def setBits (x lo len v : Nat) : Nat :=
  (x >>> (lo + len)) <<< (lo + len) + field v lo len + x % 2 ^ lo

/-- The number that bytes spell, least significant first. -/
def ofLe : List Byte → Nat
  | [] => 0
  | b :: bs => b.toNat + 256 * ofLe bs

/-- The low `n` bytes of a number, least significant first. -/
def leBytes : Nat → Nat → List Byte
  | 0, _ => []
  | n + 1, x => BitVec.ofNat 8 x :: leBytes n (x / 256)

/-- Bytes `lo` to `lo + len - 1` of a list, as a number. -/
def le (bs : List Byte) (lo len : Nat) : Nat := ofLe ((bs.drop lo).take len)

/-- Byte `i` of a list, 0 beyond its end. -/
def byteAt (bs : List Byte) (i : Nat) : Nat := (bs.getD i 0).toNat

/-- Zero bytes. -/
def zeros (n : Nat) : List Byte := List.replicate n 0

/-- A list cut or filled with zeros to `n` bytes. -/
def padTo (n : Nat) (bs : List Byte) : List Byte := bs.take n ++ zeros (n - bs.length)

/-- Every byte is zero. -/
def allZero (bs : List Byte) : Bool := bs.all (· == 0)

/-- Saturating count at `2 ^ w - 1`. -/
def satAdd (w x n : Nat) : Nat := min (2 ^ w - 1) (x + n)

/-- Ceiling of a quotient. -/
def ceilDiv (a b : Nat) : Nat := (a + b - 1) / b

/-- `x` clamped between two integers. -/
def clampI (lo hi x : Int) : Int := max lo (min hi x)

/-- The integer that `w` bits spell in two's complement. -/
def toSigned (w x : Nat) : Int :=
  let y := x % 2 ^ w
  if y < 2 ^ (w - 1) then (y : Int) else (y : Int) - (2 ^ w : Nat)

/-- The low `w` bits of an integer in two's complement. -/
def ofSigned (w : Nat) (x : Int) : Nat := (x % (2 ^ w : Nat)).toNat

/-- Words of `k` bytes each. -/
def chunksOf (k : Nat) : Nat → List Byte → List Nat
  | 0, _ => []
  | n + 1, bs => ofLe (bs.take k) :: chunksOf k n (bs.drop k)

/-- Change the element at one index. -/
def modAt (xs : List α) (i : Nat) (f : α → α) : List α :=
  match xs, i with
  | [], _ => []
  | x :: t, 0 => f x :: t
  | x :: t, i + 1 => x :: modAt t i f

/-- Put bytes over a list from index `i` on. -/
def overlay (bs : List Byte) (i : Nat) (new : List Byte) : List Byte :=
  bs.take i ++ new ++ bs.drop (i + new.length)

/-- The first element that satisfies `p`, with the list less it. -/
def takeFirst (p : α → Bool) : List α → Option (α × List α)
  | [] => none
  | x :: t => if p x then some (x, t) else (takeFirst p t).map (fun r => (r.1, x :: r.2))

/-- Insert before the first element that `x` precedes. -/
def insertBy (before : α → α → Bool) (x : α) : List α → List α
  | [] => [x]
  | y :: t => if before x y then x :: y :: t else y :: insertBy before x t

/-- A list in the order `before`. -/
def sortBy (before : α → α → Bool) (xs : List α) : List α := xs.foldl (fun acc x => insertBy before x acc) []

end Sys2Proof.Machine
end

