-- ==== Sys2Proof/Machine/Float.lean ====
section
/-! DEFINITION. Floating-point numbers of every format the module uses, as exact values m * 2^e: decoding, rounding to
nearest with ties to even (03 R71), and the operations, each exact and then rounded once. -/

namespace Sys2Proof.Machine

/-- A value: not a number, an infinity, or (-1)^neg * m * 2^e (m = 0 is a signed zero). -/
inductive FVal where
  | nan
  | inf (neg : Bool)
  | num (neg : Bool) (m : Nat) (e : Int)
  deriving DecidableEq, Repr

/-- What the top exponent code of a format holds. -/
inductive TopCode where
  | ieee
  | e4m3
  | finite
  deriving DecidableEq, Repr

/-- A binary format: exponent bits, fraction bits, and its top exponent code. -/
structure Fmt where
  ebits : Nat
  mbits : Nat
  top : TopCode
  deriving DecidableEq, Repr

def fp64 : Fmt := ⟨11, 52, .ieee⟩
def fp32 : Fmt := ⟨8, 23, .ieee⟩
def fp16 : Fmt := ⟨5, 10, .ieee⟩
def bf16 : Fmt := ⟨8, 7, .ieee⟩
def e5m2 : Fmt := ⟨5, 2, .ieee⟩
def e4m3 : Fmt := ⟨4, 3, .e4m3⟩
def e2m1 : Fmt := ⟨2, 1, .finite⟩

/-- Exponent of the smallest quantum. -/
def Fmt.emin (f : Fmt) : Int := 2 - (2 : Int) ^ (f.ebits - 1) - f.mbits

/-- Bits of the largest finite magnitude. -/
def Fmt.maxBits (f : Fmt) : Nat :=
  match f.top with
  | .ieee => (2 ^ f.ebits - 1) * 2 ^ f.mbits - 1
  | .e4m3 => 2 ^ (f.ebits + f.mbits) - 2
  | .finite => 2 ^ (f.ebits + f.mbits) - 1

def Fmt.signBit (f : Fmt) : Nat := 2 ^ (f.ebits + f.mbits)

/-- The value of a magnitude's bits. -/
def Fmt.magVal (f : Fmt) (neg : Bool) (x : Nat) : FVal :=
  let ex := x / 2 ^ f.mbits
  let m := x % 2 ^ f.mbits
  if ex = 0 then .num neg m f.emin else .num neg (m + 2 ^ f.mbits) (f.emin + (ex - 1 : Nat))

/-- The value that a format's bits stand for. -/
def Fmt.dec (f : Fmt) (bits : Nat) : FVal :=
  let neg := bits / f.signBit % 2 = 1
  let x := bits % f.signBit
  if x ≤ f.maxBits then f.magVal neg x
  else if f.top = .ieee ∧ x = f.maxBits + 1 then .inf neg else .nan

/-- The canonical NaN (07 R219; the same shape in every IEEE format). E4M3 has one NaN; E2M1 has none. -/
def Fmt.nanBits (f : Fmt) : Nat :=
  match f.top with
  | .ieee => (2 ^ f.ebits - 1) * 2 ^ f.mbits + 2 ^ (f.mbits - 1)
  | .e4m3 => 2 ^ (f.ebits + f.mbits) - 1
  | .finite => 0

/-- `m / 2^k` rounded to an integer, ties to even. -/
def rneShift (m k : Nat) : Nat :=
  let q := m / 2 ^ k
  let r := m % 2 ^ k
  if 2 * r > 2 ^ k ∨ (2 * r = 2 ^ k ∧ q % 2 = 1) then q + 1 else q

/-- `m / 2^k` rounded towards zero plus whether anything was cut. -/
def truncShift (m k : Nat) : Nat := m / 2 ^ k

/-- Magnitude bits of m * 2^e with a rounding of the shifted mantissa; may exceed maxBits. -/
def Fmt.magBits (f : Fmt) (rnd : Nat → Nat → Nat) (m : Nat) (e : Int) : Nat :=
  if m = 0 then 0
  else
    let q := max f.emin (e + Nat.log2 m - f.mbits)
    let m' := if q ≤ e then m * 2 ^ (e - q).toNat else rnd m (q - e).toNat
    (q - f.emin).toNat * 2 ^ f.mbits + m'

/-- The sign bit put before a magnitude. -/
def Fmt.signed (f : Fmt) (neg : Bool) (mag : Nat) : Nat := (if neg then f.signBit else 0) + mag

/-- Round to nearest, ties to even; overflow gives an infinity (the format's NaN where it has none). -/
def Fmt.rne (f : Fmt) : FVal → Nat
  | .nan => f.nanBits
  | .inf neg => if f.top = .ieee then f.signed neg (f.maxBits + 1) else f.signed neg f.nanBits
  | .num neg m e =>
    let x := f.magBits rneShift m e
    if x ≤ f.maxBits then f.signed neg x
    else if f.top = .ieee then f.signed neg (f.maxBits + 1) else f.signed neg f.nanBits

/-- Round to nearest, ties to even, saturating at the largest finite value (03 R72, R75). -/
def Fmt.rneSat (f : Fmt) : FVal → Nat
  | .nan => f.nanBits
  | .inf neg => f.signed neg f.maxBits
  | .num neg m e => f.signed neg (min f.maxBits (f.magBits rneShift m e))

/-- The value fits the format with no overflow after rounding. -/
def Fmt.overflows (f : Fmt) : FVal → Bool
  | .num _ m e => f.magBits rneShift m e > f.maxBits
  | .inf _ => true
  | .nan => false

namespace FVal

def zero : FVal := .num false 0 0
def ofInt (x : Int) : FVal := .num (x < 0) x.natAbs 0

def isFinite : FVal → Bool
  | .num _ _ _ => true
  | _ => false

def isNan : FVal → Bool
  | .nan => true
  | _ => false

def isZero : FVal → Bool
  | .num _ m _ => m = 0
  | _ => false

def isNeg : FVal → Bool
  | .nan => false
  | .inf n => n
  | .num n _ _ => n

def neg : FVal → FVal
  | .nan => .nan
  | .inf n => .inf (!n)
  | .num n m e => .num (!n) m e

def abs : FVal → FVal
  | .nan => .nan
  | .inf _ => .inf false
  | .num _ m e => .num false m e

/-- Signed mantissa. -/
def sig (n : Bool) (m : Nat) : Int := if n then -(m : Int) else m

/-- The value at quantum 2^e, exactly, where e is at most its own. -/
def scaled (n : Bool) (m : Nat) (e q : Int) : Int := sig n m * 2 ^ (e - q).toNat

/-- Exact sum. A sum of zeros is -0 only if both are; an exact cancellation is +0. -/
def add : FVal → FVal → FVal
  | .nan, _ => .nan
  | _, .nan => .nan
  | .inf a, .inf b => if a = b then .inf a else .nan
  | .inf a, .num _ _ _ => .inf a
  | .num _ _ _, .inf b => .inf b
  | .num na ma ea, .num nb mb eb =>
    let q := min ea eb
    let x := scaled na ma ea q + scaled nb mb eb q
    if x = 0 then .num (na && nb && ma = 0 && mb = 0) 0 0 else .num (x < 0) x.natAbs q

def sub (a b : FVal) : FVal := add a b.neg

/-- Exact product. -/
def mul : FVal → FVal → FVal
  | .nan, _ => .nan
  | _, .nan => .nan
  | .inf a, .inf b => .inf (a != b)
  | .inf a, .num n m _ => if m = 0 then .nan else .inf (a != n)
  | .num n m _, .inf b => if m = 0 then .nan else .inf (n != b)
  | .num na ma ea, .num nb mb eb => .num (na != nb) (ma * mb) (ea + eb)

/-- Quotient with 128 bits below the leading one and a sticky last bit, so that one rounding of it is exact. -/
def div : FVal → FVal → FVal
  | .nan, _ => .nan
  | _, .nan => .nan
  | .inf _, .inf _ => .nan
  | .inf a, .num n _ _ => .inf (a != n)
  | .num n _ _, .inf b => .num (n != b) 0 0
  | .num na ma ea, .num nb mb eb =>
    if mb = 0 then (if ma = 0 then .nan else .inf (na != nb))
    else
      let k := 128 + Nat.log2 mb
      let x := ma * 2 ^ k
      .num (na != nb) (2 * (x / mb) + (if x % mb = 0 then 0 else 1)) (ea - eb - k - 1)

end FVal

/-- Bits of the integer square root, from bit `k` down. -/
def isqrtGo (x : Nat) : Nat → Nat → Nat
  | 0, r => r
  | k + 1, r =>
    let t := r + 2 ^ k
    isqrtGo x k (if t * t ≤ x then t else r)

/-- Integer square root. -/
def isqrt (x : Nat) : Nat := isqrtGo x (Nat.log2 x / 2 + 1) 0

/-- Square root with a sticky last bit. A negative value gives NaN, -0 gives -0. -/
def FVal.sqrt : FVal → FVal
  | .nan => .nan
  | .inf n => if n then .nan else .inf false
  | .num n m e =>
    if m = 0 then .num n 0 0
    else if n then .nan
    else
      let k : Nat := 128 + (if (e % 2 = 0) then 0 else 1)
      let x := m * 2 ^ k
      let r := isqrt x
      .num false (2 * r + (if r * r = x then 0 else 1)) ((e - k) / 2 - 1)

/-- Order of two values that are numbers: -1, 0 or 1; none with a NaN. -/
def FVal.cmp : FVal → FVal → Option Int
  | .nan, _ => none
  | _, .nan => none
  | .inf a, .inf b => some (if a = b then 0 else if a then -1 else 1)
  | .inf a, .num _ _ _ => some (if a then -1 else 1)
  | .num _ _ _, .inf b => some (if b then 1 else -1)
  | .num na ma ea, .num nb mb eb =>
    let q := min ea eb
    let x := FVal.scaled na ma ea q
    let y := FVal.scaled nb mb eb q
    some (if x < y then -1 else if y < x then 1 else 0)

/-- Nearest integer, ties away from zero, of a finite value (03, rna). -/
def rnaFin (n : Bool) (m : Nat) (e : Int) : Int :=
  let a : Nat := if 0 ≤ e then m * 2 ^ e.toNat else (2 * m + 2 ^ (-e).toNat) / 2 ^ ((-e).toNat + 1)
  FVal.sig n a

/-- Nearest integer, ties to even, of a finite value. -/
def rneFin (n : Bool) (m : Nat) (e : Int) : Int :=
  FVal.sig n (if 0 ≤ e then m * 2 ^ e.toNat else rneShift m (-e).toNat)

/-- Truncation of a finite value towards zero. -/
def truncFin (n : Bool) (m : Nat) (e : Int) : Int :=
  FVal.sig n (if 0 ≤ e then m * 2 ^ e.toNat else m / 2 ^ (-e).toNat)

/-- rna clamped between two integers: an infinity takes the bound of its sign, a NaN gives 0; whether a clamp took
effect (03 R80, R84, R85). -/
def rnaClamp (lo hi : Int) : FVal → Int × Bool
  | .nan => (0, true)
  | .inf n => (if n then lo else hi, true)
  | .num n m e =>
    let x := rnaFin n m e
    (clampI lo hi x, decide (x < lo ∨ hi < x))

/-! ## Binary32 operations, on bits (03 R71) -/

def f32 (x : W32) : FVal := fp32.dec x.toNat
def toF32 (v : FVal) : W32 := BitVec.ofNat 32 (fp32.rne v)
def f32Add (a b : W32) : W32 := toF32 ((f32 a).add (f32 b))
def f32Sub (a b : W32) : W32 := toF32 ((f32 a).sub (f32 b))
def f32Mul (a b : W32) : W32 := toF32 ((f32 a).mul (f32 b))
def f32Div (a b : W32) : W32 := toF32 ((f32 a).div (f32 b))
def f32Sqrt (a : W32) : W32 := toF32 (f32 a).sqrt
def f32One : W32 := 0x3F800000#32
def f32Finite (a : W32) : Bool := (f32 a).isFinite
def f32Lt (a b : W32) : Bool := (f32 a).cmp (f32 b) = some (-1)
def f32Le (a b : W32) : Bool := (f32 a).cmp (f32 b) = some (-1) || (f32 a).cmp (f32 b) = some 0

/-- A BF16 word as FP32, exactly. -/
def bfToF32 (x : W16) : W32 := x.zeroExtend 32 <<< 16
/-- FP32 to BF16 by rne. -/
def f32ToBf (x : W32) : W16 := BitVec.ofNat 16 (bf16.rne (f32 x))

end Sys2Proof.Machine
end

