-- ==== Sys2Proof/Machine/Codes.lean ====
section
/-! DEFINITION. Codes, records and quantisation (03): refine encodings and their expansion, the scan code, a query's LUT
and scoring sets, the scan score, and the predicate program (04 R116, R117). -/

namespace Sys2Proof.Machine

/-! ## Coding parameters (R63, R66) -/

def Params.k (p : Params) : Nat := if p.pq8 then 256 else 16
/-- Dimensions of a subspace. -/
def Params.w (p : Params) : Nat := ceilDiv p.dim p.m
/-- Code bytes. -/
def Params.c (p : Params) : Nat := if p.pq8 then p.m else p.m / 2
/-- Packed record bytes (R70). -/
def Params.recBytes (p : Params) : Nat := p.c + (if p.format = 0 then 8 else if p.format = 1 then 16 else 32)
/-- Code groups of a block (04 R98). -/
def Params.groups (p : Params) : Nat := p.c / 8
/-- Subspaces of one code group (04 R99). -/
def Params.perGroup (p : Params) : Nat := if p.pq8 then 8 else 16
/-- Bytes of the vector part of a refine record (R74). -/
def Params.vecBytes (p : Params) : Nat :=
  let d := p.dim
  let raw := match p.refineEnc with
    | 0 => 2 * d
    | 1 => d
    | 2 => d
    | 3 => 4 + d
    | 4 => 4 + ceilDiv d 2
    | _ => ceilDiv d 32 + 16 * ceilDiv d 32
  8 * ceilDiv raw 8

/-- The codebooks hold no BF16 NaN or infinity (R64, R87). -/
def finiteBook (book : List W16) : Bool := book.all (fun x => (bf16.dec x.toNat).isFinite)

def ascending : List Nat → Bool
  | a :: b :: t => decide (a < b) && ascending (b :: t)
  | _ => true

/-- The constraints of Table 3.1 but DIM's upper limit. -/
def Params.valid (p : Params) : Bool :=
  decide (p.metric ≤ 2) && decide (1 ≤ p.dim)
  && (if p.pq8 then p.m = 8 || p.m = 16 else p.m = 16 || p.m = 32 || p.m = 64 || p.m = 128)
  && decide (p.format ≤ 2) && decide (p.outN ≤ 8) && (if p.format = 2 then decide (1 ≤ p.outN) else p.outN = 0)
  && ascending (p.outIdx.take p.outN) && (p.outIdx.take p.outN).all (· < p.dim) && (p.outIdx.drop p.outN).all (· = 0)
  && (p.format = 0 || (match f32 p.biasUnit with
      | .num n m _ => !n && decide (2 ^ 23 ≤ m)
      | _ => false))
  && decide (p.refineEnc ≤ 5)

/-- Dimension `d` contributes a term (R73). -/
def Params.counted (p : Params) (d : Nat) : Bool := decide (d < p.dim) && !(p.outIdx.take p.outN).contains d

/-! ## Refine encodings (R72-R76) -/

/-- The vector normalised as R72 step 2; none where its norm is 0. -/
def normalise (xs : List W32) : Option (List W32) :=
  let n := f32Sqrt (xs.foldl (fun a x => f32Add a (f32Mul x x)) 0)
  if (f32 n).isZero then none else some (xs.map (fun x => f32Div x n))

def f32Max (xs : List W32) : W32 := xs.foldl (fun a x => if f32Lt a x then x else a) (xs.headD 0)
def f32Min (xs : List W32) : W32 := xs.foldl (fun a x => if f32Lt x a then x else a) (xs.headD 0)
def f32Abs (x : W32) : W32 := x &&& 0x7FFFFFFF#32

/-- Nibbles packed two to a byte, the even one low. -/
def packNibbles : List Nat → List Byte
  | [] => []
  | [a] => [BitVec.ofNat 8 a]
  | a :: b :: t => BitVec.ofNat 8 (a + 16 * b) :: packNibbles t

def nibbles (bs : List Byte) : List Nat := bs.flatMap (fun b => [b.toNat % 16, b.toNat / 16])

/-- x / 2^e as FP32. -/
def scaleDown (x : W32) (e : Int) : W32 := toF32 ((f32 x).mul (.num false 1 (-e)))

/-- The shared exponent of an FP4B32 block (Table 3.7). -/
def fp4Exp (xs : List W32) : Int :=
  match f32 (f32Max (xs.map f32Abs)) with
  | .num _ m e => if m = 0 then 0 else clampI (-127) 127 (e + Nat.log2 m - 2)
  | _ => 127

/-- Lists of `n` elements each. -/
def groupsOf {α : Type} (n : Nat) : Nat → List α → List (List α)
  | 0, _ => []
  | k + 1, xs => xs.take n :: groupsOf n k (xs.drop n)

/-- The vector part of a refine record (Tables 3.5, 3.7), padded to a multiple of 8 bytes. With a scale of 0 or infinity a quotient
that is no number is coded 0 (log 87). -/
def encodeRefine (p : Params) (xs : List W32) : List Byte :=
  let raw := match p.refineEnc with
    | 0 => xs.flatMap (fun x => leBytes 2 (bf16.rne (f32 x)))
    | 1 => xs.map (fun x => BitVec.ofNat 8 (e4m3.rneSat (f32 x)))
    | 2 => xs.map (fun x => BitVec.ofNat 8 (e5m2.rneSat (f32 x)))
    | 3 =>
      let a := f32Max (xs.map f32Abs)
      let s : W16 := if (f32 a).isZero then 0x3F80 else f32ToBf (f32Div a 0x42FE0000#32)
      leBytes 4 s.toNat
        ++ xs.map (fun x => BitVec.ofInt 8 (rnaClamp (-127) 127 (f32 (f32Div x (bfToF32 s)))).1)
    | 4 =>
      let lo := f32Min xs
      let hi := f32Max xs
      let s : W16 := if (f32 lo).cmp (f32 hi) = some 0 then 0x3F80 else f32ToBf (f32Div (f32Sub hi lo) 0x41700000#32)
      let q (x : W32) : Int := (rnaClamp (-(2 ^ 40)) (2 ^ 40) (f32 (f32Div x (bfToF32 s)))).1
      let z := clampI 0 15 (q (lo ^^^ 0x80000000#32))
      leBytes 2 s.toNat ++ leBytes 2 z.toNat ++ packNibbles (xs.map (fun x => (clampI 0 15 (q x + z)).toNat))
    | _ =>
      let n := ceilDiv p.dim 32
      let blocks := groupsOf 32 n (xs ++ List.replicate (32 * n - p.dim) 0)
      blocks.map (fun b => BitVec.ofInt 8 (fp4Exp b + 127))
        ++ packNibbles (blocks.flatMap (fun b => b.map (fun x => e2m1.rneSat (f32 (scaleDown x (fp4Exp b))))))
  padTo p.vecBytes raw

/-- The BF16 expansion of a vector part (Table 3.8). -/
def expandRefine (p : Params) (bs : List Byte) : List W16 :=
  let out (v : FVal) : W16 := BitVec.ofNat 16 (bf16.rne v)
  match p.refineEnc with
  | 0 => (chunksOf 2 p.dim bs).map (BitVec.ofNat 16)
  | 1 => (bs.take p.dim).map (fun b => out (e4m3.dec b.toNat))
  | 2 => (bs.take p.dim).map (fun b => out (e5m2.dec b.toNat))
  | 3 =>
    let s := bf16.dec (le bs 0 2)
    ((bs.drop 4).take p.dim).map (fun b => out (FVal.mul (.ofInt b.toInt) s))
  | 4 =>
    let s := bf16.dec (le bs 0 2)
    let z := byteAt bs 2
    ((nibbles (bs.drop 4)).take p.dim).map (fun u => out (FVal.mul (.ofInt ((u : Int) - z)) s))
  | _ =>
    let n := ceilDiv p.dim 32
    let us := (nibbles (bs.drop n)).take p.dim
    us.zipIdx.map (fun (u, i) =>
      let b := byteAt bs (i / 32)
      if b = 255 then out .nan else out ((e2m1.dec u).mul (.num false 1 ((b : Int) - 127))))

/-! ## The scan code (R73) -/

/-- Centroid `c` of subspace `j`: its `w` BF16 values. -/
def centroid (p : Params) (book : List W16) (j c : Nat) : List W16 := (book.drop ((j * p.k + c) * p.w)).take p.w

/-- The terms of subspace `j`, folded in ascending dimension order. -/
def foldSub (p : Params) (j : Nat) (v cent : List W16) (term : W32 → W32 → W32) : W32 :=
  ((List.range p.w).foldl (fun a i =>
    let d := j * p.w + i
    if p.counted d then f32Add a (term (bfToF32 (v.getD d 0)) (bfToF32 (cent.getD i 0))) else a) 0)

def sqDiff (a b : W32) : W32 := f32Mul (f32Sub a b) (f32Sub a b)

/-- The nearest centroid of subspace `j`; a tie goes to the lower index. -/
def nearest (p : Params) (book v : List W16) (j : Nat) : Nat :=
  ((List.range p.k).foldl (fun (best : Nat × Option W32) c =>
    let s := foldSub p j v (centroid p book j c) sqDiff
    match best.2 with
    | none => (c, some s)
    | some b => if f32Lt s b then (c, some s) else best) (0, none)).1

/-- The code of an expanded vector (R66, R73). -/
def codeOf (p : Params) (book v : List W16) : List Byte :=
  let cs := (List.range p.m).map (nearest p book v)
  if p.pq8 then cs.map (BitVec.ofNat 8) else packNibbles cs

/-- FP16 values of the outlier dimensions, eight places, zero beyond OUT_N (R70, R72 step 6, R82). -/
def outliersOf (p : Params) (v : List W16) : List W16 :=
  (List.range 8).map (fun i =>
    if i < p.outN then BitVec.ofNat 16 (fp16.rneSat (bf16.dec (v.getD (p.outIdx.getD i 0) 0).toNat)) else 0)

/-- The packed scan form of an expanded vector with its words (R70, R72). -/
def scanRecOf (p : Params) (book v : List W16) (attr ext : W64) : ScanRec :=
  ⟨codeOf p book v, attr, if p.format = 0 then 0 else ext, if p.format = 2 then outliersOf p v else []⟩

/-- Packed bytes of a scan record (R70). -/
def ScanRec.bytes (p : Params) (r : ScanRec) : List Byte :=
  r.code ++ leBytes 8 r.attr.toNat ++ (if p.format = 0 then [] else leBytes 8 r.ext.toNat)
    ++ (if p.format = 2 then r.outl.flatMap (fun x => leBytes 2 x.toNat) else [])

/-- A scan record read from its packed bytes. -/
def ScanRec.ofBytes (c format : Nat) (bs : List Byte) : ScanRec :=
  ⟨bs.take c, BitVec.ofNat 64 (le bs c 8), if format = 0 then 0 else BitVec.ofNat 64 (le bs (c + 8) 8),
    if format = 2 then (chunksOf 2 8 (bs.drop (c + 16))).map (BitVec.ofNat 16) else []⟩

/-- Centroid index of subspace `j` in a code (R66). -/
def subCode (pq8 : Bool) (code : List Byte) (j : Nat) : Nat :=
  if pq8 then byteAt code j else bits (byteAt code (j / 2)) (4 * (j % 2)) 4

/-! ## Attribute words (R67) -/

def accessClass (attr : W64) : Nat := bits attr.toNat 52 12
def partitionGroup (attr : W64) : Nat := bits attr.toNat 44 8
def biasOf (ext : W64) : Int := toSigned 16 (bits ext.toNat 48 16)

/-! ## The query and its LUT (R78-R83) -/

/-- The BF16 query (R78): none where the query is refused. -/
def prepareQuery (metric : Nat) (xs : List W32) : Option (List W16) :=
  if !xs.all f32Finite then none
  else if metric = 1 then (normalise xs).map (·.map f32ToBf)
  else some (xs.map f32ToBf)

/-- Float LUT entries by subspace and centroid (R79). -/
def floatLut (p : Params) (book q : List W16) : List W32 :=
  (List.range p.m).flatMap (fun j => (List.range p.k).map (fun c =>
    let cent := centroid p book j c
    if p.metric = 2 then (foldSub p j q cent sqDiff) ^^^ 0x80000000#32 else foldSub p j q cent f32Mul))

/-- The scale r_g (R80). -/
def lutScale (cr : Nat) (l : List W32) : W32 :=
  let rho := toF32 (.num false (cr + 1) (-8))
  let v := f32Mul (f32Max (l.map f32Abs)) rho
  if (f32 v).isZero then f32One else f32Div 0x42FE0000#32 v

/-- INT8 entries and the count of clipped ones (R80, R81). -/
def lutBytes (r : W32) (l : List W32) : List Byte × Nat :=
  let es := l.map (fun x => rnaClamp (-127) 127 (f32 (f32Mul x r)))
  let clipped := (l.filter (fun x => match f32 (f32Mul x r) with
    | .nan => false
    | .inf _ => true
    | .num n m e => decide (127 < (rnaFin n m e).natAbs))).length
  (es.map (fun e => BitVec.ofInt 8 e.1), clipped)

/-- Entry `c` of subspace `j` (R81). -/
def lutAt (k : Nat) (lut : List Byte) (j c : Nat) : Int := (lut.getD (j * k + c) 0).toInt

/-- The bound table U[0] to U[G] (04 R119). -/
def boundsOf (p : Params) (lut : List Byte) : List Int :=
  let maxOf (j : Nat) : Int := (List.range p.k).foldl (fun a c => max a (lutAt p.k lut j c)) (-128)
  (List.range (p.groups + 1)).map (fun t =>
    ((List.range p.m).filter (fun j => t * p.perGroup ≤ j)).foldl (fun a j => a + maxOf j) 0)

/-- MUL_g (R83); 1 where the quotient of two infinities is no number (log 88). -/
def mulOf (rmin r : W32) : Nat :=
  (clampI 1 32768 (rnaClamp 1 32768 (f32 (f32Mul (f32Div rmin r) 0x47000000#32))).1).toNat

/-- One generation's LUT and scoring set, before MUL; none where a float entry is not finite (R80). -/
def buildGen (p : Params) (cr : Nat) (q : List W16) (g : Gen) : Option (GenCtx × Nat) :=
  let l := floatLut p g.book q
  if !l.all f32Finite then none
  else
    let r := lutScale cr l
    let (lut, n) := lutBytes r l
    let biasf := if p.format = 0 then 0 else f32Mul p.biasUnit r
    some (⟨⟨g.tag, 11, 0, r, biasf, outliersOf p q⟩, lut, boundsOf p lut⟩, n)

/-- The standard LUT program (R79-R83): each generation's context, clipped entries, entries built; none for status 1. -/
def standardLut (p : Params) (cr : Nat) (q : List W16) (gens : List Gen) : Option (List GenCtx × Nat × Nat) :=
  match gens.mapM (buildGen p cr q) with
  | none => none
  | some gs =>
    let rs := gs.map (·.1.set.r)
    let rmin := f32Min rs
    some (gs.map (fun g => { g.1 with set.mul := mulOf rmin g.1.set.r }),
      (gs.map (·.2)).foldl (· + ·) 0, gs.length * p.m * p.k)

/-! ## The scan score (R84, R85) -/

def cap24 : Int := 2 ^ 24

/-- Steps 1 and 3-4: the bias preload and the outliers' sum; whether a clamp took effect. A term is clamped by the sign of its product
with R, and one that is no number is 0 (DESIGN CHOICE, log 115). -/
def preload (metric format outN : Nat) (g : GenSet) (r : ScanRec) : Int × Bool :=
  let b := if format = 0 then (0, false)
    else rnaClamp (-cap24) cap24 (f32 (f32Mul (toF32 (.ofInt (biasOf r.ext))) g.biasf))
  (List.range outN).foldl (fun (a : Int × Bool) i =>
    let x := toF32 (fp16.dec (r.outl.getD i 0).toNat)
    let q := toF32 (fp16.dec (g.qout.getD i 0).toNat)
    let p := if metric = 2 then (sqDiff x q) ^^^ 0x80000000#32 else f32Mul x q
    let c := rnaClamp (-cap24) cap24 (f32 (f32Mul p g.r))
    (a.1 + c.1, a.2 || c.2)) b

/-- A float operation of these steps has a NaN from operands that are none (08 Table 8.6, INV). -/
def preloadInv (metric format outN : Nat) (g : GenSet) (r : ScanRec) : Bool :=
  let made (v : W32) (xs : List W32) : Bool := (f32 v).isNan && !xs.any (fun x => (f32 x).isNan)
  let bias := toF32 (.ofInt (biasOf r.ext))
  (format ≠ 0 && made (f32Mul bias g.biasf) [bias, g.biasf]) || (List.range outN).any (fun i =>
    let x := toF32 (fp16.dec (r.outl.getD i 0).toNat)
    let q := toF32 (fp16.dec (g.qout.getD i 0).toNat)
    let p := if metric = 2 then sqDiff x q else f32Mul x q
    made p [x, q] || made (f32Mul p g.r) [p, g.r])

/-- Step 2 over subspaces `lo` to `lo + n - 1`. -/
def lutSum (pq8 : Bool) (lut code : List Byte) (lo n : Nat) : Int :=
  (List.range n).foldl (fun a i =>
    a + lutAt (if pq8 then 256 else 16) lut (lo + i) (subCode pq8 code (lo + i))) 0

/-- Steps 5 and 6 (04 R120); whether the final clamp took effect. -/
def rescale (g : GenSet) (acc : Int) : Int × Bool :=
  let t := acc * g.mul
  let h : Nat := if g.sh = 0 then 0 else 2 ^ (g.sh - 1)
  let m : Int := ((t.natAbs + h) / 2 ^ g.sh : Nat)
  let x := if t < 0 then -m else m
  (clampI (-2147483647) 2147483647 x, decide (x < -2147483647 ∨ 2147483647 < x))

/-- The score of a record of a generation, and whether any clamp took effect. -/
def scoreOf (metric format outN m : Nat) (pq8 : Bool) (g : GenCtx) (r : ScanRec) : Int × Bool :=
  let a := preload metric format outN g.set r
  let s := rescale g.set (a.1 + lutSum pq8 g.lut r.code 0 m)
  (s.1, a.2 || s.2)

/-! ## Predicate programs (04 R116, R117) -/

def predField (f : Nat) (attr ext : W64) : Nat :=
  match f with
  | 0 => bits attr.toNat 20 16
  | 1 => bits ext.toNat 32 16
  | 2 => bits attr.toNat 0 20
  | 3 => bits ext.toNat 0 32
  | _ => bits attr.toNat 36 16

def predWidth : Nat → Nat
  | 0 => 16
  | 1 => 16
  | 2 => 20
  | 3 => 32
  | _ => 16

/-- Evaluate from a stack of bits. A checked program (R117) always reaches END with one bit, or is END alone. -/
def predEval (attr ext : W64) : List W32 → List Bool → Bool
  | [], st => st.headD true
  | w :: ws, st =>
    let x := w.toNat
    let f := predField (bits x 25 3) attr ext / 2 ^ bits x 20 5
    let v := f % 65536
    let imm := bits x 0 16
    match bits x 28 4, st with
    | 0, st => st.headD true
    | 1, st => predEval attr ext ws (decide (v = imm) :: st)
    | 2, st => predEval attr ext ws (decide (v ≠ imm) :: st)
    | 3, st => predEval attr ext ws (decide (imm ≤ v) :: st)
    | 4, st => predEval attr ext ws (decide (v ≤ imm) :: st)
    | 5, st => predEval attr ext ws (decide (f &&& imm ≠ 0) :: st)
    | 6, st => predEval attr ext ws (decide (f &&& imm = imm) :: st)
    | 7, a :: b :: st => predEval attr ext ws ((a && b) :: st)
    | 8, a :: b :: st => predEval attr ext ws ((a || b) :: st)
    | 9, a :: st => predEval attr ext ws ((!a) :: st)
    | 10, st => predEval attr ext ws (true :: st)
    | _, st => predEval attr ext ws st

/-- R117's checks from stack depth `d`, `first` for a program of END alone. Words after END are zero (12 R414). -/
def predCheck (basic : Bool) : List W32 → Nat → Bool → Bool
  | [], _, _ => false
  | w :: ws, d, first =>
    let x := w.toNat
    let op := bits x 28 4
    let f := bits x 25 3
    let cmpOp := decide (1 ≤ op ∧ op ≤ 6)
    decide (op ≤ 10) && decide (bits x 16 4 = 0)
    && (if cmpOp then decide (f ≤ 4) && decide (bits x 20 5 < predWidth f) && !(basic && (f = 1 || f = 3))
        else f = 0 && bits x 20 5 = 0 && bits x 0 16 = 0)
    && (if op = 0 then (first || d = 1) && ws.all (· == 0)
        else if cmpOp || op = 10 then decide (d < 8) && predCheck basic ws (d + 1) false
        else if op = 9 then decide (1 ≤ d) && predCheck basic ws d false
        else decide (2 ≤ d) && predCheck basic ws (d - 1) false)

end Sys2Proof.Machine
end

