-- ==== Sys2Proof/Machine/Layout.lean ====
section
/-! DEFINITION. The 64 bytes of a command (12 Tables 12.1-12.9): header fields, opcodes, subops, and the first check of
Table 12.3 (reserved bytes and bits). -/

namespace Sys2Proof.Machine

/-! ## Status codes (12 Table 12.13) and results of the mailbox and the window (13 R441, 04 R135) -/

def stOk : Nat := 0x00
def stShort : Nat := 0x01
def stAborted : Nat := 0x10
def stDenied : Nat := 0x11
def stBadCmd : Nat := 0x12
def stDimRange : Nat := 0x13
def stNoCollection : Nat := 0x14
def stBusy : Nat := 0x15
def stFault : Nat := 0x20
def stIncomplete : Nat := 0x21

/-- The bytes of a string of the spec, as a customisation string (13 Table 13.5). -/
def ascii (x : String) : List Byte := x.toList.map (fun c => BitVec.ofNat 8 c.toNat)

/-- A key derived from the fused secret (13 R447). -/
def rootKey (name : String) (data : List Byte) (n : Nat) : List Byte :=
  padTo n (Config.kmac256 (leBytes 32 Config.kroot.toNat) (ascii name) data n)

/-! ## Header (Table 12.1) -/

def Cmd.opcode (c : Cmd) : Nat := byteAt c.bytes 0
def Cmd.fence (c : Cmd) : Bool := bit (byteAt c.bytes 1) 5
def Cmd.user (c : Cmd) : Nat := le c.bytes 8 8
def Cmd.raddr (c : Cmd) : Nat := le c.bytes 40 8
def Cmd.rlen (c : Cmd) : Nat := le c.bytes 52 4

/-! ## Opcodes (12 Table 12.2) -/

def opSearch : Nat := 0x01
def opRange : Nat := 0x02
def opInsert : Nat := 0x10
def opDelete : Nat := 0x11
def opUpsert : Nat := 0x12
def opPin : Nat := 0x20
def opUnpin : Nat := 0x21
def opFlush : Nat := 0x30
def opStats : Nat := 0x31
def opSelftest : Nat := 0x40
def opPower : Nat := 0x50
def opMaint : Nat := 0x60

def knownOp (op : Nat) : Bool :=
  [opSearch, opRange, opInsert, opDelete, opUpsert, opPin, opUnpin, opFlush, opStats, opSelftest, opPower,
    opMaint].contains op

/-- Commands that carry a request envelope in a sealed queue (13 R460, Table 13.11). -/
def enveloped (op : Nat) : Bool := [opSearch, opRange, opInsert, opDelete, opUpsert, opStats].contains op

def Cmd.subop (c : Cmd) : Nat := le c.bytes 16 2
def Cmd.cflag (c : Cmd) (i : Nat) : Bool := bit (byteAt c.bytes 2) i
def Cmd.class' (c : Cmd) : Nat := byteAt c.bytes 3 % 4
def Cmd.hdrCid (c : Cmd) : Nat := le c.bytes 4 2
def Cmd.addr (c : Cmd) : Nat := le c.bytes 32 8
def Cmd.len (c : Cmd) : Nat := le c.bytes 48 4
def Cmd.isSealed (c : Cmd) : Bool := c.session ≠ 0xFFF#12

/-- Subops of Table 12.9 that a MAINT command starts; a subop that only hardware starts is none (14 Table 14.2). -/
def knownSubop (n : Nat) : Bool :=
  [0x0001, 0x0002, 0x0003, 0x0004, 0x0010, 0x0011, 0x0012, 0x0020, 0x0100, 0x0101, 0x0102, 0x0120, 0x0121, 0x0130,
    0x0140, 0x0150].contains n

/-- Subops whose header names a collection (Table 12.1). -/
def subopNamesCid (n : Nat) : Bool := [0x0001, 0x0002, 0x0003, 0x0004, 0x0150].contains n

/-! ## Step 1: reserved bytes and bits (Tables 12.1, 12.4, 12.6, 12.7) -/

def zeroAt (bs : List Byte) (lo n : Nat) : Bool := allZero ((bs.drop lo).take n)

/-- CFLAGS bits that an opcode defines. -/
def cflagsMask (op : Nat) : Nat :=
  if op = opSearch ∨ op = opRange then 0x7F
  else if [opInsert, opDelete, opUpsert, opPin, opSelftest].contains op then 1 else 0

/-- Reserved fields of bytes 16-31 of a SEARCH or RANGE, in the command or in its plaintext. -/
def searchReserved (op : Nat) (b16 : List Byte) : Bool :=
  bits (byteAt b16 7) 4 4 = 0 && (op = opSearch || (byteAt b16 5 = 0 && zeroAt b16 12 2))

/-- Reserved bytes 16-63 of a command in an unsealed queue. -/
def bodyReserved (op : Nat) (bs : List Byte) : Bool :=
  if op = opSearch ∨ op = opRange then searchReserved op (bs.drop 16)
  else if op = opInsert ∨ op = opUpsert ∨ op = opDelete then
    zeroAt bs 18 2 && zeroAt bs 22 10 && zeroAt bs 40 8 && zeroAt bs 52 12 && (op ≠ opDelete || zeroAt bs 20 2)
  else if op = opPin then zeroAt bs 17 3 && zeroAt bs 32 32 && (bit (byteAt bs 2) 0 || zeroAt bs 24 8)
  else if op = opUnpin ∨ op = opPower then zeroAt bs 17 47
  else if op = opFlush then zeroAt bs 16 48
  else if op = opStats then zeroAt bs 16 24 && zeroAt bs 48 4 && zeroAt bs 56 8
  else if op = opSelftest then zeroAt bs 19 45
  else zeroAt bs 18 14 && zeroAt bs 56 8

/-- Reserved and moved bytes of an enveloped command in a sealed queue (13 R460): CID and the moved bytes are zero. -/
def sealedReserved (op : Nat) (bs : List Byte) : Bool :=
  zeroAt bs 4 2 &&
  (if op = opSearch ∨ op = opRange then zeroAt bs 16 16 && zeroAt bs 56 8
   else zeroAt bs 16 16 && zeroAt bs 56 8)

/-- Step 1 of Table 12.3. -/
def stepOne (c : Cmd) : Bool :=
  let op := c.opcode
  knownOp op && bits (byteAt c.bytes 1) 6 2 = 0 && (byteAt c.bytes 2 &&& (0xFF - cflagsMask op)) = 0
    && byteAt c.bytes 3 < 4 && zeroAt c.bytes 6 2
    && (if enveloped op then (if c.isSealed then sealedReserved op c.bytes else bodyReserved op c.bytes)
        else (bodyReserved op c.bytes && (c.hdrCid = 0 || (op = opMaint && subopNamesCid c.subop))))
    && (!c.isSealed || enveloped op || op = opPin || op = opUnpin || op = opFlush)

end Sys2Proof.Machine
end

