-- ==== Sys2Proof/Machine/Block.lean ====
section
/-! DEFINITION. Blocks (04 R97-R100): the fields and signatures of a header, and the bytes of a block's rows. -/

namespace Sys2Proof.Machine

/-! ## Block headers (04 Table 4.2, R97) -/

abbrev Header := BitVec 1024

/-- `len` bytes of a header from byte `lo`. -/
def hget (h : Header) (lo len : Nat) : Nat := h.toNat / 2 ^ (8 * lo) % 2 ^ (8 * len)
def hset (h : Header) (lo len v : Nat) : Header := BitVec.ofNat 1024 (setBits h.toNat (8 * lo) (8 * len) v)

def hCid (h : Header) : Nat := hget h 0 2
def hGen (h : Header) : Nat := hget h 2 1
def hFormat (h : Header) : Nat := hget h 3 1 % 4
def hGroups (h : Header) : Nat := hget h 3 1 / 16
def hPq8 (h : Header) : Bool := bit (hget h 3 1) 2
def hCount (h : Header) : Nat := hget h 4 2
def hPkg (h : Header) : Nat := hget h 6 1
def hLive (h : Header) : Bool := bit (hget h 7 1) 0
def hSealed (h : Header) : Bool := bit (hget h 7 1) 1
def hQuar (h : Header) : Bool := bit (hget h 7 1) 2
def hRepaired (h : Header) : Bool := bit (hget h 7 1) 3
def hFrom (h : Header) : Nat := hget h 8 8
def hRetire (h : Header) : Nat := hget h 16 8
def hFromRef (h : Header) : Nat := hget h 24 2
def hRetireRef (h : Header) : Nat := hget h 26 2
def hRow (h : Header) : Nat := hget h 28 4 % 2 ^ 21
def hExclList (h : Header) : Nat := hget h 32 2
def hExclN (h : Header) : Nat := hget h 34 1
def hIdent (h : Header) : Nat := hget h 44 8 % 2 ^ 49
def hTomb (h : Header) (r : Nat) : Bool := bit (hget h 64 32) r
def hTombCount (h : Header) : Nat := ((List.range 256).filter (hTomb h)).length

def hSetFlag (h : Header) (i : Nat) (b : Bool) : Header :=
  hset h 7 1 (setBits (hget h 7 1) i 1 (b2n b))
def hSetTomb (h : Header) (r : Nat) : Header := hset h 64 32 (setBits (hget h 64 32) r 1 1)

/-- Recompute SIG_T and SIG_D (04 R136). -/
def hSign (h : Header) : Header :=
  let h := hset h 40 4 (Config.crc32c (leBytes 64 (hget h 64 64))).toNat
  hset h 60 4 (Config.crc32c (leBytes 60 (hget h 0 60))).toNat

/-- The signatures a Weevil checks before it uses any field (04 R104). -/
def hSigned (h : Header) : Bool :=
  hget h 40 4 = (Config.crc32c (leBytes 64 (hget h 64 64))).toNat
    && hget h 60 4 = (Config.crc32c (leBytes 60 (hget h 0 60))).toNat

/-! ## Block rows (04 R99, Table 4.3) -/

def rec256 (b : Block) (r : Nat) : ScanRec := b.recs.getD r ⟨[], 0, 0, []⟩

/-- The attribute section, all the parts that the format has. -/
def attrSection (b : Block) : List Byte :=
  let f := hFormat b.hdr
  ((List.range 256).flatMap (fun r => leBytes 8 (rec256 b r).attr.toNat))
    ++ (if f = 0 then [] else (List.range 256).flatMap (fun r => leBytes 8 (rec256 b r).ext.toNat))
    ++ (if f = 2 then (List.range 256).flatMap (fun r => padTo 16 ((rec256 b r).outl.flatMap (fun x => leBytes 2 x.toNat)))
        else [])

def groupSection (b : Block) (g : Nat) : List Byte :=
  (List.range 256).flatMap (fun r => padTo 8 (((rec256 b r).code.drop (8 * g)).take 8))

/-- Bytes that the block's rows occupy. -/
def hBlockBytes (h : Header) : Nat :=
  (if hFormat h = 0 then 2048 else if hFormat h = 1 then 4096 else 8192) + 2048 * hGroups h

/-- Set every signature of a new block: SIG_A, SIG_C0-SIG_C7, then SIG_T and SIG_D. -/
def signBlock (b : Block) : Block :=
  let h := hset b.hdr 36 4 (Config.crc32c (attrSection b)).toNat
  let h := (List.range (hGroups h)).foldl
    (fun h g => hset h (96 + 4 * g) 4 (Config.crc32c (groupSection b g)).toNat) h
  { b with hdr := hSign h }

/-- The bytes of a block's rows (Table 4.3). -/
def blockImage (b : Block) : List Byte := attrSection b ++ (List.range (hGroups b.hdr)).flatMap (groupSection b)

/-! ## Keys -/

/-- Key of a block: Weevil and header index; key of an exclusion list. -/
def blockKey (w h : Nat) : Nat := w * 2 ^ 19 + h
def keyWeevil (k : Nat) : Nat := k / 2 ^ 19
def keyIndex (k : Nat) : Nat := k % 2 ^ 19
def exKey (w l : Nat) : Nat := w * 8192 + l

end Sys2Proof.Machine
end

