-- ==== Sys2Proof/Machine/Ops.lean ====
section
/-! DEFINITION. The named operations over State that the meanings share: reading and changing one unit's record, free
values, and the accesses that pseudo-channel controllers serve (10). -/

namespace Sys2Proof.Machine

/-! ## One unit's record -/

namespace State

def queue (s : State) (q : Nat) : Queue := Tab.get Queue.initial s.qau.queues q
def modQueue (s : State) (q : Nat) (f : Queue → Queue) : State :=
  { s with qau.queues := Tab.mod Queue.initial s.qau.queues q f }

def weevil (s : State) (w : Nat) : Weevil := Tab.get Weevil.initial s.reel.weevils w
def modWeevil (s : State) (w : Nat) (f : Weevil → Weevil) : State :=
  { s with reel.weevils := Tab.mod Weevil.initial s.reel.weevils w f }

def slot (s : State) (n : Nat) : ReelSlot := Tab.get ReelSlot.free s.reel.slots n
def modSlot (s : State) (n : Nat) (f : ReelSlot → ReelSlot) : State :=
  { s with reel.slots := Tab.mod ReelSlot.free s.reel.slots n f }

def ctl (s : State) (n : Nat) : Stack := Tab.get Stack.initial s.hbm.ctls n
def modCtl (s : State) (n : Nat) (f : Stack → Stack) : State :=
  { s with hbm.ctls := Tab.mod Stack.initial s.hbm.ctls n f }

/-- A pseudo-channel by stack * 32 + pseudo-channel, so that a scan stack's is its Weevil's number (00 R6). -/
def pch (s : State) (p : Nat) : Pch := Tab.get Pch.initial s.hbm.pchs p
def modPch (s : State) (p : Nat) (f : Pch → Pch) : State :=
  { s with hbm.pchs := Tab.mod Pch.initial s.hbm.pchs p f }

def engine (s : State) (e : Nat) : Engine := Tab.get Engine.initial s.eng.engines e
def modEngine (s : State) (e : Nat) (f : Engine → Engine) : State :=
  { s with eng.engines := Tab.mod Engine.initial s.eng.engines e f }

def ctx (s : State) (c : Nat) : Option Ctx := Tab.get none s.eng.ctxs c
def setCtx (s : State) (c : Nat) (x : Option Ctx) : State :=
  { s with eng.ctxs := Tab.set none s.eng.ctxs c x }
def modCtx (s : State) (c : Nat) (f : Ctx → Ctx) : State := s.setCtx c ((s.ctx c).map f)

def channel (s : State) (b : Nat) : Channel := Tab.get Channel.initial s.flash.channels b
def modChannel (s : State) (b : Nat) (f : Channel → Channel) : State :=
  { s with flash.channels := Tab.mod Channel.initial s.flash.channels b f }

def coll (s : State) (cid : Nat) : Option Coll := Tab.get none s.corpus.colls cid
def setColl (s : State) (cid : Nat) (c : Option Coll) : State :=
  { s with corpus.colls := Tab.set none s.corpus.colls cid c }

def side (s : State) (n : Nat) : Option SideEnt := Tab.get none s.corpus.sides n
def setSide (s : State) (n : Nat) (e : Option SideEnt) : State :=
  { s with corpus.sides := Tab.set none s.corpus.sides n e }

def block (s : State) (key : Nat) : Option Block := Tab.get none s.corpus.blocks key
def setBlock (s : State) (key : Nat) (b : Option Block) : State :=
  { s with corpus.blocks := Tab.set none s.corpus.blocks key b }

def pinAt (s : State) (n : Nat) : Pin := Tab.get Pin.free s.csn.pins n
def setPin (s : State) (n : Nat) (p : Pin) : State := { s with csn.pins := Tab.set Pin.free s.csn.pins n p }

def group (s : State) (g : Nat) : Group := Tab.get Group.initial s.therm.groups g
def modGroup (s : State) (g : Nat) (f : Group → Group) : State :=
  { s with therm.groups := Tab.mod Group.initial s.therm.groups g f }

def claim (s : State) (n : Nat) : Option Claim := Tab.get none s.maint.claims n
def setClaim (s : State) (n : Nat) (c : Option Claim) : State :=
  { s with maint.claims := Tab.set none s.maint.claims n c }

def netPort (s : State) (p : Nat) : NetPort := Tab.get NetPort.initial s.links.ports p
def modNetPort (s : State) (p : Nat) (f : NetPort → NetPort) : State :=
  { s with links.ports := Tab.mod NetPort.initial s.links.ports p f }

def session (s : State) (n : Nat) : Option Session := Tab.get none s.warden.keys n
def setSession (s : State) (n : Nat) (x : Option Session) : State :=
  { s with warden.keys := Tab.set none s.warden.keys n x }

def region (s : State) (r : Nat) : Option Region := Tab.get none s.hbm.regions r

/-- A value the spec leaves open (log 5): the next draw of Config.free, and the counter advanced. -/
def draw (s : State) : Nat × State := (Config.free s.freeCtr, { s with freeCtr := s.freeCtr + 1 })

end State

/-! ## Register addresses and owner locks (00 R10-R17) -/

/-- DPA of the register at an offset of a CSR block (R10). -/
def csrDpa (blk off : Nat) : Nat := 0x10000000000 + blk * 0x100000 + off

/-- Rest, Hush or Vigil: everything but the QAU, the commit unit and the warden has stopped (15 Table 15.2). -/
def asleep (s : State) : Bool := decide (2 ≤ s.pwr.state)

/-- A control unit stays stopped (16 R559, 14 Table 14.6): the service that it carries stops. Units of Table 14.3: 0 QAU, 1 selectors,
2 allocator, 3 scheduler, 4 MMU. -/
def unitStopped (s : State) (n : Nat) : Bool :=
  s.mod.stoppedUnits.contains n || (decide (1 ≤ n ∧ n ≤ 4) && asleep s)

/-- A block that Vigil leaves without power (16 R572): its registers read zero, and writes have no effect. -/
def blockOff (s : State) (blk : Nat) : Bool :=
  s.pwr.state = 4 && !([0x00, 0xC0, 0xA2, 0xB0, 0xB1, 0xB2, 0xB8, 0xD1].contains blk)

/-- Bits of a register that an owner lock in force holds (R17). -/
def lockedBits (s : State) (dpa : Nat) : Nat :=
  (s.warden.locks.filter (fun l => l.dpa = dpa)).foldl (fun a l => a ||| l.mask.toNat) 0

/-- A RWL field of `len` bits at bit `lo` is open to writes: no bit of it is locked. -/
def openField (s : State) (dpa lo len : Nat) : Bool := bits (lockedBits s dpa) lo len = 0

/-! ## Places and regions (10 R333-R342) -/

/-- Bytes of a pseudo-channel, and of one extent (00 R7, 10 R337). -/
def pcBytes : Nat := 0x48000000
def extentBytes : Nat := 0x900000
def protBytes : Nat := 0x800000

/-- The physical place of offset `o` of pseudo-channel `p` of stack `st` (00 R7, R8): also its physical DPA. -/
def placeOf (st p o : Nat) : Nat := st * 0x1000000000 + p * pcBytes + o

def stackOf (place : Nat) : Nat := place / 0x1000000000
def pcOf (place : Nat) : Nat := place % 0x1000000000 / pcBytes
def offOf (place : Nat) : Nat := place % 0x1000000000 % pcBytes
/-- The pseudo-channel of a place, by stack * 32 + pseudo-channel. -/
def pchOf (place : Nat) : Nat := stackOf place * 32 + pcOf place
/-- The bank of an offset (R334). -/
def bankOf (o : Nat) : Nat := o / 0x1800000

/-- A place exists: within the 36 GiB of a stack (00 R7). -/
def isPlace (a : Nat) : Bool := decide (a < 12 * 0x1000000000) && decide (a % 0x1000000000 < 32 * pcBytes)

/-- Base of the command window of a pseudo-channel: the top 1 MiB (00 R9). -/
def windowOff : Nat := 0x47F00000
def windowBase (p : Nat) : Nat := placeOf (p / 32) (p % 32) windowOff

def Region.stackList (g : Region) : List Nat := (List.range 12).filter (fun i => g.inStacks.getLsbD i)

/-- Data bytes of one extent (R337). -/
def Region.perExtent (g : Region) : Nat := if g.raw then extentBytes else protBytes

/-- Data bytes of a region (R339). -/
def Region.size (g : Region) : Nat :=
  let pcs := if g.interleave = 2 then 1 else 32 * g.stackList.length
  pcs * g.extents * g.perExtent

/-- The place of the data byte at offset `x` from a region's start (R340). -/
def locate (g : Region) (x : Nat) : Nat :=
  let per := g.perExtent / 256
  let n := x / 256
  let b := x % 256
  if g.interleave = 2 then
    placeOf (g.stackList.headD 0) g.pc ((g.first + n / per) * extentBytes + n % per * 256 + b)
  else
    let l := g.stackList
    let m := n / l.length
    let q := m / 32
    placeOf (l.getD (n % l.length) 0) (m % 32) ((g.first + q / per) * extentBytes + q % per * 256 + b)

/-- The offset in a region of the data byte at a place; none where the place is not data of it (10 R340). -/
def Region.inverse (g : Region) (place : Nat) : Option Nat :=
  let j := g.stackList.findIdx (· = stackOf place)
  let e := offOf place / extentBytes
  let d := offOf place % extentBytes
  let per := g.perExtent / 256
  if j < g.stackList.length ∧ g.first ≤ e ∧ e < g.first + g.extents ∧ d < g.perExtent then
    if g.interleave = 2 then if pcOf place = g.pc then some ((e - g.first) * g.perExtent + d) else none
    else some (((((e - g.first) * per + d / 256) * 32 + pcOf place) * g.stackList.length + j) * 256 + d % 256)
  else none

/-- The offset in a region of a DPA that the region presents (R340, R341). -/
def Region.offsetOf (g : Region) (a : Nat) : Option Nat :=
  if g.extents = 0 then none
  else if g.interleave = 2 then
    if isPlace a && stackOf a = g.stackList.headD 0 && pcOf a = g.pc then
      let o := offOf a
      let e := o / extentBytes
      let d := o % extentBytes
      if g.first ≤ e ∧ e < g.first + g.extents ∧ d < g.perExtent then some ((e - g.first) * g.perExtent + d) else none
    else none
  else if g.aperture ≤ a ∧ a < g.aperture + g.size then some (a - g.aperture) else none

/-- A region admits a requester class; WARDEN takes away classes 0, 1, 5 and 6 (R342). -/
def Region.admits (g : Region) (cls : Nat) : Bool :=
  g.access.getLsbD cls && !(g.warden && (cls = 0 || cls = 1 || cls = 5 || cls = 6))

/-- The lowest entry of the region table that presents a DPA. -/
def regionAt (rs : Tab (Option Region)) (a : Nat) : Option (Region × Nat) :=
  rs.findSome? (fun e => match e.2 with
    | none => none
    | some g => (g.offsetOf a).map (fun x => (g, x)))

/-- A place lies in an extent of a region, data or check store (R337, R339). -/
def Region.covers (g : Region) (place : Nat) : Bool :=
  g.stackList.contains (stackOf place) && isPlace place && (g.interleave ≠ 2 || g.pc = pcOf place)
    && decide (g.first ≤ offOf place / extentBytes) && decide (offOf place / extentBytes < g.first + g.extents)

/-- Two regions share an extent. -/
def shareExtents (a b : Region) : Bool :=
  a.stackList.any (fun i => b.stackList.contains i)
  && (a.interleave ≠ 2 || b.interleave ≠ 2 || a.pc = b.pc)
  && decide (a.first < b.first + b.extents) && decide (b.first < a.first + a.extents)

/-- Two regions share an aperture byte; a PC-LOCAL region stands at its own physical DPAs, which no aperture reaches (Table 10.1). -/
def shareAperture (a b : Region) : Bool :=
  a.interleave ≠ 2 && b.interleave ≠ 2 && decide (a.aperture < b.aperture + b.size) && decide (b.aperture < a.aperture + a.size)

/-! ## The allocator's own entries (R566) -/

/-- What the allocator has recorded for an entry of its fixed reserves (Table 10.11): whether it is one, and its fields within the ranges
that the table gives (log 89). -/
def reserveAsked (r : Nat) : Option Region :=
  let x := (Config.reserve r).toNat
  if r < 2 ∨ 256 ≤ r ∨ x % 2 = 0 then none
  else
    let first := bits x 8 8 % 104
    some
      { aperture := 0xC600000000 + bits x 64 17 % 118784 * 0x200000, extents := 1 + bits x 16 8 % (104 - first), first := first
        raw := false, interleave := bits x 4 1, warden := bit x 5, dscan := false, pc := 0
        inStacks := if bits x 4 1 = 0 then 0xF00#12 else 0x100#12 <<< bits x 6 2
        tag := BitVec.ofNat 8 (16 + bits x 24 8 % 240), access := BitVec.ofNat 16 (bits x 32 16) &&& 0x039C#16 }

/-- The allocator's entries: each shares no extent and no aperture byte with those before it (R342). -/
def reserveTable : List (Nat × Region) :=
  (List.range 256).foldl (fun l r => match reserveAsked r with
    | none => l
    | some g => if l.all (fun e => !shareExtents e.2 g && !shareAperture e.2 g) then l ++ [(r, g)] else l) []

def reserveEntry (r : Nat) : Option Region := (reserveTable.find? (fun e => e.1 = r)).map (·.2)

/-- Every entry that the controllers present: the table's, and the allocator's where the table has none. -/
def entriesOf (s : State) : List Region :=
  (List.range 256).filterMap (fun r => (s.region r).orElse (fun _ => reserveEntry r))

/-- The region that presents a DPA, and the offset in it. The allocator's entries stand from 0xC6_0000_0000 on (R566). -/
def regionOf (s : State) (a : Nat) : Option (Region × Nat) :=
  (regionAt s.hbm.regions a).orElse (fun _ =>
    if 0xC600000000 ≤ a ∧ a < 0x10000000000 then
      (entriesOf s).findSome? (fun g => (g.offsetOf a).map (fun x => (g, x)))
    else none)

/-- A region of the frame pool: PROT, interleaved, and admitting classes 0 and 1 alone, as the standard pool does (log 31). -/
def isPool (g : Region) : Bool := !g.raw && g.interleave ≠ 2 && g.access = 0x0003#16 && g.extents ≠ 0 && !g.warden

/-- At most 8 regions form the pool. -/
def poolRegions (s : State) : List Region := (s.hbm.regions.filterMap (fun e => e.2.filter isPool)).take 8
def poolBytes (s : State) : Nat := ((poolRegions s).map (·.size)).foldl (· + ·) 0

/-- A place lies in the fixed reserves: data of extents 0-103 of the plain stacks (R566). -/
def fixedReserve (place : Nat) : Bool :=
  decide (8 ≤ stackOf place) && isPlace place && decide (offOf place / extentBytes < 104)
    && decide (offOf place % extentBytes < protBytes)

/-- The physical place that an identity line's byte has: in the fixed reserves, or data of a PROT region. -/
def identPlace (s : State) (a : Nat) : Option Nat :=
  if isPlace a then (if fixedReserve a then some a else none)
  else (regionOf s a).bind (fun e => if e.1.raw then none else some (locate e.1 e.2))

/-- A place holds PROT data: of a region, or of the fixed reserves. -/
def protPlace (s : State) (place : Nat) : Bool :=
  fixedReserve place || s.hbm.regions.any (fun e => e.2.any (fun g => !g.raw && (g.inverse place).isSome))

/-- A place lies in a region with WARDEN set (R369). -/
def wardenPlace (s : State) (place : Nat) : Bool := (entriesOf s).any (fun g => g.warden && (g.inverse place).isSome)

/-- A place lies in an extent of such a region, data or check store. -/
def wardenExtent (s : State) (place : Nat) : Bool := (entriesOf s).any (fun g => g.warden && g.covers place)

/-- The pseudo-channel whose open command window holds a DPA (R357). -/
def windowAt (s : State) (a : Nat) : Option Nat :=
  if isPlace a && decide (windowOff ≤ offOf a) && decide (pchOf a < 256) && (s.pch (pchOf a)).scan then some (pchOf a) else none

/-- A requester to which command windows are open (R357): cores, engine DMA units, the allocator, maintenance. -/
def windowOpen (r : Nat) : Bool := r = 0 || r = 1 || r = 3 || r = 9

/-- What a controller finds at one byte's DPA for a requester (R336, R355-R357): data with the TAG of its region if that is PROT, a
window, or an access error with the physical DPA that the log takes. Of a scan-mode bank it serves the allocator alone (R356). -/
inductive Found where
  | data (place : Nat) (tag : Option Byte) (warden : Bool)
  | window (place : Nat) (w : Nat)
  | error (ctl : Option Nat) (dpa : Nat) (hide : Bool)
  deriving DecidableEq, Repr

/-- A place lies in a scan-mode bank. -/
def inScanMode (s : State) (place : Nat) : Bool :=
  decide (stackOf place < 8) && (s.pch (pchOf place)).scan && (s.pch (pchOf place)).banks.getLsbD (bankOf (offOf place))

/-- Banks that a change of mode under way takes to the other mode. -/
def Pch.changing (c : Pch) : BitVec 48 := if c.pendingChange then (c.banks &&& ~~~c.nextBanks) ||| (c.nextBanks &&& ~~~c.banks) else 0

/-- Scan-mode banks that a change of mode under way leaves in it: new blocks go there alone. -/
def Pch.staying (c : Pch) : BitVec 48 := if c.pendingChange then c.banks &&& c.nextBanks else c.banks

/-- Banks in scan mode, or on their way there: no region extent goes there. -/
def Pch.scanSoon (c : Pch) : BitVec 48 := if c.pendingChange then c.banks ||| c.nextBanks else c.banks

/-- A place lies in a bank that is being zero-filled: it belongs to neither mode (R355). -/
def betweenModes (s : State) (place : Nat) : Bool :=
  decide (stackOf place < 8) && (s.pch (pchOf place)).zeroing && (s.pch (pchOf place)).changing.getLsbD (bankOf (offOf place))

/-- The block whose rows hold a place of a scan stack, and the offset in it. -/
def blockOver (s : State) (place : Nat) : Option (Block × Nat) :=
  if decide (8 ≤ stackOf place) then none
  else s.corpus.blocks.findSome? (fun e => if keyWeevil e.1 ≠ pchOf place then none
    else e.2.bind (fun b =>
      let lo := 1024 * hRow b.hdr
      if lo ≤ offOf place ∧ offOf place < lo + hBlockBytes b.hdr then some (b, offOf place - lo) else none))

/-- The place lies in a block of a sealed collection (R369). -/
def sealedPlace (s : State) (place : Nat) : Bool := (blockOver s place).any (fun e => hSealed e.1.hdr)

/-- A DPA lies in a frame that a sealed stage holds, which engines and the QAU alone reach (13 R478). -/
def sealedFrame (s : State) (a : Nat) : Bool :=
  s.eng.ctxs.any (fun e => e.2.any (fun x => x.isSealed && x.pages.any (fun p =>
    p.frame.any (fun f => decide (f ≤ a) && decide (a < f + p.size)))))

def find (s : State) (r a : Nat) : Found :=
  match windowAt s a with
  | some p => if windowOpen r then .window a p else .error (some (p / 32)) a false
  | none =>
    match regionOf s a with
    | some (g, x) =>
      let pl := locate g x
      if g.admits r && !inScanMode s pl && !betweenModes s pl && !(s.ctl (stackOf pl)).retired
          && (s.ctl (stackOf pl)).answering && (r = 1 || r = 2 || !sealedFrame s a)
      then .data pl (if g.raw then none else some g.tag) (g.warden || sealedFrame s a)
      else .error (some (stackOf pl)) pl (g.warden || sealedFrame s a)
    | none =>
      if isPlace a && r = 3 && inScanMode s a && !betweenModes s a && (s.ctl (stackOf a)).answering
      then .data a none (sealedPlace s a)
      else .error (if isPlace a then some (stackOf a) else none) a (isPlace a && (sealedPlace s a || wardenExtent s a))

/-! ## Error counts and the log (10 R343-R347, R369) -/

/-- Log an uncorrectable read or an access error: class, cause, physical DPA (0 in a WARDEN region, R369). -/
def Stack.logged (c : Stack) (r cause place : Nat) (hide : Bool) : Stack :=
  { c with logClass := r, logCause := cause, logDpa := if hide then 0 else place }

/-- An access error (R336): counted and logged in the controller that met it; of a DPA that lies in no stack, which one that is
no rule says (log 14). -/
def accessError (s : State) (r : Nat) (ctl : Option Nat) (a : Nat) (hide : Bool) : State :=
  s.modCtl (ctl.getD (Config.holeController a % 12)) (fun c => { c with accErr := satAdd 8 c.accErr 1 }.logged r 5 a hide)

/-- The cause code under which Table 10.4's uncorrectable findings are logged; 0 for a read that returns data. -/
def causeOf (prot : Bool) : Finding → Nat
  | .twoSymbols => if prot then 1 else 0
  | .tagMismatch => if prot then 2 else 0
  | .dieUncorrectable => 4
  | _ => 0

/-- Counts of a read's finding (Table 10.4, R347). -/
def Stack.counted (c : Stack) (prot : Bool) : Finding → Stack
  | .clean => c
  | .oneSymbol => if prot then { c with ce := satAdd 16 c.ce 1 } else c
  | .twoSymbols => if prot then { c with ue := satAdd 8 c.ue 1 } else c
  | .tagMismatch => if prot then { c with mis := satAdd 8 c.mis 1 } else c
  | .dieCorrected => { c with dieCe := satAdd 12 c.dieCe 1 }
  | .dieUncorrectable => { c with dieUe := satAdd 6 c.dieUe 1 }

/-- The tag that stands in the sector of a place agrees with the region's (R343); 0 stands for a sector that nothing has written since
it was zero-filled, which agrees with every tag (log 37). -/
def tagOk (s : State) (place : Nat) (tag : Option Byte) : Bool :=
  tag.all (fun t => let x := Tab.get 0#8 s.hbm.tags (place / 32); decide (x = 0) || decide (x = t))

/-- The controller writes the region's TAG into the sector of a place (R343). -/
def State.setTag (s : State) (place : Nat) (tag : Byte) : State :=
  { s with hbm.tags := Tab.set 0 s.hbm.tags (place / 32) tag }

/-- The read of one sector is served: counts, the log, and whether data returns. A poisoned sector returns none, nor does one whose
tag is another's. -/
def readFinding (s : State) (r place : Nat) (tag : Option Byte) (warden : Bool) (f : Finding) : State × Bool :=
  let st := stackOf place
  let prot := tag.isSome
  let f := if tagOk s place tag || f = .twoSymbols then f else .tagMismatch
  if prot && s.hbm.poisoned.contains (place / 32) then
    (s.modCtl st (fun c => { c with poison := satAdd 6 c.poison 1 }.logged r 3 place warden), false)
  else
    let s := s.modCtl st (fun c => c.counted prot f)
    if causeOf prot f = 0 then (s, true)
    else (s.modCtl st (fun c => c.logged r (causeOf prot f) place warden), false)

/-! ## Bytes -/

/-- The byte at a place: what an unlisted place reads as is 0 (log 3). -/
def State.byte (s : State) (place : Nat) : Byte := Tab.get 0 s.hbm.mem place

/-- The byte at a place changes. -/
def State.setByte (s : State) (place : Nat) (b : Byte) : State :=
  { s with hbm.mem := Tab.set 0 s.hbm.mem place b }

/-- Bytes of consecutive places, from `place` on. -/
def State.bytes (s : State) (place n : Nat) : List Byte := (List.range n).map (fun i => s.byte (place + i))

def State.setBytes (s : State) (place : Nat) : List Byte → State
  | [] => s
  | b :: bs => (s.setByte place b).setBytes (place + 1) bs

/-- The first byte of an access that meets an error: the DPA that is logged, its controller, and whether the log hides it. -/
def firstError (s : State) (r a : Nat) : Nat → Option (Nat × Option Nat × Bool)
  | 0 => none
  | n + 1 =>
    match find s r a with
    | .error c x w => some (x, c, w)
    | _ => firstError s r (a + 1) n

/-- The places of an access with no error, in DPA order: place, TAG if it is PROT data, and whether the log hides it. -/
def placesOf (s : State) (r a : Nat) : Nat → List (Nat × Option Byte × Bool)
  | 0 => []
  | n + 1 =>
    (match find s r a with
     | .data p tag w => [(p, tag, w)]
     | .window p _ => [(p, none, false)]
     | .error _ _ _ => []) ++ placesOf s r (a + 1) n

/-- One sector of each run of places in one sector, with its protection. -/
def sectorsOf : List (Nat × Option Byte × Bool) → List (Nat × Option Byte × Bool)
  | [] => []
  | (p, x) :: t =>
    match t with
    | [] => [(p, x)]
    | (q, _) :: _ => if p / 32 = q / 32 then sectorsOf t else (p, x) :: sectorsOf t

/-- Every sector of a read is served; the physical finding is met in the first. -/
def readSectors (s : State) (r : Nat) : List (Nat × Option Byte × Bool) → Finding → State × Bool
  | [], _ => (s, true)
  | (p, tag, w) :: t, f =>
    let (s, ok) := readFinding s r p tag w f
    let (s, ok') := readSectors s r t .clean
    (s, ok && ok')

/-- An access of `n` bytes at DPA `a` by requester `r` reads memory (R336, R343-R347): none on an access error or an
uncorrectable read. -/
def State.read (s : State) (r a n : Nat) (f : Finding) : State × Option (List Byte) :=
  match firstError s r a n with
  | some (x, c, w) => (accessError s r c x w, none)
  | none =>
    let ps := placesOf s r a n
    let (s, ok) := readSectors s r (sectorsOf ps) f
    (s, if ok then some (ps.map (fun p => s.byte p.1)) else none)

/-- A write touches sector `sec`: whole if all 32 of its bytes are written. -/
def wholeSector (ps : List (Nat × Option Byte × Bool)) (sec : Nat) : Bool :=
  (ps.filter (fun p => p.1 / 32 = sec)).length = 32

/-- Whether a sector lies in a retired row that a region still holds: it stays poisoned (14 R498). -/
def staysPoisoned (s : State) (place : Nat) : Bool :=
  s.alloc.retiredRows.contains (pchOf place * 2 ^ 21 + offOf place / 1024)

/-- Check bits, tag and poison of the sectors of a write (R343, R345): a whole sector clears poison; a partial one reads the
sector first, and an uncorrectable read leaves it poisoned. -/
def writeSectors (s : State) (r : Nat) (ps : List (Nat × Option Byte × Bool)) :
    List (Nat × Option Byte × Bool) → Finding → State
  | [], _ => s
  | (_, none, _) :: t, f => writeSectors s r ps t f
  | (p, some tag, w) :: t, f =>
    if wholeSector ps (p / 32) then
      let s := if staysPoisoned s p then s else { s with hbm.poisoned := s.hbm.poisoned.filter (· ≠ p / 32) }
      writeSectors (s.setTag p tag) r ps t f
    else
      let (s, ok) := readFinding s r p (some tag) w f
      let s := if ok || s.hbm.poisoned.contains (p / 32) then s
        else { s with hbm.poisoned := insertBy (· < ·) (p / 32) s.hbm.poisoned }
      writeSectors (s.setTag p tag) r ps t .clean

/-- Put bytes at places. -/
def State.putAt (s : State) : List (Nat × Option Byte × Bool) → List Byte → State
  | p :: ps, b :: bs => (s.setByte p.1 b).putAt ps bs
  | _, _ => s

/-- One line write more in the buffer of a place's pseudo-channel; with 192 it is drained (R351, log 36). -/
def buffered (s : State) (place : Nat) : State :=
  s.modPch (pchOf place) (fun p => { p with wbuf := if 192 ≤ p.wbuf + 1 then 0 else p.wbuf + 1 })

/-- One place of each run of places in one 256-byte line. -/
def linesOf : List Nat → List Nat
  | [] => []
  | p :: t =>
    match t with
    | [] => [p]
    | q :: _ => if p / 256 = q / 256 then linesOf t else p :: linesOf t

/-- An access writes bytes at DPA `a` (R336, R345, R351): false on an access error, where no byte is written. -/
def State.write (s : State) (r a : Nat) (bs : List Byte) (f : Finding) : State × Bool :=
  match firstError s r a bs.length with
  | some (x, c, w) => (accessError s r c x w, false)
  | none =>
    let ps := placesOf s r a bs.length
    let s := writeSectors s r ps (sectorsOf ps) f
    let s := s.putAt ps bs
    ((linesOf (ps.map (·.1))).foldl buffered s, true)

/-- A place lies in the `n` bytes from DPA `a` on, which one region presents. -/
def inRange (s : State) (a n place : Nat) : Bool :=
  match regionOf s a with
  | none => false
  | some (g, x) => (g.inverse place).any (fun y => decide (x ≤ y) && decide (y < x + n))

/-- Zero-fill `n` bytes from DPA `a` on. -/
def zeroRange (s : State) (a n : Nat) : State :=
  { s with hbm.mem := s.hbm.mem.filter (fun e => !inRange s a n e.1),
           hbm.poisoned := s.hbm.poisoned.filter (fun x => !inRange s a n (32 * x) || staysPoisoned s (32 * x)),
           hbm.tags := s.hbm.tags.filter (fun e => !inRange s a n (32 * e.1)) }

end Sys2Proof.Machine
end

