-- ==== Sys2Proof/Machine/Record.lean ====
section
/-! DEFINITION. Completion and event records and the rings they are written to, the fetch of commands (12 R401-R410, R425-R433), interrupts
(16 R553) and result envelopes (13 R459-R462). -/

namespace Sys2Proof.Machine

/-! ## Records -/

/-- A completion (Table 12.11) but SQHEAD and P. -/
def completionBytes (queue tag status r0 r1 flags wait : Nat) (user : Nat) : BitVec 256 :=
  BitVec.ofNat 256 (field r0 0 64 + field r1 64 32 + field flags 96 16 + field status 112 8 + field tag 120 5
    + field queue 128 16 + field wait 160 32 + field user 192 64)

/-- An event record (Table 12.15) but SQHEAD, P, SEQ and BOOT. -/
def eventBytes (code src queue e0 e1 e2 : Nat) : BitVec 256 :=
  BitVec.ofNat 256 (field e0 0 64 + field e1 64 32 + field code 96 16 + field src 112 8 + field 1 125 1
    + field queue 128 16 + field e2 224 32)

/-- The record is an event: byte 15 bit 5. -/
def OutRec.isEvent (r : OutRec) : Bool := r.bytes.getLsbD 125

def evEventLost : Nat := 0xF0
def srcQau : Nat := 0x01
/-- QUEUE of an event that concerns no queue. -/
def noQueue : Nat := 0xFFFF

/-! ## One ring -/

/-- The completion ring is full (R408). -/
def Queue.full (x : Queue) : Bool := (x.cqTail + 1) % 2 ^ x.cqLog2.toNat = x.head

/-- Deliver interrupt vector `v` (R409, 16 R553). -/
def raiseVector (s : State) (v : Nat) : State :=
  if v < 1024 then
    let t := Tab.get 0 s.qau.irqTgt v
    if t.getLsbD 6 then { s with qau.irqs := s.qau.irqs ++ [(t.toNat % 64, v + 1)] } else s
  else if Tab.get false s.links.msixOn (v - 1024) then
    { s with links.msixSent := s.links.msixSent ++ [v - 1024] }
  else { s with links.msixPend := Tab.set false s.links.msixPend (v - 1024) true }

/-- The bytes as written: SQHEAD and P of the ring, and for an event SEQ and BOOT (R407, R426, R432). -/
def stampRec (s : State) (x : Queue) (r : OutRec) : Nat :=
  r.bytes.toNat + field (b2n x.phase) 127 1 + field x.sqHead 144 16
    + (if r.isEvent then field s.qau.seq 160 32 + field s.life.boot 192 32 else 0)

/-- One record is written to the ring of queue `q` at CQTAIL (R407); a completion frees its tag (R404). -/
def putRec (s : State) (q : Nat) (r : OutRec) : State :=
  let x := s.queue q
  let s1 := (s.write 2 (x.cqBase.toNat + 32 * x.cqTail) (leBytes 32 (stampRec s x r)) .clean).1
  let t := (x.cqTail + 1) % 2 ^ x.cqLog2.toNat
  let s2 := s1.modQueue q (fun y => { y with
    cqTail := t, phase := if t = 0 then !y.phase else y.phase,
    tags := if r.done.isSome then y.tags &&& ~~~(1#32 <<< (r.bytes.toNat / 2 ^ 120 % 32)) else y.tags })
  if r.isEvent then { s2 with qau.seq := (s2.qau.seq + 1) % 2 ^ 32 } else s2

/-- The ring of queue `q` carries m events now (R433). -/
def carriesM (s : State) (q : Nat) : Bool := s.qau.even && s.qau.evq = q

/-- A record is waiting for the ring of queue `q`. -/
def waiting (s : State) (q : Nat) : Bool :=
  !(s.queue q).held.isEmpty || (carriesM s q && !s.qau.backlog.isEmpty)

/-- Write the next waiting record of the ring of queue `q`: the second record of a trap behind its first (Table 12.16), an
EVENT_LOST where records were lost (R433), else the one held longest, a q record or an m event (R408). -/
def writeNext (s : State) (q : Nat) : State :=
  let x := s.queue q
  if x.lost ≠ 0 && !x.held.head?.any (·.second) then
    (putRec s q ⟨eventBytes evEventLost srcQau q x.lost 0 0, none, 0, false⟩).modQueue q (fun y => { y with lost := 0 })
  else if carriesM s q && s.qau.mLost ≠ 0 && !x.held.head?.any (·.second) then
    let s := putRec s q ⟨eventBytes evEventLost srcQau noQueue s.qau.mLost 0 0, none, 0, false⟩
    { s with qau.mLost := 0 }
  else
    let m := if carriesM s q then s.qau.backlog.head? else none
    match x.held.head?, m with
    | none, none => s
    | some r, none => putRec (s.modQueue q (fun y => { y with held := y.held.tail })) q r
    | none, some e => putRec { s with qau.backlog := s.qau.backlog.tail } q e
    | some r, some e =>
      if r.second || decide (r.ord < e.ord) then putRec (s.modQueue q (fun y => { y with held := y.held.tail })) q r
      else putRec { s with qau.backlog := s.qau.backlog.tail } q e

/-- Write waiting records while the queue is enabled and its ring has room; `n` bounds the writes. -/
def writeAll (q : Nat) : Nat → State → State
  | 0, s => s
  | n + 1, s =>
    if (s.queue q).enable && !(s.queue q).full && waiting s q then writeAll q n (writeNext s q) else s

/-- Write what waits for the ring of queue `q`, and signal its vector once if anything was written (R408, R409). -/
def flushRing (s : State) (q : Nat) : State :=
  let n := (s.queue q).held.length + s.qau.backlog.length + 2
  let t := writeAll q n s
  let x := t.queue q
  if x.cqTail = (s.queue q).cqTail && x.phase = (s.queue q).phase then t
  else if x.ien then raiseVector t x.intv.toNat else t

/-- The event queue's ring is served as well, if m events wait (R433). -/
def flushM (s : State) : State :=
  if s.qau.even && !s.qau.backlog.isEmpty then flushRing s s.qau.evq else s

/-- Put a record in the hold of queue `q` and write what can be written. -/
def holdRec (s : State) (q : Nat) (bytes : BitVec 256) (done : Option Nat) : State :=
  let r : OutRec := ⟨bytes, done, s.qau.order, false⟩
  let s := { s with qau.order := s.qau.order + 1 }
  flushRing (s.modQueue q (fun y => { y with held := y.held ++ [r] })) q

/-- Count lost events (R433). -/
def countLost (s : State) (n : Nat) : State := { s with qau.evdrop := satAdd 16 s.qau.evdrop n }

/-- q events waiting in the backlog of a queue (R433). -/
def Queue.backlog (x : Queue) : Nat := (x.held.filter OutRec.isEvent).length

/-- Post events to queue `q` together: dropped and counted when the queue is disabled or its backlog of 16 has no
room for them (R433). -/
def postQ (s : State) (q : Nat) (evs : List (BitVec 256)) : State :=
  let x := s.queue q
  if !x.enable || 16 < x.backlog + evs.length then
    countLost (s.modQueue q (fun y => { y with lost := y.lost + evs.length })) evs.length
  else
    let rs := evs.zipIdx.map (fun (e, i) => (⟨e, none, s.qau.order + i, decide (i ≠ 0)⟩ : OutRec))
    flushRing ({ s with qau.order := s.qau.order + evs.length }.modQueue q (fun y => { y with held := y.held ++ rs })) q

/-- Post an m event: dropped and counted when the backlog of 1,024 is full (R433). -/
def postM (s : State) (code src queue e0 e1 e2 : Nat) : State :=
  if 1024 ≤ s.qau.backlog.length then
    countLost { s with qau.mLost := s.qau.mLost + 1 } 1
  else
    let r : OutRec := ⟨eventBytes code src queue e0 e1 e2, none, s.qau.order, false⟩
    flushM { s with qau.order := s.qau.order + 1, qau.backlog := s.qau.backlog ++ [r] }

/-! ## Commands -/

/-- The fetched command with a fetch number. -/
def State.cmd (s : State) (n : Nat) : Option Cmd := s.qau.cmds.find? (·.seq = n)

/-- The fetched command with a queue and a tag. -/
def State.cmdAt (s : State) (q t : Nat) : Option Cmd := s.qau.cmds.find? (fun c => c.queue = q && c.tag = t)

/-- Change a fetched command. -/
def State.setCmd (s : State) (c : Cmd) : State :=
  { s with qau.cmds := s.qau.cmds.map (fun x => if x.seq = c.seq then c else x) }

/-- AES-256-GCM nonce of an envelope: DIR, three zero bytes, SEQ (13 R459). -/
def envNonce (dir seq : Nat) : List Byte := BitVec.ofNat 8 dir :: zeros 3 ++ leBytes 8 seq

/-- Bytes 0-23 of an envelope (13 Table 13.10). -/
def envHead (entry dir seq plen : Nat) : List Byte :=
  leBytes 4 0x56454E4B ++ leBytes 2 entry ++ [BitVec.ofNat 8 dir, 0] ++ leBytes 8 seq ++ leBytes 4 plen ++ zeros 4

/-- The result envelope of a sealed command: PLEN = RLEN - 40 (R462); none once the session has gone. -/
def resultEnvelope (s : State) (c : Cmd) (status r0 r1 flags wait : Nat) (body : List Byte) :
    State × Option (List Byte) :=
  match s.session c.session.toNat with
  | none => (s, none)
  | some k =>
    if c.rlen < 40 then (s, none) else
    let plen := c.rlen - 40
    let plain := padTo plen (leBytes 1 status ++ [0] ++ leBytes 2 flags ++ leBytes 4 r1 ++ leBytes 8 r0
      ++ leBytes 4 wait ++ zeros 12 ++ body)
    let seq := k.seqOut + 1
    let head := envHead c.session.toNat 1 seq plen
    let aad := head ++ leBytes 1 c.opcode ++ leBytes 2 c.queue ++ leBytes 8 c.envSeq
    (s.setSession c.session.toNat (some { k with seqOut := seq }),
      some (head ++ padTo (plen + 16) (Config.gcmSeal k.keyOut (envNonce 1 seq) aad plain)))

/-- The command's result body is written, in an envelope where it carried one (13 R427, R461), and its completion record
goes to its ring. A result buffer that cannot be written completes it with FAULT (10 R344), its flags and its wait as they are. -/
def answer (s : State) (c : Cmd) (status r0 r1 flags wait : Nat) (body : List Byte) : State :=
  let s := { s with qau.cmds := s.qau.cmds.filter (·.seq ≠ c.seq) }
  match c.plain with
  | some _ =>
    let (s, env) := resultEnvelope s c status r0 r1 flags wait body
    let s := match env with
      | none => s
      | some bs => (s.write 2 c.raddr bs .clean).1
    holdRec s c.queue (completionBytes c.queue c.tag 0 0 0 0 0 c.user) (some c.seq)
  | none =>
    let (s, ok) := if body.isEmpty then (s, true) else s.write 2 c.raddr body .clean
    let rec' := if ok then completionBytes c.queue c.tag status r0 r1 flags wait c.user
      else completionBytes c.queue c.tag stFault r0 0 flags wait c.user
    holdRec s c.queue rec' (some c.seq)

/-! ## Fetch (R404-R406, R425) -/

def evRingError : Nat := 0x60
/-- Entries of a ring. -/
def Queue.sqSize (x : Queue) : Nat := 2 ^ x.sqLog2.toNat
def Queue.cqSize (x : Queue) : Nat := 2 ^ x.cqLog2.toNat

/-- A queue has an entry to fetch: enabled, not draining, not stopped by an uncorrectable entry. -/
def fetchable (s : State) (q : Nat) : Bool :=
  let x := s.queue q
  s.mod.accepting && !unitStopped s 0 && x.enable && !x.draining && !x.stopped && x.sqHead ≠ x.tail

/-- No command row names this command: its opcode or its subop is none of the spec's. -/
def Cmd.unnamed (c : Cmd) : Bool := !knownOp c.opcode || (c.opcode = opMaint && !knownSubop c.subop)

/-- A command that no row names is answered by its own first failing check (R412, R422). -/
def settleUnnamed (s : State) (c : Cmd) : State :=
  if c.unnamed then
    answer s c (if stepOne c && !(s.queue c.queue).maint then stDenied else stBadCmd) 0 0 0 0 []
  else s

/-- A command read from a ring: held under FENCE while an earlier command of its queue has no completion (R425). -/
def newCmd (s : State) (q : Nat) (bs : List Byte) : Cmd :=
  let x := s.queue q
  { queue := q, tag := byteAt bs 1 % 32, seq := s.qau.fetched, bytes := bs,
    phase := if bit (byteAt bs 1) 5 && x.tags ≠ 0 then .fenceHeld else .fetched, held := bit (byteAt bs 1) 5 && x.tags ≠ 0, delayed := false, adm := none,
    session := x.session, plain := none, envSeq := 0, body := [],
    job := if byteAt bs 0 = opFlush then .flush s.csn.current else .none }

/-- Fetch the entry at SQHEAD; none where it waits or its read fails. -/
def fetchOne (s : State) (q : Nat) : State × Bool :=
  let x := s.queue q
  match s.read 2 (x.sqBase.toNat + 64 * x.sqHead) 64 .clean with
  | (s, none) => (postM (s.modQueue q (fun y => { y with err := 3, stopped := true })) evRingError srcQau q q 3 0, false)
  | (s1, some bs) =>
    if x.tags.getLsbD (byteAt bs 1 % 32) then (s, false)
    else
      let c := newCmd s1 q bs
      let s := s1.modQueue q (fun y => { y with
        sqHead := (y.sqHead + 1) % y.sqSize, tags := y.tags ||| (1#32 <<< c.tag) })
      let s := { s with qau.fetched := s.qau.fetched + 1, qau.cmds := s.qau.cmds ++ [c] }
      (if c.phase = .fetched then settleUnnamed s c else s, true)

/-- Fetch while entries can be fetched; `n` bounds them. -/
def fetchAll (q : Nat) : Nat → State → State
  | 0, s => s
  | n + 1, s =>
    if fetchable s q then
      match fetchOne s q with
      | (s, true) => fetchAll q n s
      | (s, false) => s
    else s

/-- Fetch what queue `q` holds. -/
def fetch (s : State) (q : Nat) : State := fetchAll q (s.queue q).sqSize s

/-- The command completes; its tag's end may let a waiting entry be fetched (R404). -/
def finish (s : State) (c : Cmd) (status r0 r1 flags wait : Nat) (body : List Byte) : State :=
  fetch (answer s c status r0 r1 flags wait body) c.queue

/-- RESULT1 of a committed batch (Table 12.12). -/
def batchR1 (op : Nat) (j : BatchJob) : Nat :=
  if op = opInsert then 0xFFFFFFFF else if op = opDelete then j.count - j.replaced else j.replaced

/-- RESULT0 of a command that completes with no result (Table 12.12): a search's admission CSN once admitted, a batch's CSN once
issued, else 0. -/
def Cmd.r0 (c : Cmd) : Nat :=
  match c.job with
  | .batch j => j.csn
  | _ => if (c.opcode = opSearch ∨ c.opcode = opRange) ∧ c.phase ≠ .fetched ∧ c.phase ≠ .powerHeld then c.adm.getD 0 else 0

/-- RESULT1 of a command that completes with no result: no record of an INSERT_BATCH is refused under R34; a batch that has its
CSN says what it did. -/
def Cmd.r1 (c : Cmd) : Nat :=
  match c.job with
  | .batch j => if j.csn = 0 then (if c.opcode = opInsert then 0xFFFFFFFF else 0) else batchR1 c.opcode j
  | _ => if c.opcode = opInsert then 0xFFFFFFFF else 0

/-- SLOTWAIT_US (01 R21): 0 for a command that found at its admission a slot to take, and for other commands. -/
def Cmd.wait (c : Cmd) : Nat :=
  match c.job with
  | .search j => if j.waits then (Config.slotWait c.seq).toNat else 0
  | _ => 0

/-- The command completes with a status and no result. -/
def fail (s : State) (c : Cmd) (status : Nat) : State :=
  finish s c status c.r0 c.r1 (if c.delayed then 0x80 else 0) c.wait []

/-- What the grant of a sealed session does not allow: DENIED stands in the result envelope (13 R463) and, as a failure of step 2, in the
completion (12 R427; DEDUCED, log 121). -/
def denyInside (s : State) (c : Cmd) : State :=
  let (s, env) := if c.plain.isSome then resultEnvelope s c stDenied 0 0 0 0 [] else (s, none)
  let s := match env with
    | none => s
    | some bs => (s.write 2 c.raddr bs .clean).1
  fail s { c with plain := none } stDenied

end Sys2Proof.Machine
end

