-- ==== Sys2Proof/Machine/Visible.lean ====
section
/-! DEFINITION. Commit order and visibility (02): the commit table and the issue of CSNs, the journal (06 R209-R212),
identity lines and exclusion lists (04 R100, R101), and the one visibility rule R41. -/

namespace Sys2Proof.Machine

/-- All ones in 64 bits: a live copy's RETIRE, and what an entry not yet issued resolves to (R41). -/
def ones64 : Nat := 2 ^ 64 - 1
/-- "No entry" in a commit-table reference (R32). -/
def noRef : Nat := 0xFFFF

/-! ## The commit table and CSNs (R30-R37) -/

/-- What a commit-table entry resolves to: its CSN once issued, else all ones. -/
def tableCsn (s : State) (ref : Nat) : Nat :=
  match Tab.get none s.csn.table ref with
  | some e => e.csn.getD ones64
  | none => ones64

/-- What stack `n`'s commit-table mirror gives for an entry (04 R94): its CSN once issued, else all ones. -/
def mirrorCsn (s : State) (n ref : Nat) : Nat :=
  let c := Tab.get 0 s.csn.mirrors (65536 * n + ref)
  if c = 0 then ones64 else c

/-- Entry `ref` of all eight mirrors takes CSN `c`; 0 where it holds none. -/
def setMirrors (m : Tab Nat) (ref c : Nat) : Tab Nat := (List.range 8).foldl (fun t n => Tab.set 0 t (65536 * n + ref) c) m

/-- A from-CSN: the back-filled value, or the commit-table entry. -/
def resolveFrom (s : State) (csn ref : Nat) : Nat := if csn ≠ 0 then csn else tableCsn s ref

/-- A retire CSN: all ones when live. -/
def resolveRetire (s : State) (csn ref : Nat) : Nat :=
  if csn ≠ ones64 then csn else if ref = noRef then ones64 else tableCsn s ref

/-- The lowest number from `n` on that a table does not list. -/
def freeFrom {α : Type} : Nat → Tab α → Nat
  | n, [] => n
  | n, (k, _) :: t => if n = k then freeFrom (n + 1) t else if k < n then freeFrom n t else n

/-- A free commit-table entry, 0x0000-0xFFFE (R32). -/
def freeRef (s : State) : Option Nat :=
  let n := freeFrom 0 s.csn.table
  if n < noRef then some n else none

/-- Allocate a commit-table entry; the mirrors hold no CSN for it until it issues (log 92). -/
def takeRef (s : State) (ref : Nat) : State :=
  { s with csn.table := Tab.set none s.csn.table ref (some ⟨none⟩), csn.mirrors := setMirrors s.csn.mirrors ref 0 }

/-- Free a commit-table entry. -/
def dropRef (s : State) (ref : Nat) : State :=
  { s with csn.table := Tab.set none s.csn.table ref none, csn.mirrors := setMirrors s.csn.mirrors ref 0 }

/-- Bytes of the HBM journal not yet programmed, at most 64 MiB (06 R209). -/
def tailBytes (s : State) : Nat := (s.flash.tail.map (·.bytes)).foldl (· + ·) 0
def tailLimit : Nat := 64 * 1024 * 1024
/-- The HBM journal can take `n` bytes more (06 R209). -/
def journalRoom (s : State) (n : Nat) : Bool := decide (tailBytes s + n ≤ tailLimit)

/-- The next CSN can be issued: it lies in the range in use, or the record of the next range is programmed (R37), and the HBM
journal can take the change's entry and its COMMIT. -/
def canIssue (s : State) : Bool :=
  journalRoom s 288 && (decide (s.csn.next ≤ s.csn.rangeEnd) || (match s.csn.nextRange with
    | some (_, p) => p
    | none => false))

/-- A batch is staged, its CSN still to issue, under a journal entry before `n`: what is staged first issues first (R33, log 90). -/
def stagedBefore (s : State) (n : Nat) : Bool :=
  s.qau.cmds.any (fun c => match c.phase, c.job with
    | .staging, .batch j => j.kind.isSome && decide (j.jsn < n)
    | _, _ => false)

/-- The commit-table entry of a change other than a batch: none while it waits for one, for the CSN range, for the journal or
for batches staged before it (Table 2.6, R33, R37, 06 R209). -/
def changeRef (s : State) : Option Nat := if canIssue s && !stagedBefore s (s.flash.jsn + 1) then freeRef s else none

/-- CSN_HORIZON: the lowest of CSN_CURRENT, the admission CSNs of running commands and the held pins (R39). -/
def horizon (s : State) : Nat :=
  let adms := s.qau.cmds.filterMap (·.adm)
  let pins := (s.csn.pins.filter (·.2.held)).map (·.2.csn)
  (adms ++ pins).foldl min s.csn.current

/-! ## The journal (06 R209-R212) -/

/-- Bytes of a journal entry's body (06 Table 6.8; sizes that no rule gives: log 18). -/
def JBody.size : JBody → Nat
  | .insert ns => 136 * ns.length
  | .delete ds => 16 * ds.length
  | .upsert ds ns => 16 * ds.length + 136 * ns.length
  | .commit => 0
  | .handover _ => 144
  | .move _ olds => 144 + 16 * max 1 (ceilDiv olds.length 4)
  | .collection _ _ => 72
  | .generation _ _ => 64
  | .csnRange _ => 8
  | .checkpoint _ => 8
  | .priority _ => 8

/-- The flash journal ring: 64 GB (06 Table 6.2). -/
def ringLimit : Nat := 64000000000
def ringFull (s : State) : Bool := decide (ringLimit ≤ s.flash.ring)

/-- The packed scan form of a record of a format (03 R70). -/
def ScanRec.packed (format : Nat) (r : ScanRec) : List Byte :=
  r.code ++ leBytes 8 r.attr.toNat ++ (if format = 0 then [] else leBytes 8 r.ext.toNat)
    ++ (if format = 2 then r.outl.flatMap (fun x => leBytes 2 x.toNat) else [])

/-- The 128 bytes of a side-list entry (02 Table 2.4). -/
def SideEnt.image (e : SideEnt) : List Byte :=
  leBytes 8 e.vid.toNat ++ leBytes 8 e.fromCsn.toNat ++ leBytes 8 e.retire.toNat ++ leBytes 2 e.fromRef.toNat
    ++ leBytes 2 e.retireRef.toNat ++ leBytes 4 (e.version.toNat + e.format.toNat * 2 ^ 20 + e.gen.toNat * 2 ^ 24)
    ++ padTo 96 (e.srec.packed e.format.toNat)

/-- An INSERT item: the side-list entry's image and its slot address (Table 6.8). -/
def insertItem (s : State) (n : Nat) : List Byte :=
  ((s.side n).map (fun e => e.image ++ leBytes 8 e.slot.toNat)).getD (zeros 136)

/-- A DELETE item: the VID, and the copy deleted (Table 6.8): a side entry by number, a record of a bank by block key and index
(log 18). -/
def deleteItem (s : State) : CopyRef → List Byte
  | .side n => leBytes 8 (((s.side n).map (·.vid.toNat)).getD 0) ++ leBytes 8 n
  | .bank k r => leBytes 8 (((s.block k).map (fun b => hCid b.hdr * 2 ^ 48 + (b.ident.getD r 0).toNat % 2 ^ 48)).getD 0)
      ++ leBytes 8 (2 ^ 63 + 256 * k + r)

/-- A block's header image and its entry of the refine extent table (Table 6.8). -/
def blockItem (s : State) (key : Nat) : List Byte :=
  ((s.block key).map (fun b => leBytes 128 b.hdr.toNat ++ leBytes 16 b.extent.toNat)).getD (zeros 144)

/-- The body of an entry (Table 6.8). -/
def bodyImage (s : State) : JBody → List Byte
  | .insert ns => ns.flatMap (insertItem s)
  | .delete ds => ds.flatMap (deleteItem s)
  | .upsert ds ns => ds.flatMap (deleteItem s) ++ ns.flatMap (insertItem s)
  | .commit => []
  | .handover k => blockItem s k
  | .move k olds => (k.map (blockItem s)).getD (zeros 144)
      ++ padTo (16 * max 1 (ceilDiv olds.length 4)) (olds.flatMap (leBytes 4))
  | .collection d p => padTo 64 p ++ leBytes 8 (b2n d)
  | .generation tag digest => padTo 64 (leBytes 1 tag.toNat ++ leBytes 32 digest.toNat)
  | .csnRange last => leBytes 8 last
  | .checkpoint jsn => leBytes 8 jsn
  | .priority p => leBytes 8 p

/-- TYPE of an entry (Table 6.8); COLL_PRIORITY is journalled as COLLECTION (log 18). -/
def JBody.type : JBody → Nat
  | .insert _ => 1
  | .delete _ => 2
  | .upsert _ _ => 3
  | .commit => 4
  | .handover _ => 5
  | .move _ _ => 6
  | .collection _ _ => 7
  | .generation _ _ => 8
  | .csnRange _ => 9
  | .checkpoint _ => 10
  | .priority _ => 7

/-- The 64-byte header of an entry (Table 6.7). -/
def entryHeader (jsn : Nat) (durable : Bool) (ref cid count csn type : Nat) (body : List Byte) : List Byte :=
  let h := leBytes 4 0x4C4E524A ++ leBytes 1 type ++ leBytes 1 (b2n durable) ++ zeros 2 ++ leBytes 8 jsn ++ leBytes 2 ref
    ++ leBytes 2 cid ++ leBytes 4 count ++ leBytes 4 body.length ++ leBytes 4 (Config.crc32c body).toNat ++ leBytes 8 csn ++ zeros 20
  h ++ leBytes 4 (Config.crc32c h).toNat

/-- The HBM journal: a ring of 256 MiB in a PROT region of S9 (R209). -/
def ringBytes : Nat := 256 * 1024 * 1024

/-- Append an entry to the HBM journal; its JSN is one greater per entry (R210). -/
def journalAck (s : State) (durable : Bool) (ref cid count csn : Nat) (body : JBody) (cmd : Option Nat)
    (ack : Option (Nat × Nat)) : State :=
  let n := s.flash.jsn + 1
  let bs := bodyImage s body
  let e : JEnt := ⟨n, durable, BitVec.ofNat 16 ref, BitVec.ofNat 16 cid, count, 64 + body.size,
    entryHeader n durable ref cid count csn body.type bs ++ bs, csn, body, cmd, ack,
    if cid = 0xFFFF then s.warden.jnlKey else ((s.coll cid).map (·.key)).getD [], s.flash.ringPos⟩
  { s with flash.jsn := n, flash.ringPos := (s.flash.ringPos + e.bytes) % ringBytes, flash.tail := s.flash.tail ++ [e] }

def journal (s : State) (ref cid count csn : Nat) (body : JBody) : State :=
  journalAck s false ref cid count csn body none none

/-- Issue the next CSN into entry `ref`, the eight mirrors (04 R94) and CSN_CURRENT, with its COMMIT entry in the HBM journal
(R31, R210). -/
def issueAck (s : State) (ref cid : Nat) (cmd : Option Nat) (ack : Option (Nat × Nat)) : Nat × State :=
  let c := s.csn.next
  let s := if c ≤ s.csn.rangeEnd then s
    else { s with csn.rangeEnd := (s.csn.nextRange.getD (s.csn.rangeEnd, false)).1, csn.nextRange := none }
  let s := { s with csn.table := Tab.set none s.csn.table ref (some ⟨some c⟩), csn.mirrors := setMirrors s.csn.mirrors ref c }
  let s := { s with csn.current := c, csn.next := c + 1 }
  (c, journalAck s false ref cid 0 c .commit cmd ack)

def issue (s : State) (ref cid : Nat) : Nat × State := issueAck s ref cid none none

/-- A change other than a batch: its journal entry is written, then its CSN issues (Table 2.1, R31). -/
def commitChange (s : State) (ref cid count : Nat) (body : JBody) : Nat × State :=
  issue (journal s ref cid count 0 body) ref cid

/-! ## Identity lines and VIDs (04 R101, 02 R26) -/

def identNum (x : BitVec 68) : Nat := x.toNat % 2 ^ 48
def identVer (x : BitVec 68) : Nat := x.toNat / 2 ^ 48
def identOf (vid : W64) (ver : Nat) : BitVec 68 := BitVec.ofNat 68 (vid.toNat % 2 ^ 48 + (ver % 2 ^ 20) * 2 ^ 48)
def blockVid (b : Block) (r : Nat) : W64 :=
  BitVec.ofNat 64 (hCid b.hdr * 2 ^ 48 + identNum (b.ident.getD r 0))
def blockVer (b : Block) (r : Nat) : Nat := identVer (b.ident.getD r 0)

/-- Version a is newer than version b (R29). -/
def newer (a b : Nat) : Bool :=
  let d := (a + 2 ^ 20 - b % 2 ^ 20) % 2 ^ 20
  decide (1 ≤ d ∧ d ≤ 0x7FFFF)

/-! ## Pending exclusions (R47) -/

def exCsn (x : BitVec 128) : Nat := x.toNat % 2 ^ 64
def exRef (x : BitVec 128) : Nat := bits x.toNat 64 16
def exIdx (x : BitVec 128) : Nat := bits x.toNat 80 8
def mkEx (csn ref idx : Nat) : BitVec 128 := BitVec.ofNat 128 (field csn 0 64 + field ref 64 16 + field idx 80 8)
def resolveEx (s : State) (x : BitVec 128) : Nat := if exCsn x ≠ 0 then exCsn x else tableCsn s (exRef x)

/-- The entries in use of a block's pending-exclusion list. -/
def exclusions (s : State) (w : Nat) (h : Header) : List (BitVec 128) :=
  if hExclList h = 0xFFFF then [] else (Tab.get [] s.corpus.excl (exKey w (hExclList h))).take (hExclN h)

def setExcl (s : State) (w l : Nat) (xs : List (BitVec 128)) : State :=
  { s with corpus.excl := Tab.set [] s.corpus.excl (exKey w l) xs }

/-! ## Visibility (R41) -/

/-- A side copy is visible to admission CSN `a`. -/
def sideVisible (s : State) (e : SideEnt) (a : Nat) : Bool :=
  decide (resolveFrom s e.fromCsn.toNat e.fromRef.toNat ≤ a)
    && decide (a < resolveRetire s e.retire.toNat e.retireRef.toNat)

/-- The block's own CSNs admit `a` (R107). -/
def blockAdmits (s : State) (h : Header) (a : Nat) : Bool :=
  decide (resolveFrom s (hFrom h) (hFromRef h) ≤ a) && decide (a < resolveRetire s (hRetire h) (hRetireRef h))

/-- Record `r` of a block is not tombstoned, and no exclusion naming it is at or below `a`. -/
def notExcluded (s : State) (w : Nat) (h : Header) (r a : Nat) : Bool :=
  !hTomb h r && !(exclusions s w h).any (fun x => exIdx x = r && decide (resolveEx s x ≤ a))

/-- R41 as Weevil `w` applies it, references resolved through its stack's mirror (04 R94): the block's own CSNs admit `a`. -/
def weevilAdmits (s : State) (w : Nat) (h : Header) (a : Nat) : Bool :=
  let from' := if hFrom h ≠ 0 then hFrom h else mirrorCsn s (w / 32) (hFromRef h)
  let retire := if hRetire h ≠ ones64 then hRetire h else if hRetireRef h = noRef then ones64 else mirrorCsn s (w / 32) (hRetireRef h)
  decide (from' ≤ a) && decide (a < retire)

/-- Record `r` is neither tombstoned nor excluded at or below `a`, as Weevil `w` finds it. -/
def weevilFinds (s : State) (w : Nat) (h : Header) (r a : Nat) : Bool :=
  !hTomb h r && !(exclusions s w h).any (fun x => exIdx x = r
    && decide ((if exCsn x ≠ 0 then exCsn x else mirrorCsn s (w / 32) (exRef x)) ≤ a))

/-- A bank copy is visible to `a`. -/
def bankVisible (s : State) (w : Nat) (b : Block) (r a : Nat) : Bool :=
  decide (r < hCount b.hdr) && blockAdmits s b.hdr a && notExcluded s w b.hdr r a

/-- A held copy: where, version, attribute word. -/
structure Held where
  at' : CopyRef
  ver : Nat
  attr : W64
  deriving DecidableEq, Repr

/-- Every held copy of a VID. -/
def copiesOf (s : State) (vid : W64) : List Held :=
  (s.corpus.sides.filterMap (fun e => e.2.bind (fun x =>
    if x.vid = vid then some ⟨.side e.1, x.version.toNat, x.srec.attr⟩ else none)))
  ++ (s.corpus.blocks.flatMap (fun e => match e.2 with
    | none => []
    | some b => (List.range (hCount b.hdr)).filterMap (fun r =>
        if blockVid b r = vid then some ⟨.bank e.1 r, blockVer b r, (rec256 b r).attr⟩ else none)))

/-- A held copy is visible to `a`. -/
def copyVisible (s : State) (c : CopyRef) (a : Nat) : Bool :=
  match c with
  | .side n => (s.side n).any (fun e => sideVisible s e a)
  | .bank k r => (s.block k).any (fun b => bankVisible s (keyWeevil k) b r a)

/-- The visible copies of a VID at `a`: at most one (R61 apart). -/
def visibleOf (s : State) (vid : W64) (a : Nat) : List Held := (copiesOf s vid).filter (fun h => copyVisible s h.at' a)

/-! ## Collections (R25-R27) -/

/-- Collections that can be searched, and live ones. -/
def searchableCount (s : State) : Nat := (s.corpus.colls.filter (fun e => e.2.any (fun c => c.searchable && c.destroyed.isNone))).length

/-- A live collection: created and not destroyed. -/
def liveColl (s : State) (cid : Nat) : Option Coll := (s.coll cid).filter (fun c => c.destroyed.isNone)
def liveCount (s : State) : Nat :=
  (s.corpus.colls.filter (fun e => e.2.any (fun c => c.destroyed.isNone))).length
def Coll.newest (c : Coll) : Option Gen := c.gens.getLast?
/-- No scan space holds the collection (14 R504). -/
def isFlashOnly (s : State) (cid : Nat) : Bool := (s.coll cid).any (·.flashOnly)
def isSealedCid (s : State) (cid : Nat) : Bool := (s.coll cid).any (·.sealed)

/-! ## Generations (03 R87) -/

/-- A collection whose scan data is scrubbed (13 R474, R477): the Borers hold no key pair of it, and the page store keeps it. -/
def scrubbed (s : State) (cid : Nat) : Bool := (s.coll cid).any (fun c => !c.keyed)

/-- A copy of a corpus carries a generation's tag. -/
def Corpus.holdsGen (c : Corpus) (cid : Nat) (tag : Byte) : Bool :=
  c.sides.any (fun e => e.2.any (fun x => x.cid.toNat = cid && x.gen = tag))
  || c.blocks.any (fun e => e.2.any (fun b => hCid b.hdr = cid && hGen b.hdr = tag.toNat))

/-- Some copy, one of a scrubbed collection in the page store too, or a batch on its way, carries a generation's tag
(03 R87, R90). -/
def genUsed (s : State) (cid : Nat) (tag : Byte) : Bool :=
  s.corpus.holdsGen cid tag || (scrubbed s cid && s.flash.map.holdsGen cid tag)
  || s.qau.cmds.any (fun c => match c.job with
    | .batch j => j.cid.toNat = cid && j.gen = tag && j.ref.isSome
    | _ => false)

/-- Generations of a collection that are live: the newest, and an older one while a copy carries its tag (03 R87). -/
def liveGens (s : State) (cid : Nat) (c : Coll) : List Gen :=
  c.gens.filter (fun g => c.newest.any (fun n => n.tag = g.tag) || genUsed s cid g.tag)

/-! ## The side list (R42, 07 R245) -/

def chunkSize : Nat := 2048
def chunkCount : Nat := 8192
/-- The plain stack that holds a chunk. -/
def chunkStack (c : Nat) : Nat := 8 + c / 2048
/-- Plain stacks that take chunks: neither retired nor being retired (14 R502). -/
def plainUp (s : State) : List Nat :=
  [8, 9, 10, 11].filter (fun st => !(s.ctl st).retired
    && !s.maint.claims.any (fun c => c.2.any (fun k => k.state ≠ 0 && k.act = .stackRetire st)))
/-- Entries that the side list holds: a quarter of them in each plain stack (R42, 14 Table 14.6). -/
def sideCapacity (s : State) : Nat := 4194304 * (plainUp s).length
/-- Entries occupied or staged (R44). -/
def sideUsed (s : State) : Nat := s.corpus.sides.length
/-- Side-list fill in percent, as SIDE_URGENT reports it. -/
def sidePct (s : State) : Nat := sideUsed s * 100 / sideCapacity s

/-- Chunks of a collection in the order in which they were opened. -/
def chunksOfColl (s : State) (cid : Nat) : List (Nat × Chunk) :=
  sortBy (fun a b => decide (a.2.ord < b.2.ord))
    (s.corpus.chunks.filterMap (fun e => e.2.bind (fun c => if c.cid.toNat = cid then some (e.1, c) else none)))

/-- The next entry number for a collection: in its last open chunk, or in a new one, the lowest free. None when every
chunk is taken. A plain stack that is being retired takes none (14 R502). -/
def nextSide (s : State) (cid : Nat) : Option (Nat × Nat × Chunk) :=
  match (chunksOfColl s cid).getLast? with
  | some (n, c) =>
    if c.used < chunkSize ∧ chunkStack n ∈ plainUp s then some (n * chunkSize + c.used, n, { c with used := c.used + 1 }) else fresh
  | none => fresh
where
  fresh : Option (Nat × Nat × Chunk) :=
    let ord := (s.corpus.chunks.filterMap (fun e => e.2.map (·.ord))).foldl max 0 + 1
    (plainUp s).findSome? (fun st =>
      let n := freeFrom (2048 * (st - 8)) s.corpus.chunks
      if chunkStack n = st then some (n * chunkSize, n, ⟨BitVec.ofNat 16 cid, ord, 1⟩) else none)

/-- Chunks of which nothing is left, with no lap of their collection in a slot, are released (07 R245). -/
def releaseChunks (s : State) : State :=
  { s with corpus.chunks := s.corpus.chunks.filter (fun e =>
      s.corpus.sides.any (fun x => x.1 / chunkSize = e.1)
        || e.2.any (fun c => s.eng.groups.any (fun g => g.cid = c.cid && !g.slots.isEmpty))) }

/-- Append entries for a collection; none when the side list has no room. Answers the numbers given. -/
def appendSides (s : State) (cid : Nat) : List SideEnt → Option (State × List (Nat × SideEnt))
  | [] => some (s, [])
  | e :: es =>
    match nextSide s cid with
    | none => none
    | some (n, ch, c) =>
      let s := { s with corpus.chunks := Tab.set none s.corpus.chunks ch (some c) }
      (appendSides (s.setSide n (some e)) cid es).map (fun r => (r.1, (n, e) :: r.2))

/-- Remove entries whose batch did not commit (R36). -/
def dropSides (s : State) (ns : List Nat) : State := ns.foldl (fun s n => s.setSide n none) s

end Sys2Proof.Machine
end

