-- ==== Sys2Proof/Machine/Flash.lean ====
section
/-! DEFINITION. How the page store lies (06 R179-R192): vector slots and payload records, stripe rows and the superblocks of erase
blocks that they stand in, runs of units, scan-form images. -/

namespace Sys2Proof.Machine

/-! ## Vector slots (06 R186-R191, R569) -/

/-- A slot's size S in bytes. -/
def slotSize (p : Params) : Nat := 64 * ceilDiv (36 + p.vecBytes) 64

/-- A slot address (R569). -/
def slotAddr (fla off size : Nat) : W64 := BitVec.ofNat 64 (field fla 0 40 + field (off / 64) 40 6 + field (size / 64) 46 10)
def saFla (a : W64) : Nat := bits a.toNat 0 40
def saOff (a : W64) : Nat := 64 * bits a.toNat 40 6
/-- Key of a vector slot: its unit and its offset within it. -/
def slotKey (a : W64) : Nat := saFla a * 4096 + saOff a

/-! ### Flash rows and units (06 R179-R183) -/

def flaRow (fla : Nat) : Nat := fla / 120
def flaCol (fla : Nat) : Nat := fla % 30
def rowAt (s : State) (r : Nat) : Row := Tab.get Row.initial s.flash.rows r

/-- The superblock of a unit. -/
def superOf (fla : Nat) : Nat := fla / (120 * Config.superRows)

/-- Superblocks of the module, and blocks of one package: a quarter of a channel's (R177; log 34). -/
def superblocks : Nat := (if Config.isF48 then 122070312 else 244140625) / Config.superRows
def packageBlocks : Nat := superblocks / 4

/-- A block's erase count, by channel and block. -/
def eraseKey (ch block : Nat) : Nat := ch * 65536 + block
def eraseCount (s : State) (ch block : Nat) : Nat := Tab.get 0 s.life.now.erase (eraseKey ch block)

/-- The erase block that a superblock has on a channel: its own number's until another is chosen (R207; log 34). -/
def blockOf (s : State) (sb ch : Nat) : Nat :=
  let x := Tab.get 0 s.flash.supers (32 * sb + ch)
  if x = 0 then sb else x - 1

/-- Superblocks in which nothing has been written since they were erased: the free superblocks (R567). -/
def superFree (s : State) (sb : Nat) : Bool :=
  !s.flash.retired.contains sb && !s.flash.rows.any (fun e => e.1 / Config.superRows = sb && e.2.begun)
def freeSupers (s : State) : List Nat := (List.range superblocks).filter (superFree s)

/-- A new superblock takes on a channel the free erase block with the lowest erase count: it changes blocks with the free superblock
that has it (R207). -/
def pickBlock (s : State) (sb ch : Nat) : State :=
  let own := blockOf s sb ch
  if eraseCount s ch own = 0 then s
  else
    let best := (freeSupers s).foldl (fun a x => if eraseCount s ch (blockOf s x ch) < eraseCount s ch (blockOf s a ch) then x else a) sb
    let t := Tab.set 0 s.flash.supers (32 * sb + ch) (blockOf s best ch + 1)
    if best = sb then s else { s with flash.supers := Tab.set 0 t (32 * best + ch) (own + 1) }

/-- A superblock is built before its first row is begun. -/
def buildSuper (s : State) (sb : Nat) : State :=
  (List.range 32).foldl (fun t c => if eraseCount t c (blockOf t sb c) = 0 then t else if superFree s sb then pickBlock t sb c else t) s

/-- The channel that a row written now skips (R182, R202); with two of them out the lowest (log 34). -/
def skipNow (s : State) : Option Nat := (List.range 32).find? (fun c => (s.channel c).state ≠ 0)

/-- The channel that a row skips: as the row table has it; of a row in which nothing is placed yet, the one that is out. -/
def rowSkip (s : State) (r : Nat) : Option Nat :=
  if (rowAt s r).begun || !(rowAt s r).openRow then (rowAt s r).skip else skipNow s

/-- Column 29 of a degraded row does not exist (R182). -/
def unitMissing (s : State) (fla : Nat) : Bool := flaCol fla = 29 && (rowSkip s (flaRow fla)).isSome

/-- Unit `i` of a run that begins at `u`. An object's units follow each other over the columns that their rows have (log 34). -/
def nthUnit (s : State) : Nat → Nat → Nat
  | 0, u => if unitMissing s u then u + 1 else u
  | i + 1, u => nthUnit s i ((if unitMissing s u then u + 1 else u) + 1)

/-- The unit behind a run of `n` units from `lo` on. -/
def runEnd (s : State) (lo n : Nat) : Nat := if n = 0 then lo else nthUnit s (n - 1) lo + 1

/-- The units of a run. -/
def unitsOfRun (s : State) (lo n : Nat) : List Nat := (List.range n).map (fun i => nthUnit s i lo)

/-- The channels of row `r` in column order P, Q, data: a degraded row skips one. -/
def rowChannels (s : State) (r : Nat) : List Nat :=
  ((List.range 32).map (fun i => (r + i) % 32)).filter (fun c => (rowAt s r).skip ≠ some c)
def homeChannel (s : State) (fla : Nat) : Nat := (rowChannels s (flaRow fla)).getD (2 + flaCol fla) 0

/-- The erase block that holds a unit, on its channel. -/
def blockOfUnit (s : State) (fla : Nat) : Nat := blockOf s (superOf fla) (homeChannel s fla)

/-- The superblock that has an erase block of a channel. -/
def superWith (s : State) (ch block : Nat) : Nat :=
  ((s.flash.supers.find? (fun e => e.1 % 32 = ch && e.2 = block + 1)).map (·.1 / 32)).getD block

/-- The slot address of record `r` of an extent (R187, R189). -/
def extentSlot (s : State) (ext : BitVec 128) (r : Nat) : W64 :=
  let fla := ext.toNat % 2 ^ 40
  let size := 64 * bits ext.toNat 40 10
  if size = 0 then 0
  else if size ≤ 4096 then
    let n := 4096 / size
    slotAddr (nthUnit s (r / n) fla) (r % n * size) size
  else slotAddr (nthUnit s (r * ceilDiv size 4096) fla) 0 size

/-- Bytes of a vector slot but its CRC (06 Table 6.3). -/
def VSlot.head (v : VSlot) (size : Nat) : List Byte :=
  padTo (size - 4) (leBytes 8 v.vid.toNat ++ leBytes 4 (v.version.toNat + v.enc * 2 ^ 20) ++ leBytes 2 v.dim
    ++ leBytes 2 v.payLen ++ leBytes 8 v.attr.toNat ++ leBytes 8 v.ext.toNat ++ v.vector)

def putSlot (s : State) (a : W64) (v : Option VSlot) : State :=
  { s with flash.slots := Tab.set none s.flash.slots (slotKey a) v }
/-- What stands at a slot address, its data lost or not; and the slot where it can be read (R206). -/
def slotHeld (s : State) (a : W64) : Option VSlot := Tab.get none s.flash.slots (slotKey a)
def slotAt (s : State) (a : W64) : Option VSlot := (slotHeld s a).filter (fun v => !v.lost)

/-- Bytes of a payload record (06 R188): its header, the payload, up to a multiple of 64. -/
def payRecBytes (l : Nat) : Nat := if l = 0 then 0 else 64 * ceilDiv (16 + l) 64

/-- PAYLOAD_LEN of the slots at some addresses. -/
def payloadLens (s : State) (as : List W64) : List Nat := as.map (fun a => ((slotHeld s a).map (·.payLen)).getD 0)

/-- The table of offsets at the front of a payload extent (06 R188): the place of each record's payload record behind the table of
256, or 0xFFFF_FFFF for a record without a payload. -/
def payloadOffsets (ls : List Nat) : List Nat :=
  (ls.foldl (fun (a : Nat × List Nat) l => (a.1 + payRecBytes l, a.2 ++ [if l = 0 then 0xFFFFFFFF else a.1])) (1024, [])).2

/-- Units that slots of a size take (06 R187), and the units of a payload extent (06 R188). -/
def slotUnits (size n : Nat) : Nat :=
  if size = 0 then 0 else if size ≤ 4096 then ceilDiv n (4096 / size) else n * ceilDiv size 4096
/-- Units of a payload extent: a table of 256 offsets, then the records in order (06 R188). -/
def payloadSpan (ls : List Nat) : Nat :=
  if ls.all (· = 0) then 0 else ceilDiv (1024 + (ls.map payRecBytes).foldl (· + ·) 0) 4096

def payloadUnits (s : State) (x : BitVec 128) (n : Nat) : Nat :=
  payloadSpan (payloadLens s ((List.range n).map (extentSlot s x)))
def extentUnits (s : State) (x : BitVec 128) (n : Nat) : Nat :=
  slotUnits (64 * bits x.toNat 40 10) n + payloadUnits s x n

/-- The key pair of a collection (13 Table 13.5): from the fused secret, the CID and the create CSN, for a sealed collection also
the owner epoch and the sealing salt (log 75). -/
def collKey (s : State) (cid createCsn : Nat) (isSealed : Bool) : List Byte :=
  if isSealed then
    rootKey "SCOL" (leBytes 2 cid ++ leBytes 8 createCsn ++ leBytes 4 s.warden.ownerEpoch ++ leBytes 32 s.warden.salt) 64
  else rootKey "COL" (leBytes 2 cid ++ leBytes 8 createCsn) 64

/-- The tweak of a vector slot or of a payload record (R192). -/
def xtsTweak (vid : W64) (ver : Nat) (payload : Bool) : BitVec 128 :=
  BitVec.ofNat 128 (field vid.toNat 0 64 + field ver 64 20 + field (b2n payload) 95 1)

/-- The slot at an address where the key slots of the Borers hold the key pair it was written with (R193). -/
def slotKeyed (s : State) (cid : Nat) (a : W64) : Option VSlot :=
  (slotAt s a).filter (fun v => (s.coll cid).any (fun c => c.keyed && c.key = v.key))

/-- What the key slots of the Borers make of the slot at an address for a collection's VID and version (R192, R193): the slot
where key pair and tweak are those it was written with; nothing that passes a check otherwise (log 75). -/
def slotUnder (s : State) (cid : Nat) (vid : W64) (ver : Nat) (a : W64) : Option VSlot :=
  (slotKeyed s cid a).filter (fun v => v.tweak = xtsTweak vid ver false)

/-- The payload record that a slot names, deciphered: key pair and tweak are those it was written with, its header's VID and version
and the CRC of its bytes pass (R188, R192). -/
def payloadUnder (s : State) (cid : Nat) (vid : W64) (ver : BitVec 20) (a : W64) : Option PayRec :=
  ((slotAt s a).bind (·.payload)).filter (fun p =>
    (s.coll cid).any (fun c => c.keyed && c.key = p.key) && p.tweak = xtsTweak vid ver.toNat true
      && p.vid = vid && p.version = ver && p.crc = Config.crc32c p.bytes)

/-! ### Runs that can be written (06 R182, R183, R202) -/

/-- Units end with the stripe rows of the ordering code: its raw flash in rows of 32 pages of 16 KiB, 120 data units each (00 R1). -/
def inStore (u : Nat) : Bool := decide (u ≤ 120 * 122070312) || (!Config.isF48 && decide (u ≤ 120 * 244140625))

/-- A row can take units: it is open, its superblock is in use, and while a channel is out it is one that skips it. -/
def rowOpen (s : State) (r : Nat) : Bool :=
  let x := rowAt s r
  x.openRow && (!x.begun || (skipNow s).isNone || x.skip = skipNow s) && !s.flash.retired.contains (superOf (120 * r))

/-- A unit can be written (R182, R183). -/
def unitOpen (s : State) (fla : Nat) : Bool := rowOpen s (flaRow fla)

/-- Units of a scan-form image: the header and the rows (R184). -/
def imageUnits (h : Header) : Nat := ceilDiv (128 + hBlockBytes h) 4096

/-- Runs that the page store holds beside vector slots: payload extents, scan-form images, backing pages, the journal's, and the
allocator's last checkpoint. -/
def runsTaken (s : State) : List (Nat × Nat) :=
  (s.corpus.blocks ++ s.flash.map.blocks).flatMap (fun e => match e.2 with
    | none => []
    | some b => [(bits b.extent.toNat 50 40, payloadUnits s b.extent (hCount b.hdr))])
  ++ s.flash.imgs.filterMap (fun e => e.2.map (fun i => (e.1, imageUnits i.hdr)))
  ++ s.flash.backing.map (fun e => (e.1, ceilDiv e.2.length 4096))
  ++ s.flash.journalRuns.map (fun r => (r.1, r.2.1)) ++ s.flash.ckptRun.toList

/-- `n` units from `lo` on can be written and hold no object. -/
def runFree (s : State) (lo n : Nat) : Bool :=
  let hi := runEnd s lo n
  !unitMissing s lo && inStore hi && (List.range (hi - lo)).all (fun i => unitOpen s (lo + i))
  && s.flash.slots.all (fun e => !decide (lo ≤ e.1 / 4096 ∧ e.1 / 4096 < hi))
  && (runsTaken s).all (fun r => decide (r.2 = 0 ∨ runEnd s r.1 r.2 ≤ lo ∨ hi ≤ r.1))

/-- Units are placed in a run: its rows are begun, and skip the channel that is out (R202); the first row of a superblock builds it. -/
def claimRows (s : State) (lo n : Nat) : State :=
  (List.range (if n = 0 then 0 else flaRow (runEnd s lo n - 1) + 1 - flaRow lo)).foldl (fun t i =>
    let t := buildSuper t (superOf (120 * (flaRow lo + i)))
    { t with flash.rows := Tab.mod Row.initial t.flash.rows (flaRow lo + i) (fun r =>
        { r with begun := true, skip := rowSkip s (flaRow lo + i) }) }) s

/-- The first run of `n` units that can be written, from unit `u` on; the first number bounds the search. -/
def openRun (s : State) (n : Nat) : Nat → Nat → Nat
  | 0, u => u
  | k + 1, u => if runFree s u n then u else openRun s n k (u + 1)

/-- Starts that can be in the way of a run of `n` units: what rows, slots, other objects and retired superblocks take, and column 29. -/
def runBound (s : State) (n : Nat) : Nat :=
  (2 * n + 64) * (120 * s.flash.rows.length + s.flash.slots.length + (if s.flash.retired.isEmpty then 0 else 120 * Config.superRows * s.flash.retired.length)
    + ((runsTaken s).map (·.2)).foldl (· + ·) 0 + 1)

/-- Staging-log addresses of a batch's slots from unit `u`, byte `off` of it on, a unit not begun being at 0 (R569), and the unit
after them. -/
def stagingPlaces (s : State) (size : Nat) : Nat → Nat → Nat → List W64 × Nat
  | 0, u, off => ([], if off = 0 then u else u + 1)
  | n + 1, u, off =>
    if off ≠ 0 ∧ off + size ≤ 4096 then
      let r := stagingPlaces s size n u (off + size)
      (slotAddr u off size :: r.1, r.2)
    else
      let k := ceilDiv size 4096
      let v := openRun s k (runBound s k) (if off = 0 then u else u + 1)
      let r := if 4096 < size then stagingPlaces s size n (runEnd s v k) 0 else stagingPlaces s size n v size
      (slotAddr v 0 size :: r.1, r.2)

/-- The rows of a run are programmed (R183), degraded where they were begun while a channel was out (R182). -/
def programRows (s : State) (lo n : Nat) : State :=
  (List.range (if n = 0 then 0 else flaRow (runEnd s lo n - 1) + 1 - flaRow lo)).foldl (fun t i =>
    { t with flash.rows := Tab.mod Row.initial t.flash.rows (flaRow lo + i) (fun r =>
        { r with openRow := false, begun := true, skip := rowSkip s (flaRow lo + i) }) }) s

/-- The units that a slot takes from its first on. -/
def slotFlas (s : State) (a : W64) : List Nat := unitsOfRun s (saFla a) (max 1 (ceilDiv (64 * bits a.toNat 46 10) 4096))

/-- Every row of a slot is programmed. -/
def slotProgrammed (s : State) (a : W64) : Bool := (slotFlas s a).all (fun u => !(rowAt s (flaRow u)).openRow)

/-! ### Scan-form images (R184, R190, R192) -/

/-- A run is laid out at the next place that can take it, and its rows are programmed. -/
def layRun (s : State) (n : Nat) : State × Nat :=
  let lo := openRun s n (runBound s n) s.flash.slotCursor
  let t := programRows (claimRows s lo n) lo n
  ({ t with flash.slotCursor := max s.flash.slotCursor (runEnd s lo n) }, lo)

/-- The scan-form image of a block is programmed, under its collection's key pair with the FLA as tweak; the block that names it. -/
def programImage (s : State) (b : Block) : State × Block :=
  let (t, lo) := layRun s (imageUnits b.hdr)
  ({ t with flash.imgs := Tab.set none t.flash.imgs lo (some ⟨b.hdr, b.recs, ((s.coll (hCid b.hdr)).map (·.key)).getD [], lo⟩) },
   { b with img := some lo })

/-- The image of a block, deciphered: its collection's key pair is the one that it was written with (R192). -/
def imageUnder (s : State) (b : Block) : Option ScanImage :=
  (b.img.bind (Tab.get none s.flash.imgs)).filter (fun i => (s.coll (hCid b.hdr)).any (fun c => c.keyed && c.key = i.key))

/-- An image is freed when no block names it any more (R191). -/
def dropImage (s : State) (b : Block) : State :=
  match b.img with
  | none => s
  | some f =>
    if (s.corpus.blocks ++ s.flash.map.blocks).any (fun e => e.2.any (fun x => x.img = some f)) then s
    else { s with flash.imgs := Tab.set none s.flash.imgs f none }

end Sys2Proof.Machine
end

