-- ==== Sys2Proof/Machine/Command.lean ====
section
/-! DEFINITION. What the checks of every command share (12 R411-R413, Table 12.3): reserved fields, clearances, grants,
request envelopes, buffers, pins, and the hold of a passed command until the return to Run. -/

namespace Sys2Proof.Machine

/-! ## Clearances and grants (13 R439, R463-R466) -/

def allOnes4096 : BitVec 4096 := BitVec.allOnes 4096

/-- Read and write clearance of a command's queue: the session's, or OS_READ and OS_WRITE (R465), all ones on a module
without policy (R439). -/
def readClear (s : State) (session : BitVec 12) : BitVec 4096 :=
  if session = 0xFFF#12 then (s.warden.policy.map (·.osRead)).getD allOnes4096
  else ((s.session session.toNat).map (·.read)).getD 0
def writeClear (s : State) (session : BitVec 12) : BitVec 4096 :=
  if session = 0xFFF#12 then (s.warden.policy.map (·.osWrite)).getD allOnes4096
  else ((s.session session.toNat).map (·.write)).getD 0

def cleared (b : BitVec 4096) (attr : W64) : Bool := b.getLsbD (accessClass attr)

/-- A grant's flag (Table 13.8): READ 0, WRITE 1, PIN 2, PACED 3, PAYLOAD 4, STATS 5. An unsealed queue is bound by
none. -/
def grantFlag (s : State) (c : Cmd) (i : Nat) : Bool :=
  !c.isSealed || (s.session c.session.toNat).any (fun k => k.flags.getLsbD i)

/-- The grant names the collection (NCID 0: every one). -/
def grantNames (s : State) (c : Cmd) (cid : Nat) : Bool :=
  !c.isSealed || (s.session c.session.toNat).any (fun k => k.cids.isEmpty || k.cids.any (·.toNat = cid))

/-- An unsealed queue may not name a sealed collection (R468). -/
def mayName (s : State) (c : Cmd) (cid : Nat) : Bool := c.isSealed || !isSealedCid s cid

def policyFlag (s : State) (i : Nat) : Bool := s.warden.policy.any (fun p => p.flags.getLsbD i)
/-- The padding quantum (Table 13.3). -/
def padQuantum (s : State) : Nat := 2 ^ (8 + ((s.warden.policy.map (fun p => bits p.flags.toNat 8 4)).getD 0))

/-! ## Request envelopes (13 R459-R462) -/

/-- Open the request envelope at the command's address: its plaintext and SEQ. None is DENIED. -/
def openRequest (s : State) (c : Cmd) : State × Option (List Byte × Nat) :=
  match s.session c.session.toNat with
  | none => (s, none)
  | some k =>
    match s.read 2 c.addr c.len .clean with
    | (s, none) => (s, none)
    | (s, some bs) =>
      let seq := le bs 8 8
      let plen := le bs 16 4
      let aad := bs.take 24 ++ leBytes 1 c.opcode ++ leBytes 2 c.queue
      if le bs 0 4 = 0x56454E4B ∧ le bs 4 2 = c.session.toNat ∧ byteAt bs 6 = 0 ∧ k.seqIn < seq ∧ c.len = plen + 40
          ∧ plen % padQuantum s = 0 then
        match Config.gcmOpen k.keyIn (envNonce 0 seq) aad (bs.drop 24) with
        | none => (s, none)
        | some p => (s, some (p, seq))
      else (s, none)

/-- The envelope's SEQ is accepted and its plaintext kept with the command (R461). -/
def acceptRequest (s : State) (c : Cmd) (p : List Byte) (seq : Nat) : State × Cmd :=
  let c := { c with plain := some p, envSeq := seq }
  ((match s.session c.session.toNat with
    | none => s
    | some k => s.setSession c.session.toNat (some { k with seqIn := seq })).setCmd c, c)

/-! ## Buffers -/

/-- The QAU may reach every byte (R412 step 5). -/
def reachable (s : State) (a n : Nat) : Bool := (firstError s 2 a n).isNone && decide (a + n < 2 ^ 49)

/-! ## Pins (02 R55-R60) -/

def pinOwned (c : Cmd) (p : Pin) : Bool := p.queue = c.queue && p.session = c.session
def freePins (s : State) : Nat := 16 - (s.csn.pins.filter (·.2.held)).length
def defaultLease : Nat := 60000
def takePin (s : State) (c : Cmd) (n csn lease : Nat) : State :=
  s.setPin n ⟨true, csn, c.queue, c.session, lease, s.secs⟩

/-! ## The command at hand -/

/-- The oldest command of queue `q` that has been fetched and not yet checked, if it is what the row names. -/
def oldest (s : State) (q : Nat) (is : Cmd → Bool) : Option Cmd :=
  (s.qau.cmds.find? (fun c => c.queue = q && c.phase = .fetched)).filter is

/-- The module is entering, or is in, Poise, Rest or Hush, or protective Rest stops admission (12 R434, 15 R524). -/
def admissionStopped (s : State) : Bool :=
  s.pwr.entering || s.pwr.protect || decide (1 ≤ s.pwr.state ∧ s.pwr.state ≤ 3)

/-- A command that passed its checks waits for the return to Run (R434). -/
def holdForRun (s : State) (c : Cmd) : State := s.setCmd { c with phase := .powerHeld, delayed := true }

/-- FLAGS.DELAYED (R434). -/
def delayedFlag (c : Cmd) : Nat := if c.delayed then 0x80 else 0

/-- The command completes with its flags of DELAYED. -/
def finishD (s : State) (c : Cmd) (status r0 r1 : Nat) (body : List Byte) : State :=
  finish s c status r0 r1 (delayedFlag c) 0 body

end Sys2Proof.Machine
end

