-- ==== Sys2Proof/Machine/Settings.lean ====
section
/-! DEFINITION. The configuration registers, those with RWL fields (00 R14, R17): each write takes the fields that are
open, checks their ranges and changes nothing when one is out of range. Owner locks write through the same functions. -/

namespace Sys2Proof.Machine

/-- Which fields a write may change, by first bit and length. -/
abbrev Open := Nat → Nat → Bool

/-- The fields that software may write: those no owner lock in force touches (R17). -/
def softOpen (s : State) (dpa : Nat) : Open := openField s dpa

/-- A field of a written value, or its old value where it is not open. -/
def take (o : Open) (v lo len old : Nat) : Nat := if o lo len then bits v lo len else old

/-- A one-bit field. -/
def takeBit (o : Open) (v lo : Nat) (old : Bool) : Bool := if o lo 1 then bit v lo else old

/-- ALLOC_SIDEFILL (02 R45). -/
def putSidefill (o : Open) (v : Nat) (s : State) : State :=
  let u := take o v 0 8 s.alloc.urgentPct
  let b := take o v 8 8 s.alloc.busyPct
  if 50 ≤ u ∧ u ≤ 85 ∧ u + 5 ≤ b ∧ b ≤ 95 then { s with alloc.urgentPct := u, alloc.busyPct := b } else s

/-- REEL_CTL (04 R112). -/
def putReelCtl (o : Open) (v : Nat) (s : State) : State :=
  let p := take o v 16 16 s.reel.pauseMax
  let d := take o v 8 8 s.reel.dshare
  if 10 ≤ p ∧ p ≤ 500 ∧ d ≤ 25 then
    { s with reel.pauseMax := p, reel.dshare := d, reel.mode := takeBit o v 0 s.reel.mode }
  else s

/-- REEL_SLOTCFGn. -/
def putSlotCfg (n : Nat) (o : Open) (v : Nat) (s : State) : State :=
  { s with reel.cfg := Tab.mod 0xF#4 s.reel.cfg n (fun m => BitVec.ofNat 4 (take o v 0 4 m.toNat)) }

/-- Units of 256 GB of the backing store in use (06 R185). -/
def backUnits (s : State) : Nat :=
  let written := s.eng.ctxs.map (fun e => match e.2 with
    | none => 0
    | some x => (x.pages.map (fun p => if p.kind = 0 && p.writing && !p.backed then p.size else 0)).foldl (· + ·) 0)
  ceilDiv (s.flash.backingBytes + written.foldl (· + ·) 0) 256000000000
def engbackMax : Nat := if Config.isF48 then 16 else 32

/-- FCD_CFG (06 R185). The refine area is what the backing store leaves (Table 6.2), none less than 0 (log 34). -/
def putFcdCfg (o : Open) (v : Nat) (s : State) : State :=
  let n := take o v 0 8 s.flash.engback
  if 1 ≤ n ∧ n ≤ engbackMax ∧ backUnits s ≤ n then
    { s with flash.engback := n,
             flash.freeUnits := s.flash.freeUnits + s.flash.engback * 62500000 - n * 62500000 }
  else s

/-- Engines of half `h` with LAPOK set. -/
def lapokIn (s : State) (h : Nat) : Nat := ((List.range 24).filter (fun i => (s.engine (24 * h + i)).lapok)).length

/-- ENG_CTL of engine `e` (07 R256, R257). Clearing DRAIN makes the engine available again, but for one that is being updated
or was drained for good (14 R492). -/
def putEngCtl (e : Nat) (o : Open) (v : Nat) (s : State) : State :=
  let l := takeBit o v 1 (s.engine e).lapok
  let d := bit v 0 || (s.engine e).updating || (s.engine e).permanent
  let t := s.modEngine e (fun g => { g with lapok := l, drain := d, isDrained := g.isDrained && d })
  if (s.engine e).lapok && !l && decide (lapokIn t (e / 24) < 8) then s else t

/-- SCHED_CFG (11 R399). -/
def putSchedCfg (o : Open) (v : Nat) (s : State) : State :=
  let a := take o v 0 4 s.eng.resvA
  let b := take o v 4 4 s.eng.resvB
  if 1 ≤ a ∧ a ≤ 8 ∧ 1 ≤ b ∧ b ≤ 8 ∧ 8 + a ≤ lapokIn s 0 ∧ 8 + b ≤ lapokIn s 1 then
    { s with eng.resvA := a, eng.resvB := b }
  else s

/-- SCHED_QCLASSq. -/
def putQClass (q : Nat) (o : Open) (v : Nat) (s : State) : State :=
  { s with eng.floors := Tab.mod 0#2 s.eng.floors q (fun m => BitVec.ofNat 2 (take o v 0 2 m.toNat)) }

/-- The most that FREEMIN can be: 5 % of the pool's 64 KiB frames (11 MMU_CFG, 10 R566). -/
def freeMinMax (s : State) : Nat := poolBytes s / 65536 * 5 / 100

/-- MMU_CFG (11 R400). -/
def putMmuCfg (o : Open) (v : Nat) (s : State) : State :=
  let f := take o v 16 32 s.eng.freeMin
  let p := take o v 0 16 s.eng.preemptUs
  if 64 ≤ f ∧ f ≤ freeMinMax s ∧ 20 ≤ p ∧ p ≤ 5000 then { s with eng.freeMin := f, eng.preemptUs := p } else s

/-- The rail's set point in mV (15 R514). -/
def setPoint : Nat → Nat
  | 1 => 700
  | 2 => 800
  | _ => 750

/-- The rail after a change of set point: it follows from the old one, and stays where R513 or R514 has lowered it. -/
def railFor (s : State) (p : Nat) : Nat :=
  let r := s.pwr.railMv
  if 2 ≤ s.pwr.state then r
  else if r = setPoint s.pwr.opsel ∧ !s.pwr.hotHalf then setPoint p else min r (setPoint p)

/-- PWR_CFG (15 R531). -/
def putPwrCfg (o : Open) (v : Nat) (s : State) : State :=
  let c := take o v 16 12 s.pwr.capW
  let p := take o v 0 2 s.pwr.opsel
  if 1600 ≤ c ∧ c ≤ 2400 ∧ p ≠ 3 then { s with pwr.capW := c, pwr.opsel := p, pwr.railMv := railFor s p } else s

/-- PCIE_CFG (16 R551). -/
def putPcieCfg (o : Open) (v : Nat) (s : State) : State :=
  let n := take o v 32 11 s.links.qcount
  let b := take o v 16 10 s.links.qbase
  let g := take o v 2 2 s.links.maxGen
  if b + n ≤ 1024 ∧ g ≠ 3 then
    let on := takeBit o v 0 s.links.pcieOn
    { s with links.qcount := n, links.qbase := b, links.maxGen := g, links.pcieOn := on, links.pcieUp := on && s.links.pcieUp,
             links.pcieWidth := if on then s.links.pcieWidth else 0, links.pcieGen := if on then s.links.pcieGen else 0 }
  else s

/-- MGMT_CFG; IPV4 is RW. -/
def putMgmtCfg (o : Open) (v : Nat) (s : State) : State :=
  let ip := BitVec.ofNat 32 (bits v 32 32)
  let (d, t) := s.draw
  let s := if ip = s.links.ipv4 || s.links.mgmtRate = 0 then s
    else if ip = 0 then { t with links.mgmtAddr := BitVec.ofNat 32 d } else { s with links.mgmtAddr := ip }
  { s with links.ipv4 := ip, links.fullLock := takeBit o v 1 s.links.fullLock,
           links.warmLock := takeBit o v 0 s.links.warmLock }

/-- MOD_RST.LOCK; REQ is no field that holds a value. -/
def putRstLock (o : Open) (v : Nat) (s : State) : State := { s with mod.rstLock := takeBit o v 2 s.mod.rstLock }

/-- QAU_QCFGq.MAINT. -/
def putMaintBit (q : Nat) (o : Open) (v : Nat) (s : State) : State :=
  s.modQueue q (fun y => { y with maint := takeBit o v 1 y.maint })

/-! ## Owner locks (R17, 13 R446) -/

/-- The RWL fields of the register at block `blk`, offset `off`, take the bits of a value that `o` opens. -/
def putRwl (blk off : Nat) (o : Open) (v : Nat) (s : State) : State :=
  if blk = 0x00 ∧ off = 0x10 then putRstLock o v s
  else if blk = 0x01 ∧ 0x10000 ≤ off ∧ off < 0x20000 ∧ off % 0x40 = 0 then putMaintBit ((off - 0x10000) / 0x40) o v s
  else if blk = 0x02 ∧ off = 0 then putReelCtl o v s
  else if blk = 0x02 ∧ 0x100 ≤ off ∧ off < 0x200 then putSlotCfg ((off - 0x100) / 8) o v s
  else if blk = 0x04 ∧ off = 0x40 then putSidefill o v s
  else if 0x30 ≤ blk ∧ blk < 0x60 ∧ off = 8 then
    putEngCtl (blk - 0x30) o (setBits v 0 1 (b2n (s.engine (blk - 0x30)).drain)) s
  else if blk = 0x60 ∧ off = 0 then putMmuCfg o v s
  else if blk = 0x62 ∧ off = 0 then putSchedCfg o v s
  else if blk = 0x62 ∧ 0x1000 ≤ off ∧ off < 0x3000 then putQClass ((off - 0x1000) / 8) o v s
  else if blk = 0x70 ∧ off = 8 then putFcdCfg o v s
  else if blk = 0xA1 ∧ off = 0 then putPcieCfg o v s
  else if blk = 0xA2 ∧ off = 0 then
    putMgmtCfg o (setBits v 32 32 s.links.ipv4.toNat) s
  else if blk = 0xB0 ∧ off = 8 then putPwrCfg o v s
  else s

/-- The fields that a lock entry's mask touches. -/
def lockOpen (l : Lock) : Open := fun lo len => bits l.mask.toNat lo len ≠ 0

/-- Write the locked value of one entry into its fields. A value that the register's range rule refuses is not written (log 86). -/
def applyLock (s : State) (l : Lock) : State :=
  let x := l.dpa - 0x10000000000
  if l.dpa < 0x10000000000 ∨ x % 8 ≠ 0 then s else putRwl (x / 0x100000) (x % 0x100000) (lockOpen l) l.value.toNat s

/-- Write the locked values in the list's order, then lock the fields (R17; DESIGN CHOICE, log 86). -/
def applyLocks (s : State) (ls : List Lock) : State := { ls.foldl applyLock s with warden.locks := ls }

/-! ## Their rows -/

/-- 02 R45: ALLOC_SIDEFILL is written. -/
def execAllocSidefillWrite (v : W64) (s : State) : Host.Outcome State Fault Refusal :=
  .next (if blockOff s 0x04 then s else putSidefill (softOpen s (csrDpa 0x04 0x40)) v.toNat s)

/-- 04 R112: REEL_CTL is written. -/
def execReelCtlWrite (v : W64) (s : State) : Host.Outcome State Fault Refusal :=
  .next (if blockOff s 0x02 then s else putReelCtl (softOpen s (csrDpa 0x02 0)) v.toNat s)

/-- 06 R185: FCD_CFG is written. -/
def execFcdCfgWrite (v : W64) (s : State) : Host.Outcome State Fault Refusal :=
  .next (if blockOff s 0x70 then s else putFcdCfg (softOpen s (csrDpa 0x70 8)) v.toNat s)

/-- 11 R399: SCHED_CFG is written. -/
def execSchedCfgWrite (v : W64) (s : State) : Host.Outcome State Fault Refusal :=
  .next (if blockOff s 0x62 then s else putSchedCfg (softOpen s (csrDpa 0x62 0)) v.toNat s)

/-- 11 R400: MMU_CFG is written. -/
def execMmuCfgWrite (v : W64) (s : State) : Host.Outcome State Fault Refusal :=
  .next (if blockOff s 0x60 then s else putMmuCfg (softOpen s (csrDpa 0x60 0)) v.toNat s)

/-- 15 R531: PWR_CFG is written. -/
def execPwrCfgWrite (v : W64) (s : State) : Host.Outcome State Fault Refusal :=
  .next (putPwrCfg (softOpen s (csrDpa 0xB0 8)) v.toNat s)

/-- 16 R551: PCIE_CFG is written. -/
def execPcieCfgWrite (v : W64) (s : State) : Host.Outcome State Fault Refusal :=
  .next (if blockOff s 0xA1 then s else putPcieCfg (softOpen s (csrDpa 0xA1 0)) v.toNat s)

/-- 07 R256: ENG_CTL is written, DRAIN with it. -/
def execEngCtlDrain (e : EngineId) (v : W64) (s : State) : Host.Outcome State Fault Refusal :=
  .next (if blockOff s 0x30 then s else putEngCtl e.val (softOpen s (csrDpa (0x30 + e.val) 8)) v.toNat s)

/-- 07 R257: ENG_CTL is written, LAPOK with it. -/
def execEngCtlLapok (e : EngineId) (v : W64) (s : State) : Host.Outcome State Fault Refusal :=
  .next (if blockOff s 0x30 then s else putEngCtl e.val (softOpen s (csrDpa (0x30 + e.val) 8)) v.toNat s)

/-- Contexts saved, or that may yet be saved, under a microcode version that would lose its last engine (14 R492). -/
def strands (s : State) (e : Nat) : Bool :=
  let v := (s.engine e).ucode
  s.eng.ctxs.any (fun x => x.2.any (fun c => c.ucode = v && (c.saved || (match c.st with
    | .running _ => true
    | _ => false))))
  && !(List.range 48).any (fun k => k ≠ e && (s.engine k).ucode = v && !(s.engine k).drain && !(s.engine k).updating
    && !(s.engine k).permanent)

/-- A microcode update holds engine `e` (14 R492). -/
def updatesEngine (s : State) (e : Nat) : Bool :=
  s.maint.claims.any (fun c => c.2.any (fun k => k.state = 1 && (match k.act with
    | .update 1 u _ _ _ => u = e
    | .refetch 1 u => u = e
    | _ => false)))

/-- 07 R256: a draining engine that has nothing left to run is DRAINED; one that waits for an update enters UPDATING. -/
def execDrained (e : EngineId) (s : State) : Host.Outcome State Fault Refusal :=
  .next (if (s.engine e.val).drain && (s.engine e.val).work = .idle then
      s.modEngine e.val (fun g => { g with isDrained := true, updating := updatesEngine s e.val })
    else s)

end Sys2Proof.Machine
end

