-- ==== Sys2Proof/Machine/Owner.lean ====
section
/-! DEFINITION. What the warden keeps and checks for the other families (13 R442-R446, 14 R509, R510, 12 R424): the
calendar, the audit log, measurement registers, challenges, owner signatures; the checks and bodies of MAINT commands. -/

namespace Sys2Proof.Machine

/-! ## Calendar (14 R510) -/

/-- The wall estimate and its uncertainty now, in ms; none while the calendar is unset. -/
def wallNow (s : State) : Option (Nat × Nat) :=
  s.warden.calendar.map (fun c => (c.wall + (s.secs - c.setAt) * 1000, c.unc + (s.secs - c.setAt) / 20))

/-! ## Identity and measurements (13 R447, R451) -/

/-- The identity key's public part: that of the seed derived from the fused secret (Table 13.5). -/
def idKey : List Byte := leBytes 68 (Config.xmssPublic (rootKey "ID" [] 96)).toNat
/-- The module identity: the first 8 bytes of the identity key's digest (Table 13.7). -/
def moduleIdent : Nat := le (leBytes 32 (Config.shake256 idKey).toNat) 0 8

/-- MRi := SHAKE256(MRi, digest). -/
def extendMr (s : State) (i : Nat) (d : BitVec 256) : State :=
  { s with warden.mrs := Tab.mod 0 s.warden.mrs i (fun m => Config.shake256 (leBytes 32 m.toNat ++ leBytes 32 d.toNat)) }
def mrAt (s : State) (i : Nat) : BitVec 256 := Tab.get 0 s.warden.mrs i

/-! ## Audit log (R442) -/

/-- The 64 bytes of an entry; wall and uncertainty read all ones while the calendar is unset. -/
def AuditEnt.bytes (e : AuditEnt) : List Byte :=
  leBytes 8 e.boot ++ leBytes 8 e.seq ++ leBytes 8 e.wall ++ leBytes 4 e.unc ++ leBytes 4 e.type ++ leBytes 32 e.digest.toNat

/-- One entry more, and the chain over all entries extended (log 21). -/
def addAudit (s : State) (type : Nat) (digest : BitVec 256) : State :=
  let w := (wallNow s).getD (2 ^ 64 - 1, 2 ^ 32 - 1)
  let e : AuditEnt := ⟨s.life.boot, s.warden.auditSeq + 1, w.1, w.2, type, digest⟩
  { s with warden.audit := s.warden.audit ++ [e], warden.auditSeq := s.warden.auditSeq + 1,
           warden.auditHead := Config.shake256 (leBytes 32 s.warden.auditHead.toNat ++ e.bytes) }

/-- An entry whose TYPE and digest the spec does not give. -/
def addAuditFree (s : State) : State :=
  let (t, s) := s.draw
  let (d, s) := s.draw
  addAudit s (t % 2 ^ 32) (BitVec.ofNat 256 d)

/-- An entry with the digest of something that no event may name (13 R473, 14 R511): its TYPE is free (log 21). -/
def auditDigest (s : State) (bs : List Byte) : State :=
  addAudit s (Config.auditType s.warden.auditSeq).toNat (Config.shake256 bs)

/-- An event that names a collection: a sealed one's carries CID 0xFFFF, and the CID goes to the audit log as a digest only (14
R511). -/
def collEvent (s : State) (code src cid : Nat) : State :=
  if isSealedCid s cid then postM (auditDigest s (leBytes 2 cid)) code src noQueue 0xFFFF 0 0 else postM s code src noQueue cid 0 0

/-! ## Challenges and owner signatures (R442, R443) -/

/-- The DRBG's next 32 bytes. -/
def drbg32 (s : State) : List Byte × State :=
  (padTo 32 (Config.drbg s.warden.draws), { s with warden.draws := s.warden.draws + 1 })

/-- A challenge is unused and at most 60 s old. -/
def challengeLive (s : State) (c : BitVec 256) : Bool :=
  s.warden.challenges.any (fun e => e.1 = c && decide (s.secs - e.2 ≤ 60))

def dropChallenge (s : State) (c : BitVec 256) : State :=
  { s with warden.challenges := s.warden.challenges.filter (fun e => e.1 ≠ c) }

/-- The owner's signature over a message. -/
def ownerSigned (s : State) (msg sig : List Byte) : Bool :=
  match s.warden.owner with
  | none => false
  | some k => Config.xmssVerify k msg sig

/-- A signature over an outstanding challenge and `rest` by key `k`: the challenge it uses. -/
def usesChallenge (s : State) (k rest sig : List Byte) : Option (BitVec 256) :=
  (s.warden.challenges.find? (fun e => challengeLive s e.1 && Config.xmssVerify k (leBytes 32 e.1.toNat ++ rest) sig)).map (·.1)

/-! ## MAINT commands (12 R422-R424) -/

/-- The authorisation block of R424 behind a body of `n` bytes: the challenge it consumes. -/
def authBlock (s : State) (c : Cmd) (bs : List Byte) (n : Nat) : Option (BitVec 256) :=
  let b := bs.drop n
  let sig := b.drop 48
  let ch := BitVec.ofNat 256 (le b 16 32)
  let msg := ((b.drop 16).take 32) ++ leBytes 1 c.opcode ++ leBytes 2 c.subop ++ leBytes 2 c.hdrCid ++ bs.take n
  if 48 ≤ b.length ∧ le b 0 4 = 0x48545541 ∧ zeroAt b 8 8 ∧ le b 4 4 = sig.length ∧ challengeLive s ch
      ∧ ownerSigned s msg sig then some ch else none

/-- The MAINT command at the front of queue `q` with a subop. -/
def maintCmd (s : State) (q sub : Nat) : Option Cmd := oldest s q (fun c => c.opcode = opMaint && c.subop = sub)

/-- The body at DADDR: its bytes, or nothing where DLEN is 0; none where it is out of reach (first) or its read is
uncorrectable (second). -/
def maintBody (s : State) (c : Cmd) : State × Option (List Byte) × Bool :=
  if c.len = 0 then (s, some [], true)
  else if !reachable s c.addr c.len then (s, none, true)
  else match s.read 2 c.addr c.len .clean with
    | (s, none) => (s, none, false)
    | (s, some bs) => (s, some bs, true)

/-- What the admission of a MAINT command does; none where the command waits as it is (02 Table 2.6). -/
abbrev MaintRun := State → Cmd → List Byte → Option State

/-- PIN and PIN_USE of SAMPLE's byte 14 (12 Table 12.17). -/
def sPin (bs : List Byte) : Nat := byteAt bs 14 % 16
def sUsesPin (bs : List Byte) : Bool := bit (byteAt bs 14) 4

/-- The CSN that a SAMPLE naming a pin reads at, fixed as its check finds the pin (02 R58). -/
def pinnedCsn (s : State) (sub : Nat) (bs : List Byte) : Option Nat :=
  if sub = 0x0004 && sUsesPin bs then some (s.pinAt (sPin bs)).csn else none

/-- The checks that every MAINT shares, in Table 12.3's order: reserved bytes, the MAINT bit, owner authority behind a
body of the length that `authAt` gives (none: not needed), then `checks` on the body (statuses of steps 3 to 6), then the hold of R434 or
`run`. -/
def runMaint (s : State) (q sub : Nat) (authAt : List Byte → Option Nat)
    (checks : State → Cmd → List Byte → Bool → Option Nat) (run : MaintRun) : State :=
  let s0 := s
  match maintCmd s q sub with
  | none => s
  | some c =>
    if !stepOne c then fail s c stBadCmd
    else if !(s.queue q).maint then fail s c stDenied
    else
      let (s, body, readOk) := maintBody s c
      let bs := body.getD []
      let ok := body.isSome && (c.rlen = 0 || reachable s c.raddr c.rlen)
      let auth := match authAt bs with
        | none => some (none, bs)
        | some n => (authBlock s c bs n).map (fun ch => (some ch, bs.take n))
      match auth with
      | none => fail s c stDenied
      | some (ch, bs) =>
        let s := match ch with
          | none => s
          | some ch => dropChallenge s ch
        if !readOk then fail s c stFault
        else match checks s c bs ok with
          | some st => fail s c st
          | none =>
            let c := { c with body := bs, adm := pinnedCsn s sub bs }
            if admissionStopped s then holdForRun s c else (run s c bs).getD s0

/-- With policy flag RELEASE a sealed session's completion is held to its bound; one ready later is counted in the audit log as an
overrun (13 R471). Time within the model is free: whether it was late is drawn (log 17). -/
def noteRelease (s : State) (c : Cmd) : State :=
  if c.isSealed && policyFlag s 2 then
    let (late, s) := s.draw
    if late % 2 = 1 then addAuditFree s else s
  else s

end Sys2Proof.Machine
end

