-- ==== Sys2Proof/Machine/Search.lean ====
section
/-! DEFINITION. SEARCH and RANGE from their checks to the Reel slot (12 R413-R417, 04 R105, R110, 11 R397, R398,
07 R246). -/

namespace Sys2Proof.Machine

/-! ## The request -/

/-- What a SEARCH or RANGE names, from the command or from its envelope (12 Table 12.4, 13 Table 13.11): CID, bytes
16-31, extension block, length of the query block, its bytes. -/
structure SearchReq where
  cid : Nat
  b16 : List Byte
  ext : Option (List Byte)
  blockLen : Nat
  block : List Byte
  rlen : Nat
  shaped : Bool
  deriving DecidableEq, Repr

namespace SearchReq

def k (r : SearchReq) : Nat := le r.b16 0 2
def wField (r : SearchReq) : Nat := le r.b16 2 2
def threshold (r : SearchReq) : Int := toSigned 32 (le r.b16 0 4)
def metric (r : SearchReq) : Nat := byteAt r.b16 4
def refineEnc (r : SearchReq) : Nat := byteAt r.b16 5
def cr (r : SearchReq) : Nat := byteAt r.b16 6
def pin (r : SearchReq) : Nat := byteAt r.b16 7 % 16
def beta (r : SearchReq) : Nat := le r.b16 8 4
def rw' (r : SearchReq) : Nat := le r.b16 12 2
def dim (r : SearchReq) : Nat := le r.b16 14 2
def handle (r : SearchReq) (i : Nat) : Nat := (r.ext.map (fun x => le x (4 * i) 4)).getD 0
def budget (r : SearchReq) (i : Nat) : Nat :=
  let b := (r.ext.map (fun x => le x (12 + 2 * i) 2)).getD 0
  if b = 0 then 1024 else b
def pred (r : SearchReq) : List W32 := (chunksOf 4 32 r.block).map (BitVec.ofNat 32)
def query (r : SearchReq) : List W32 := (chunksOf 4 r.dim (r.block.drop 128)).map (BitVec.ofNat 32)

end SearchReq

/-- The request of an unsealed queue's command; the second component is false where a buffer is out of reach, the third
where a read is uncorrectable. -/
def plainReq (s : State) (c : Cmd) : State × SearchReq × Bool × Bool :=
  let xaddr := le c.bytes 56 8
  let okQ := reachable s c.addr c.len
  let okX := xaddr = 0 || reachable s xaddr 64
  let base : SearchReq := ⟨c.hdrCid, (c.bytes.drop 16).take 16, none, c.len, [], c.rlen, true⟩
  let (s, x) := if xaddr = 0 || !okX then (s, some none) else
    let (s, y) := s.read 2 xaddr 64 .clean
    (s, y.map some)
  let (s, q) := if okQ then s.read 2 c.addr c.len .clean else (s, some [])
  match q, x with
  | some q, some x => (s, { base with ext := x, block := q }, okQ && okX, true)
  | _, _ => (s, base, okQ && okX, false)

/-- The request inside an envelope (13 Table 13.11). -/
def sealedReq (c : Cmd) (p : List Byte) : SearchReq :=
  let n := le p 2 4
  { cid := le p 0 2, b16 := (p.drop 16).take 16, ext := some ((p.drop 32).take 64), blockLen := n,
    block := (p.drop 96).take n, rlen := c.rlen - 72,
    shaped := zeroAt p 6 10 && decide (96 + n ≤ p.length) && searchReserved c.opcode ((p.drop 16).take 16) }

/-! ## Checks (Table 12.3, R413-R417) -/

def firstFail : List (Bool × Nat) → Option Nat
  | [] => none
  | (bad, st) :: t => if bad then some st else firstFail t

/-- The collection as admission CSN `a` finds it (02 R27). -/
def collAt (s : State) (cid a : Nat) : Option Coll :=
  (s.coll cid).filter (fun c => match c.destroyed with
    | none => true
    | some x => decide (a < x))

/-- W as it stands: 0 is the larger of 256 and K (R413). -/
def effW (c : Cmd) (r : SearchReq) : Nat :=
  if c.cflag 0 then (if r.wField = 0 then max 256 r.k else r.wField) else 0

/-- N of a partial list (05 R174). -/
def partialN (c : Cmd) (r : SearchReq) : Nat :=
  if c.opcode = opRange then 65536 else if c.cflag 0 then effW c r else r.k

/-- The least RLEN (R417). -/
def minRlen (c : Cmd) (r : SearchReq) : Nat :=
  let base := if c.opcode = opRange then 1048832 else 256 + 16 * r.k
  let pay := if c.cflag 3 then base + 64 * ceilDiv (8 * r.k) 64 + 4096 * r.k else base
  if c.cflag 2 then max pay (8416 + 24 * partialN c r) else pay

/-- The approval that a list gives a handle. -/
def approvedIn (as : List Approval) (handle kind : Nat) (sealedNeeded : Bool) : Option Approval :=
  as.find? (fun a => a.handle.toNat = handle && a.kind = kind && handle ≠ 0 && (!sealedNeeded || a.sealedOk))

/-- The approval that a handle names, for a kind and a session (13 R446, Table 13.4). -/
def approved (s : State) (handle kind : Nat) (sealedNeeded : Bool) : Option Approval :=
  s.warden.policy.bind (fun p => approvedIn p.approvals handle kind sealedNeeded)

/-- A stage program named and not approved (07 R236). -/
def unapproved (s : State) (c : Cmd) (r : SearchReq) : Bool :=
  (List.range 3).any (fun i => r.handle i ≠ 0 && (approved s (r.handle i) (i + 1) c.isSealed).isNone)

/-- The grant of a sealed session allows the SEARCH or RANGE: the collection it names and every operation its flags ask for
(13 R463, Table 13.9). A plain queue may name no sealed collection (13 R468). -/
def searchGranted (s : State) (c : Cmd) (r : SearchReq) : Bool :=
  mayName s c r.cid && grantNames s c r.cid && grantFlag s c 0 && (!(c.cflag 5 || c.cflag 6) || grantFlag s c 2)
    && (!c.cflag 3 || grantFlag s c 4)

/-- Step 2: session rights and pin ownership. -/
def searchAuthority (s : State) (c : Cmd) (r : SearchReq) : Bool :=
  let p := s.pinAt r.pin
  searchGranted s c r && !((c.cflag 5 || c.cflag 6) && p.held && !pinOwned c p)

/-- Steps 4 and 5 for a collection. -/
def searchChecks (s : State) (c : Cmd) (r : SearchReq) (x : Coll) (bufOk : Bool) : List (Bool × Nat) :=
  let rng := c.opcode = opRange
  let p := x.params
  let w := effW c r
  let enc := r.handle 0 ≠ 0
  [ (r.dim ≠ p.dim, stDimRange),
    (!enc && r.blockLen ≠ 128 + 4 * p.dim, stDimRange),
    (!r.shaped, stBadCmd),
    (r.metric ≠ p.metric, stBadCmd),
    (!rng && r.refineEnc ≠ p.refineEnc, stBadCmd),
    (rng && (c.cflag 0 || c.cflag 3), stBadCmd),
    (!rng && !decide (1 ≤ r.k ∧ r.k ≤ 1024), stBadCmd),
    (!rng && !c.cflag 0 && r.wField ≠ 0, stBadCmd),
    (!rng && c.cflag 0 && !decide (1 ≤ w ∧ w ≤ 4096 ∧ r.k ≤ w), stBadCmd),
    (c.cflag 3 && !c.cflag 0, stBadCmd),
    (c.cflag 5 && c.cflag 6, stBadCmd),
    (c.cflag 5 && !(s.pinAt r.pin).held, stBadCmd),
    (r.rw' ≠ 0 && r.handle 2 = 0, stBadCmd),
    (r.handle 2 ≠ 0 && (rng || !c.cflag 0 || !decide (r.k ≤ r.rw' ∧ r.rw' ≤ w)), stBadCmd),
    (decide (r.rlen < minRlen c r), stBadCmd),
    (!bufOk || !reachable s c.raddr c.rlen, stBadCmd),
    ((r.ext.map (fun e => !zeroAt e 16 48)).getD false, stBadCmd),
    (enc && !decide (129 ≤ r.blockLen ∧ r.blockLen ≤ 128 + 1048576), stBadCmd),
    (!predCheck (p.format = 0) r.pred 0 true, stBadCmd),
    (!enc && (prepareQuery p.metric r.query).isNone, stBadCmd),
    (unapproved s c r, stDenied) ]

/-- Step 6 and the pin checks that the return to Run repeats (R413, R563, R570). -/
def searchLimits (s : State) (c : Cmd) (cid : Nat) (pinTake : Option Nat) : Option Nat :=
  firstFail [
    (pinTake.any (fun n => (s.pinAt n).held && !pinOwned c (s.pinAt n)), stDenied),
    (pinTake.any (fun n => (s.pinAt n).held), stBusy),
    (!(s.coll cid).any (fun x => x.searchable && !x.flashOnly), stBusy) ]

/-- Reel class (11 R398). -/
def floorOf (s : State) (q : Nat) : Nat := (Tab.get 0 s.eng.floors q).toNat

/-- BOUND_US of a report (15 R517). -/
def boundFor (s : State) (w : Nat) (payload : Bool) : Nat :=
  500 * ceilDiv (s.pwr.bound + 1000 * ((w - 256) + (if payload then 400 else 0))) 500000

/-- The command asks for PACED, or its grant or the policy requires it of a sealed session (13 R470). -/
def wantsPaced (s : State) (c : Cmd) : Bool := c.cflag 4 || (c.isSealed && (policyFlag s 1 || grantFlag s c 3))

/-- The work of a command that passed its checks; the admission CSN, the generations, the clearance (13 R464) and BOUND_US are
taken at admission. -/
def searchJob (s : State) (c : Cmd) (r : SearchReq) (x : Coll) : SearchJob :=
  let rng := c.opcode = opRange
  { ctx := { cid := BitVec.ofNat 16 r.cid, adm := 0, range := rng, statsFull := c.cflag 1, sealed := c.isSealed,
             paced := wantsPaced s c, params := x.params, gens := [], pred := r.pred, clear := 0,
             theta0 := if rng then r.threshold else -2147483647, beta := r.beta, k := r.k, w := effW c r,
             refine := c.cflag 0, query := [] },
    pinTake := if c.cflag 6 then some r.pin else none, partialList := c.cflag 2, withPayload := c.cflag 3, cr := r.cr,
    rw := r.rw', encodeProg := BitVec.ofNat 32 (r.handle 0), lutProg := BitVec.ofNat 32 (r.handle 1),
    rerankProg := BitVec.ofNat 32 (r.handle 2), encodeBudget := r.budget 0, rerankBudget := r.budget 1,
    input := r.block.drop 128, raddr := BitVec.ofNat 64 c.raddr, rlen := c.rlen,
    rclass := max c.class' (floorOf s c.queue), gens := [], waits := false, queryF := if r.handle 0 = 0 then r.query else [],
    clipN := 0, clipD := 0, lutDone := false, slot := none, result := [], tally := Tally.zero, total := 0, tiesN := 0,
    scanTies := 0, scored := [], awaiting := 0, integ := false, dupInc := false, allPaced := true, final := [],
    payloads := [], offsetRead := false, boundUs := 0, encUnits := 0, rrUnits := 0, sideSources := [], aborted := false, order := 0, approvals := [] }

/-! ## The Reel slot (04 R105, R106, R110) -/

/-- The Reel runs PACED (04 R132): MODE is 1, or an active slot requires it. -/
def pacedReq (s : State) : Bool := s.reel.slots.any (fun e => e.2.busy && e.2.loaded && e.2.ctx.any (·.paced))
def reelPaced (s : State) : Bool := s.reel.mode || pacedReq s

/-- A search of a collection is under way. -/
def searching (s : State) (cid : Nat) : Bool :=
  s.qau.cmds.any (fun c => match c.job with
    | .search j => j.ctx.cid.toNat = cid
    | _ => false)

/-- LIVE blocks of a Weevil in ascending header index: its ring. What a search still scans stays in it (14 R504). -/
def ring (s : State) (w : Nat) : List (Nat × Block) :=
  s.corpus.blocks.filterMap (fun e =>
    if keyWeevil e.1 = w then e.2.bind (fun b =>
      if hLive b.hdr && (!isFlashOnly s (hCid b.hdr) || searching s (hCid b.hdr)) then some (keyIndex e.1, b) else none) else none)

/-- A slot needs a block of Weevil `w` (04 R107). -/
def needsBlock (s : State) (w : Nat) (x : SlotCtx) (b : Block) : Bool :=
  hCid b.hdr = x.cid.toNat && weevilAdmits s w b.hdr x.adm

/-- A Weevil holds no block that keeps the slot on it (04 R106). -/
def leavesAtOnce (s : State) (w : Nat) (x : SlotCtx) (paced : Bool) : Bool :=
  let r := ring s w
  r.isEmpty || (!paced && !r.any (fun b => needsBlock s w x b.2))

/-- u(s) of 05 R170. -/
def binOf (beta : Nat) (score : Int) : Int := (beta : Int) * score / 1048576

/-- What STATS word `w` of a source carries (05 Table 5.2): SUM, SUMSQ, or three counts of the window below u(max_local). -/
def Tally.word (t : Tally) (beta w : Nat) : Tally :=
  if w = 0 then { Tally.zero with sum := toSigned 64 (ofSigned 64 t.sum) }
  else if w = 1 then { Tally.zero with sumsq := t.sumsq % 2 ^ 96 }
  else { Tally.zero with
    max := t.max
    hist := (t.hist.filter (fun e => let i := binOf beta t.max - e.1
      decide (3 * ((w : Int) - 2) ≤ i ∧ i ≤ 3 * ((w : Int) - 2) + 2))).map (fun e => (e.1, e.2 % 2 ^ 32)) }

/-- What a LEAVE carries (05 Tables 5.1, 5.2). -/
def Tally.left (t : Tally) : Tally :=
  { Tally.zero with elig := t.elig % 2 ^ 32, visclr := t.visclr % 2 ^ 32, owed := t.owed % 2 ^ 16, max := t.max }

/-- Entries that a Weevil's output buffer holds (05 R150). -/
def outLimit : Nat := 512

/-- Waiting emissions take the places free in the output buffer, in order. -/
def Weevil.fill (v : Weevil) : Weevil :=
  { v with out := v.out ++ v.waiting.take (outLimit - v.out.length), waiting := v.waiting.drop (outLimit - v.out.length) }

/-- A Weevil emits: what finds no place in the output buffer waits, and the walk with it (05 R151, log 91). -/
def Weevil.emit (v : Weevil) (es : List Entry) : Weevil := Weevil.fill { v with waiting := v.waiting ++ es }

/-- A source sends its 344 STATS words, for a slot with full statistics, and its LEAVE (05 R147, R171). -/
def leaveEntries (n : Nat) (x : SlotCtx) (t : Tally) : List Entry :=
  (if x.statsFull then (List.range 344).map (fun w => .stats n w (t.word x.beta w)) else []) ++ [.leave n t.left]

/-- The slot begins on a Weevil: loaded; in a ring that holds nothing for it, it leaves at once (04 R105, R106). A Weevil
set to pass-through takes no part: its LEAVE is taken as given (14 R501). One whose stack does not answer counts as having left,
with every needed block owed (14 R503). -/
def loadOn (s : State) (n w : Nat) (x : SlotCtx) (paced : Bool) : State :=
  let fresh : WSlot := { WSlot.free with phase := 1, theta := x.theta0, allPaced := paced }
  s.modWeevil w (fun v =>
    if v.passThrough then { v with wslots := Tab.set WSlot.free v.wslots n { fresh with phase := 3 } }
    else if !(s.ctl (w / 32)).answering then
      let owed := ((ring s w).filter (fun b => needsBlock s w x b.2)).map (·.1)
      let t := { Tally.zero with owed := owed.length, integ := !owed.isEmpty }
      Weevil.emit { v with wslots := Tab.set WSlot.free v.wslots n { fresh with phase := 3, owed := owed, tally := t } }
        (leaveEntries n x t)
    else if !v.paused && leavesAtOnce s w x paced then
      Weevil.emit { v with wslots := Tab.set WSlot.free v.wslots n { fresh with phase := 3 } } (leaveEntries n x Tally.zero)
    else { v with wslots := Tab.set WSlot.free v.wslots n fresh })

/-- The scheduler loads slot `n` into all 256 Weevils and into the members of its lap group (04 R105, 07 R247). -/
def loadSlot (s : State) (n : Nat) (c : Cmd) (j : SearchJob) : State :=
  let s := s.modSlot n (fun r => { r with loaded := true, ctx := some j.ctx })
  let s := s.setCmd { c with phase := .inSlot, job := .search { j with lutDone := true } }
  let paced := reelPaced s
  let s := (List.range 256).foldl (fun s w => loadOn s n w j.ctx paced) s
  j.sideSources.foldl (fun s e => s.modEngine e (fun g =>
    { g with lapSlots := Tab.set WSlot.free g.lapSlots n
               { WSlot.free with phase := 1, theta := j.ctx.theta0, allPaced := paced } })) s

/-- The slot's LUTs are built: it is loaded, or waits for a slot. -/
def lutReady (s : State) (c : Cmd) (j : SearchJob) : State :=
  match j.slot with
  | some n => loadSlot s n c j
  | none => s.setCmd { c with phase := .waitSlot, job := .search { j with lutDone := true } }

/-! ## Lap groups (07 R246, R251) -/

/-- Issued side entries of a collection. -/
def issuedSides (s : State) (cid : Nat) : Nat :=
  (s.corpus.sides.filter (fun e => e.2.any (fun x =>
    x.cid.toNat = cid && decide (resolveFrom s x.fromCsn.toNat x.fromRef.toNat ≠ ones64)))).length

def groupSize (n : Nat) : Nat := min 8 (max 1 (ceilDiv n 400000))

def Engine.free (g : Engine) : Bool := g.work = .idle && !g.drain && !g.updating && !g.isDrained

/-- The class of what an engine runs. -/
def engClass (s : State) (g : Engine) : Nat :=
  match g.work with
  | .context c => ((s.ctx c).map (·.cls)).getD 3
  | .lutStd _ => 0
  | .stage _ => 0
  | .lap _ => 0
  | .encode _ => 1
  | .test _ => 3
  | .idle => 3

/-- An engine counts for the reserve of its half: idle, or running a class 0 stage (11 R395). -/
def inReserve (s : State) (e : Nat) : Bool :=
  let g := s.engine e
  g.free || (match g.work with
    | .lutStd _ => true
    | .context c => (s.ctx c).any (fun x => x.cls = 0)
    | _ => false)

def reserveOf (s : State) (h : Nat) : Nat := if h = 0 then s.eng.resvA else s.eng.resvB

/-- Enough engines of this half stay in reserve without engine `e` and those of `taken`. -/
def reserveHolds (s : State) (e : Nat) (taken : List Nat) : Bool :=
  decide (reserveOf s (e / 24) ≤ ((List.range 24).filter (fun i =>
    let k := 24 * (e / 24) + i
    k ≠ e && !taken.contains k && inReserve s k)).length)

/-- Idle engines that may take a lap (07 R246), in ascending order: those that the reserve leaves (11 R395). -/
def lapIdle (s : State) : List Nat :=
  (List.range 48).foldl (fun l e => if (s.engine e).lapok && (s.engine e).free && reserveHolds s e l then l ++ [e] else l) []

/-- An engine runs a program of classes 1-3, a context or insert encoding, that a lap may pre-empt (11 R396). -/
def lapPreemptible (s : State) (e : Nat) : Bool :=
  let g := s.engine e
  g.lapok && !g.drain && (match g.work with
    | .context _ => decide (1 ≤ engClass s g)
    | .encode _ => true
    | .test _ => true
    | _ => false)

/-- Live windows of the context on an engine. -/
def liveWindows (s : State) (e : Nat) : Nat :=
  match (s.engine e).work with
  | .context c => ((s.ctx c).map (fun x => ((List.range 48).filter (x.live.getLsbD ·)).length)).getD 0
  | _ => 0

/-- Engines to pre-empt, in the order of R396: highest class, then fewest live windows, then lowest number. -/
def victims (s : State) (es : List Nat) : List Nat :=
  sortBy (fun a b =>
    let ca := engClass s (s.engine a)
    let cb := engClass s (s.engine b)
    decide (cb < ca) || (ca = cb && decide (liveWindows s a < liveWindows s b))) es

/-- A pre-emption order waits for a save slot (11 R388, R389): for how long no rule says (log 5); SCHED_STAT counts it. -/
def waitSave (s : State) : State :=
  let (us, s) := s.draw
  { s with eng.slotWait := satAdd 16 s.eng.slotWait us }

/-- Work that was on an engine waits for one again, in the place of its request (11 R397). -/
def returnWork (s : State) (w : Work) : State :=
  { s with eng.work := insertBy (fun a b => decide (a.req < b.req)) w s.eng.work }

/-- The context on an engine is saved: queued operations stay, the engine is free (11 R387). It waits for an engine
ahead of the work of its class requested after it (R397). -/
def saveContext (s : State) (e : Nat) : State :=
  match (s.engine e).work with
  | .context c =>
    match s.ctx c with
    | none => s
    | some x =>
      let r := (s.engine e).req
      let s := s.modCtx c (fun x => { x with saved := true, st := match x.st with
        | .running _ => (match x.pageAt with
            | some _ => .pageWait
            | none => .saved)
        | y => y })
      let s := s.modEngine e (fun g => { g with work := .idle })
      returnWork { s with eng.preempts := satAdd 16 s.eng.preempts 1 } ⟨x.cls, 0, .context c, r⟩
  | _ => s

/-- The activity is the self-test of an engine. -/
def Activity.isTest : Activity → Bool
  | .selftest 3 _ _ => true
  | _ => false

/-- The self-test of an engine pauses as other work takes its engine, or resumes on it (12 R437). -/
def markTest (s : State) (n : Nat) (paused : Bool := true) : State :=
  { s with maint.claims := Tab.mapAll none (fun e => e.map (fun c =>
      if c.act.isTest && c.cmd = n then { c with state := if paused || !c.pausedBy.isEmpty then 2 else 1 } else c)) s.maint.claims }

/-- The insert encoding on an engine is pre-empted: the engine is free, and the batch waits for an engine again, ahead of the
work of its class requested after it (11 R397). -/
def saveEncode (s : State) (e : Nat) : State :=
  match (s.engine e).work with
  | .encode n =>
    let r := (s.engine e).req
    let s := match s.cmd n with
      | some c => if c.phase = Phase.encoding then s.setCmd { c with phase := .waitEncode } else s
      | none => s
    let s := s.modEngine e (fun g => { g with work := .idle })
    returnWork { s with eng.preempts := satAdd 16 s.eng.preempts 1 } ⟨1, n, .encode n, r⟩
  | .test n =>
    let r := (s.engine e).req
    returnWork (markTest (s.modEngine e (fun g => { g with work := .idle })) n) ⟨3, n, .test n, r⟩
  | _ => saveContext s e

/-- The engines `ms` become a group of their own for slot `n`; what they ran is saved (R246). -/
def formGroup (s : State) (cid n : Nat) (ms : List Nat) : State :=
  let s := ms.foldl (fun s e => if (s.engine e).work = .idle then s else saveEncode (waitSave s) e) s
  let g : LapGroup := ⟨s.eng.nextGroup, BitVec.ofNat 16 cid, ms, [n]⟩
  let s := { s with eng.groups := s.eng.groups ++ [g], eng.nextGroup := s.eng.nextGroup + 1 }
  ms.foldl (fun s e => s.modEngine e (fun x => { x with work := .lap g.id, chunkPos := 0 })) s

/-- The group that slot `n` of a collection joins, formed now if needed: none while too few engines are free to it. A group with
a member that drains or whose LAPOK is clear admits no more slots (R251, R257). -/
def joinGroup (s : State) (cid n : Nat) : Option (State × List Nat) :=
  let open' := s.eng.groups.find? (fun g =>
    g.cid.toNat = cid && !g.members.any (fun e => (s.engine e).drain || !(s.engine e).lapok))
  match open' with
  | some g =>
    some ({ s with eng.groups := s.eng.groups.map (fun h =>
      if h.id = g.id then { h with slots := h.slots ++ [n] } else h) }, g.members)
  | none =>
    let need := groupSize (issuedSides s cid)
    let idle := lapIdle s
    let pre := victims s ((List.range 48).filter (lapPreemptible s))
    let ms := (idle ++ pre).take need
    if ms.length < need then none
    else
      some (formGroup s cid n ms, ms)

/-- Entries of slot `n`. -/
def Entry.slotNo : Entry → Nat
  | .cand n _ => n
  | .stats n _ _ => n
  | .leave n _ => n

/-- Slot `n` is in none of the groups that `p` picks; a group with no slot left dissolves, and its members are idle (07 R251). -/
def dropFromGroups (s : State) (p : LapGroup → Bool) (n : Nat) : State :=
  let cut (g : LapGroup) : LapGroup := if p g then { g with slots := g.slots.filter (· ≠ n) } else g
  let done := s.eng.groups.filter (fun g => (cut g).slots.isEmpty)
  { s with
    eng.engines := Tab.mapAll Engine.initial (fun g =>
      { g with work := if done.any (fun d => g.work = .lap d.id) then .idle else g.work }) s.eng.engines
    eng.groups := (s.eng.groups.map cut).filter (fun g => !g.slots.isEmpty) }

/-- A slot is over: every Weevil and lap member clears it, its entries not yet at a selector are discarded (04 R109), its
group is dissolved once empty (07 R251), the selectors and the Reel free it. -/
def clearSlot (s : State) (n : Nat) : State :=
  let keep (es : List Entry) : List Entry := es.filter (fun e => e.slotNo ≠ n)
  let s := dropFromGroups s (fun _ => true) n
  { s with
    reel.weevils := Tab.mapAll Weevil.initial (fun v =>
      Weevil.fill { v with wslots := Tab.set WSlot.free v.wslots n WSlot.free, out := keep v.out, waiting := keep v.waiting })
      s.reel.weevils
    eng.engines := Tab.mapAll Engine.initial (fun g =>
      { g with lapSlots := Tab.set WSlot.free g.lapSlots n WSlot.free, out := keep g.out }) s.eng.engines
    reel.slots := Tab.set ReelSlot.free s.reel.slots n ReelSlot.free
    sel.halves := Tab.set SelSlot.empty (Tab.set SelSlot.empty s.sel.halves n SelSlot.empty) (32 + n) SelSlot.empty
    sel.sent := Tab.set none s.sel.sent n none
    sel.scanEnts := s.sel.scanEnts.filter (fun e => e.1 % 32 ≠ n) }

/-! ## Slot admission (11 R398) -/

/-- A command waits for a Reel slot. -/
def Cmd.waitsSlot (c : Cmd) : Option SearchJob :=
  match c.job, c.phase with
  | .search j, .waitEngine .encode => if j.slot.isNone then some j else none
  | .search j, .inStage .encode => if j.slot.isNone then some j else none
  | .search j, .waitEngine .lut => if j.slot.isNone then some j else none
  | .search j, .inStage .lut => if j.slot.isNone then some j else none
  | .search j, .waitSlot => if j.slot.isNone then some j else none
  | _, _ => none

/-- Waiting commands in order of class and then of admission. -/
def slotWaiters (s : State) : List (Cmd × SearchJob) :=
  sortBy (fun a b => decide (a.2.rclass < b.2.rclass) || (a.2.rclass = b.2.rclass && decide (a.2.order < b.2.order)))
    (s.qau.cmds.filterMap (fun c => c.waitsSlot.map (fun j => (c, j))))

def classMask (s : State) (n : Nat) : BitVec 4 := Tab.get 0xF s.reel.cfg n

/-! ## Admission of a search (01 R21, 02 R40) -/

/-- Engine work of a class waits in the order of its request (11 R397). -/
def addWork (s : State) (cls cmd : Nat) (w : EngWork) : State :=
  { s with eng.work := s.eng.work ++ [⟨cls, cmd, w, s.eng.nextReq⟩], eng.nextReq := s.eng.nextReq + 1 }

/-- Ask for the LUT stage. -/
def askLut (s : State) (c : Cmd) (j : SearchJob) : State :=
  addWork (s.setCmd { c with phase := .waitEngine .lut, job := .search j }) 0 c.seq
    (if j.lutProg = 0 then .lutStd c.seq else .stage c.seq)

/-- One of R21's three conditions fails: no free slot admits the class, the slots are withheld, or the engines of the lap group
are not free. -/
def slotWaits (s : State) (cid rclass : Nat) : Bool :=
  !(List.range 32).any (fun n => !(s.slot n).busy && (classMask s n).getLsbD rclass)
    || s.pwr.withheld || (decide (issuedSides s cid ≠ 0) && (joinGroup s cid 0).isNone)

/-- Admission (02 R40, R58, 03 R89): the admission CSN and the set of live generations in one action, the pin taken, the clearance
fixed (13 R464), the latency bound noted (12 Table 12.5), and the first stage asked for. -/
def admitSearch (s : State) (c : Cmd) (j : SearchJob) : State :=
  let a := c.adm.getD s.csn.current
  let gens := ((s.coll j.ctx.cid.toNat).map (liveGens s j.ctx.cid.toNat)).getD []
  let waits := slotWaits s j.ctx.cid.toNat j.rclass
  let s := match j.pinTake with
    | none => s
    | some n => takePin s c n a defaultLease
  let c := { c with adm := some a }
  let j := { j with ctx.adm := a, ctx.paced := wantsPaced s c, ctx.clear := readClear s c.session, gens := gens, waits := waits,
                    approvals := (s.warden.policy.map (·.approvals)).getD [],
                    boundUs := boundFor s j.ctx.w j.withPayload, order := s.qau.admitted }
  let s := { s with qau.admitted := s.qau.admitted + 1 }
  if j.encodeProg == 0 then askLut s c j
  else addWork (s.setCmd { c with phase := .waitEngine .encode, job := .search j }) 1 c.seq (.stage c.seq)

/-- A SEARCH or RANGE that has its request: steps 2 to 6, then admission or the hold of R434. What the grant
does not allow is denied inside the envelope as well (13 R463), another owner's pin in the outer completion (12 R427). A pin used fixes
the admission CSN at step 5 (02 R58). -/
def checkSearch (s : State) (c : Cmd) (r : SearchReq) (bufOk readOk : Bool) : State :=
  let a := if c.cflag 5 && (s.pinAt r.pin).held then (s.pinAt r.pin).csn else s.csn.current
  if !searchGranted s c r then denyInside s c
  else if !searchAuthority s c r then fail s { c with plain := none } stDenied
  else match collAt s r.cid a with
    | none => fail s c stNoCollection
    | some x =>
      if !readOk then fail s c stFault
      else match firstFail (searchChecks s c r x bufOk) with
        | some st => fail s c st
        | none =>
          let j := searchJob s c r x
          match searchLimits s c r.cid j.pinTake with
          | some st => fail s c st
          | none =>
            let c := { c with adm := if c.cflag 5 then some a else none, job := .search j }
            if admissionStopped s then holdForRun s c else admitSearch s c j

/-- The row's meaning for the oldest fetched command of `q`, a SEARCH or a RANGE. -/
def runSearch (s : State) (q op : Nat) : State :=
  match oldest s q (fun c => c.opcode = op) with
  | none => s
  | some c =>
    if !stepOne c then fail s c stBadCmd
    else if c.isSealed then
      match openRequest s c with
      | (s, none) => fail s c stDenied
      | (s, some (p, seq)) =>
        let (s, c) := acceptRequest s c p seq
        checkSearch s c (sealedReq c p) true true
    else
      let (s, r, bufOk, readOk) := plainReq s c
      checkSearch s c r bufOk readOk

/-- 12 R413: a fetched SEARCH is checked, takes its admission CSN and waits for an engine and a Reel slot. -/
def execSearch (q : QueueId) (s : State) : Host.Outcome State Fault Refusal := .next (runSearch s q.val opSearch)

/-- 05 R166, 12 R413: a fetched RANGE is checked and admitted. -/
def execRange (q : QueueId) (s : State) : Host.Outcome State Fault Refusal := .next (runSearch s q.val opRange)

/-- Slot `n` is given to a command: it joins its lap group, and is loaded if its LUTs are built. -/
def giveSlot (s : State) (n : Nat) (c : Cmd) (j : SearchJob) : Option State :=
  let cid := j.ctx.cid.toNat
  let joined := if issuedSides s cid = 0 then some (s, []) else joinGroup s cid n
  joined.map (fun (s, ms) =>
    let j := { j with slot := some n, sideSources := ms }
    let s := s.modSlot n (fun _ =>
      { ReelSlot.free with busy := true, cmd := c.seq, queue := c.queue, tag := c.tag, ctx := some j.ctx })
    if j.lutDone then loadSlot s n c j else s.setCmd { c with job := .search j })

/-- The first waiting command that slot `n` admits and that can take it. -/
def admitTo (s : State) (n : Nat) : List (Cmd × SearchJob) → State
  | [] => s
  | (c, j) :: t =>
    if (classMask s n).getLsbD j.rclass then
      match giveSlot s n c j with
      | some s => s
      | none => admitTo s n t
    else admitTo s n t

/-- 11 R398, 04 R110: a free Reel slot, if no lower free one admits the command, goes to the first waiting command. -/
def execSlotAdmit (n : SlotId) (s : State) : Host.Outcome State Fault Refusal :=
  if unitStopped s 3 then .next s else
  let r := s.slot n.val
  let lower (c : Cmd × SearchJob) : Bool := (List.range n.val).any (fun m =>
    !(s.slot m).busy && (classMask s m).getLsbD c.2.rclass)
  .next (if r.busy || s.pwr.withheld || s.pwr.state ≠ 0 then s else admitTo s n.val ((slotWaiters s).filter (fun c => !lower c)))

end Sys2Proof.Machine
end

