-- ==== Sys2Proof/Machine/Batch.lean ====
section
/-! DEFINITION. Batches from their checks to their acknowledgement (12 R418, R431, 02 R23, R24, R28-R37, R44-R49, 03 R72),
and the journal programs that follow (06 R209-R212). -/

namespace Sys2Proof.Machine

/-! ## The batch body (R418) -/

/-- One record from the front of a body: none where the body is too short. -/
def parseRec (d : Nat) (bs : List Byte) : Option (InRec × List Byte) :=
  let plen := le bs 24 2
  let size := 64 * ceilDiv (32 + 4 * d + plen) 64
  if bs.length < size then none
  else some (⟨BitVec.ofNat 64 (le bs 0 8), BitVec.ofNat 64 (le bs 8 8), BitVec.ofNat 64 (le bs 16 8),
      (chunksOf 4 d (bs.drop 32)).map (BitVec.ofNat 32), (bs.drop (32 + 4 * d)).take plen⟩, bs.drop size)

/-- `n` records; the records read before the first that cannot be, and whether the body holds exactly `n`. -/
def parseRecs (d : Nat) : Nat → List Byte → List InRec × Bool
  | 0, bs => ([], bs.isEmpty)
  | n + 1, bs =>
    match parseRec d bs with
    | none => ([], false)
    | some (r, rest) =>
      let p := parseRecs d n rest
      (r :: p.1, p.2)

/-- A batch command's request, from the command or its envelope (12 Table 12.6, 13 Table 13.11). -/
structure BatchReq where
  cid : Nat
  count : Nat
  dim : Nat
  shaped : Bool
  body : List Byte
  deriving DecidableEq, Repr

def noTwice : List W64 → Bool
  | [] => true
  | v :: t => !t.contains v && noTwice t

/-- What a batch delivers: VIDs, records, whether the body has exactly the form R418 gives it, PAYLOAD_LEN at most 4,096 with it. -/
def batchItems (op dim count : Nat) (body : List Byte) : List W64 × List InRec × Bool :=
  if op = opDelete then
    ((chunksOf 8 (body.length / 8) body).map (BitVec.ofNat 64), [], decide (body.length = 8 * count))
  else
    let (rs, ok) := parseRecs dim count body
    (rs.map (·.vid), rs, ok && rs.all (fun r => decide (r.payload.length ≤ 4096)))

/-- Refusals of R208: the spare area at or below 2 %, or too few free units. -/
def flashShort (s : State) : Bool := decide (s.flash.sparePct ≤ 2) || decide (s.flash.freeUnits < 1048576)

/-- The side list has room for `n` more below BUSY_PCT (R44). -/
def sideRoom (s : State) (n : Nat) : Bool := decide ((sideUsed s + n) * 100 ≤ s.alloc.busyPct * sideCapacity s)

/-- Step 6 for a batch of `n` records (Table 2.6, R44, R208, R212). -/
def batchLimits (s : State) (op n : Nat) : Option Nat :=
  firstFail [
    ((freeRef s).isNone, stBusy),
    (op ≠ opDelete && !sideRoom s n, stBusy),
    (op ≠ opDelete && flashShort s, stBusy),
    (ringFull s, stBusy) ]

/-- The grant of a sealed session allows the batch: its collection and its flag (13 R463). A plain queue may name no sealed
collection (13 R468). -/
def batchGranted (s : State) (c : Cmd) (cid : Nat) : Bool := mayName s c cid && grantNames s c cid && grantFlag s c 1

/-- Step 2: session rights, and the write clearance of each record (R463, R468, R418). -/
def batchAuthority (s : State) (c : Cmd) (cid : Nat) (rs : List InRec) : Bool :=
  batchGranted s c cid && rs.all (fun r => cleared (writeClear s c.session) r.attr)

/-- Steps 4 and 5 for a collection (R35, R65, R418). -/
def batchChecks (s : State) (c : Cmd) (r : BatchReq) (p : Params) (bufOk : Bool) : List (Bool × Nat) :=
  let op := c.opcode
  let (vids, recs, ok) := batchItems op r.dim r.count r.body
  [ (op ≠ opDelete && r.dim ≠ p.dim, stDimRange),
    (!r.shaped, stBadCmd),
    (op = opDelete && r.dim ≠ 0, stBadCmd),
    (!decide (1 ≤ r.count ∧ r.count ≤ 4096), stBadCmd),
    (!bufOk, stBadCmd),
    (c.isSealed && (decide (c.rlen < 72) || !reachable s c.raddr c.rlen), stBadCmd),
    (!ok, stBadCmd),
    (!vids.all (fun v => v.toNat / 2 ^ 48 = r.cid), stBadCmd),
    (!noTwice vids, stBadCmd),
    (p.format = 0 && !recs.all (fun x => x.ext = 0), stBadCmd) ]

/-- The work of a batch that passed its checks; its generation is taken at its admission (03 R90). -/
def batchJob (c : Cmd) (r : BatchReq) : BatchJob :=
  let (vids, recs, _) := batchItems c.opcode r.dim r.count r.body
  { cid := BitVec.ofNat 16 r.cid, durable := c.cflag 0, wclear := 0, gen := 0, vids := vids,
    recs := recs, ents := [], ref := none, kind := none, csn := 0, count := r.count, replaced := 0, jsn := 0 }

/-- A batch is admitted: it takes its generation, its commit-table entry and its write clearance (13 R464); a delete is staged, the others are encoded
first. -/
def admitBatch (s : State) (c : Cmd) (j : BatchJob) : State :=
  match freeRef s with
  | none => fail s c stBusy
  | some ref =>
    let gen := (((s.coll j.cid.toNat).bind Coll.newest).map (·.tag)).getD 0
    let j := { j with gen := gen, ref := some (BitVec.ofNat 16 ref), wclear := writeClear s c.session }
    let s := takeRef s ref
    if c.opcode = opDelete then s.setCmd { c with phase := .staging, job := .batch j }
    else addWork (s.setCmd { c with phase := .waitEncode, job := .batch j }) 1 c.seq (.encode c.seq)

/-- A batch that has its request: steps 2 to 6 of Table 12.3, then admission or the hold of R434. What the grant does not allow is
denied inside the envelope (13 R463), a record above the write clearance in the outer completion (R427). -/
def checkBatch (s : State) (c : Cmd) (r : BatchReq) (bufOk readOk : Bool) : State :=
  let recs := (batchItems c.opcode r.dim r.count r.body).2.1
  if !batchGranted s c r.cid then denyInside s c
  else if !batchAuthority s c r.cid recs then fail s { c with plain := none } stDenied
  else match liveColl s r.cid with
    | none => fail s c stNoCollection
    | some x =>
      if !readOk then fail s c stFault
      else match firstFail (batchChecks s c r x.params bufOk) with
        | some st => fail s c st
        | none =>
          match batchLimits s c.opcode r.count with
          | some st => fail s c st
          | none =>
            let j := batchJob c r
            if admissionStopped s then holdForRun s { c with job := .batch j } else admitBatch s c j

/-- The row's meaning for the oldest fetched command of `q`, a batch. -/
def runBatch (s : State) (q op : Nat) : State :=
  match oldest s q (fun c => c.opcode = op) with
  | none => s
  | some c =>
    if !stepOne c then fail s c stBadCmd
    else if c.isSealed then
      match openRequest s c with
      | (s, none) => fail s c stDenied
      | (s, some (p, seq)) =>
        let (s, c) := acceptRequest s c p seq
        let n := le p 2 2
        let d := le p 4 2
        let size := if op = opDelete then 8 * n
          else (p.length - 64) - (trailing (p.drop 64) d n)
        checkBatch s c ⟨le p 0 2, n, d, zeroAt p 6 58, (p.drop 64).take size⟩ true true
    else
      let base : BatchReq := ⟨c.hdrCid, le c.bytes 16 2, le c.bytes 20 2, true, []⟩
      if !reachable s c.addr c.len then checkBatch s c base false true
      else match s.read 2 c.addr c.len .clean with
        | (s, none) => checkBatch s c base true false
        | (s, some bs) => checkBatch s c { base with body := bs } true true
where
  /-- Bytes of the padding of R462 behind `n` records. -/
  trailing (bs : List Byte) (d : Nat) : Nat → Nat
    | 0 => bs.length
    | n + 1 => match parseRec d bs with
      | none => 0
      | some (_, rest) => trailing rest d n

/-- 02 R34: a fetched INSERT_BATCH is checked and takes its code generation, then waits to be encoded. -/
def execInsertBatch (q : QueueId) (s : State) : Host.Outcome State Fault Refusal := .next (runBatch s q.val opInsert)

/-- 02 R34: a fetched DELETE_BATCH is checked and staged. -/
def execDeleteBatch (q : QueueId) (s : State) : Host.Outcome State Fault Refusal := .next (runBatch s q.val opDelete)

/-- 02 R34: a fetched UPSERT_BATCH is checked and takes its code generation, then waits to be encoded. -/
def execUpsertBatch (q : QueueId) (s : State) : Host.Outcome State Fault Refusal := .next (runBatch s q.val opUpsert)

/-! ## Encoding and staging (03 R72, 02 R42, 06 R186) -/

/-- Steps 1 and 2 of R72: the prepared vector, none where the batch is rejected. -/
def prepared (p : Params) (xs : List W32) : Option (List W32) :=
  if !xs.all f32Finite then none else if p.metric = 1 then normalise xs else some xs

/-- The vector slot of a record at version `ver`, with its payload record (06 Tables 6.3, R188), under the collection's key pair. -/
def makeSlot (p : Params) (key : List Byte) (r : InRec) (x : List W32) (ver : Nat) : VSlot :=
  let v : VSlot :=
    { cid := BitVec.ofNat 16 (r.vid.toNat / 2 ^ 48), vid := r.vid, version := BitVec.ofNat 20 ver, enc := p.refineEnc, dim := p.dim,
      attr := r.attr, ext := r.ext, vector := encodeRefine p x,
      payLen := r.payload.length
      payload := if r.payload.isEmpty then none
        else some ⟨r.vid, BitVec.ofNat 20 ver, Config.crc32c r.payload, r.payload, key, xtsTweak r.vid ver true⟩,
      crc := 0, key := key, tweak := xtsTweak r.vid ver false, lost := false }
  { v with crc := Config.crc32c (v.head (slotSize p)) }

/-- The side-list entry of a record under commit-table entry `ref` (02 Table 2.4), inserted by journal entry `jsn`. -/
def makeSide (p : Params) (g : Gen) (r : InRec) (x : List W32) (ref : Nat) (ver : Nat) (slot : W64) (jsn : Nat) : SideEnt :=
  let e := expandRefine p (encodeRefine p x)
  { cid := BitVec.ofNat 16 (r.vid.toNat / 2 ^ 48), vid := r.vid, fromCsn := 0, retire := BitVec.ofNat 64 ones64,
    fromRef := BitVec.ofNat 16 ref, retireRef := 0xFFFF#16, version := BitVec.ofNat 20 ver, format := BitVec.ofNat 2 p.format,
    gen := g.tag, srec := scanRecOf p g.book e r.attr r.ext, slot := slot, issued := 0, jsn := jsn }

/-- The fill reaches URGENT_PCT: the event is posted once (02 Table 2.6). -/
def noteFill (s : State) : State :=
  if s.alloc.urgentPct ≤ sidePct s then
    if s.alloc.urgentPosted then s
    else postM { s with alloc.urgentPosted := true } 0x20 0x04 noQueue (sidePct s) 0 0
  else { s with alloc.urgentPosted := false }

/-- Units of the staging log that side copies take, and its 64 GB (06 Table 6.2). -/
def stagingUnits (s : State) : Nat := (s.corpus.sides.flatMap (fun e => (e.2.map (fun x => slotFlas s x.slot)).getD [])).eraseDups.length
def stagingLimit : Nat := 64000000000 / 4096

/-- The records of a batch are staged: side-list entries, and vector slots in fresh staging units (R569). None where the
side list, the staging log or the collection's generation is gone. -/
def stage (s : State) (j : BatchJob) (vers : List Nat) : Option (State × List Nat) :=
  match s.coll j.cid.toNat, j.ref with
  | some x, some ref =>
    match x.gens.find? (fun g => g.tag = j.gen) with
    | none => none
    | some g =>
      let p := x.params
      let size := slotSize p
      if stagingLimit < stagingUnits s + j.recs.length * max 1 (ceilDiv size 4096) then none else
      let (places, u) := stagingPlaces s size j.recs.length s.flash.slotCursor 0
      let items := (j.recs.zip (vers.zip places)).filterMap (fun (r, v, a) => (prepared p r.vec).map (fun y =>
        (makeSide p g r y ref.toNat v a (s.flash.jsn + 1), makeSlot p x.key r y v)))
      (appendSides (releaseChunks s) j.cid.toNat (items.map (·.1))).map (fun (s, ents) =>
        let s := items.foldl (fun s i => putSlot (claimRows s (saFla i.1.slot) (slotFlas s i.1.slot).length) i.1.slot (some i.2)) s
        (noteFill { s with flash.slotCursor := u }, ents.map (·.1)))
  | _, _ => none

/-- Staged entries and their slots are discarded, the commit-table entry is freed (R36). -/
def unstage (s : State) (j : BatchJob) : State :=
  let s := j.ents.foldl (fun s n => match s.side n with
    | none => s
    | some e => putSlot s e.slot none) s
  let s := dropSides s j.ents
  match j.ref with
  | none => s
  | some r => dropRef s r.toNat

/-! ## The corpus at C - 1 (R34, R28, R29, R465) -/

/-- The copy of a VID that a writer finds: visible at CSN_CURRENT and within its write clearance. -/
def found (s : State) (wclear : BitVec 4096) (vid : W64) : Option Held :=
  (visibleOf s vid s.csn.current).find? (fun h => cleared wclear h.attr)
def anyVisible (s : State) (vid : W64) : Bool := !(visibleOf s vid s.csn.current).isEmpty

/-- Index of the first VID that an insert may not take (R34, R465). -/
def refusedAt (s : State) (op : Nat) (j : BatchJob) : Option Nat :=
  let bad (v : W64) : Bool := anyVisible s v && (op = opInsert || (found s j.wclear v).isNone)
  let i := j.vids.findIdx bad
  if op ≠ opDelete ∧ i < j.vids.length then some i else none

/-- The version that a record gets (R28). -/
def nextVersion (s : State) (op : Nat) (j : BatchJob) (vid : W64) : Nat :=
  if op = opUpsert then ((found s j.wclear vid).map (fun h => (h.ver + 1) % 2 ^ 20)).getD 0 else 0

/-- An upsert would leave held copies too far apart (R29); the difference is taken from the held copy's version up to the new one,
modulo 2^20 (log 79). What the batch has staged itself is none of them. -/
def spanBroken (s : State) (op : Nat) (j : BatchJob) : Bool :=
  let own (c : CopyRef) : Bool := match c with
    | .side n => j.ents.contains n
    | .bank _ _ => false
  op = opUpsert && j.vids.any (fun v =>
    let n := nextVersion s op j v
    (copiesOf s v).any (fun h => !own h.at' && decide (0x80000 ≤ (n + 2 ^ 20 - h.ver) % 2 ^ 20)))

/-! ## Limits of placement (04 R96, R130) -/

/-- Rows of a pseudo-channel lie in its scan-mode banks, 24,576 rows each (10 R352). -/
def rowsScan (s : State) (w row rows : Nat) : Bool :=
  (List.range 48).all (fun b => (s.pch w).staying.getLsbD b || decide (row + rows ≤ b * 24576 ∨ (b + 1) * 24576 ≤ row))

/-- Live header and block bytes of a pseudo-channel. -/
def liveBytes (s : State) (w : Nat) : Nat :=
  ((s.corpus.blocks.filter (fun e => keyWeevil e.1 = w && !e.2.any (fun b => isFlashOnly s (hCid b.hdr)))).map (fun e =>
    (e.2.map (fun b => 128 + hBlockBytes b.hdr)).getD 0)).foldl (· + ·) 0

/-- The most that R130 allows, by the pseudo-channel's mode. -/
def limitFor (banks : BitVec 48) : Nat := if banks = BitVec.allOnes 48 then 1187512320 else 1187512320 * 921 / 1024
def liveLimit (s : State) (w : Nat) : Nat := limitFor (s.pch w).staying

/-- A collection's blocks on a Weevil: those that no move has retired (R130; DEDUCED, log 107). -/
def blocksOf (s : State) (w cid : Nat) : Nat :=
  (s.corpus.blocks.filter (fun e => keyWeevil e.1 = w && e.2.any (fun b => hCid b.hdr = cid && hLive b.hdr
    && decide (hRetire b.hdr = ones64) && decide (hRetireRef b.hdr = noRef)))).length

/-- A pseudo-channel is being retired, with its stack or alone (14 R501, R502). -/
def retiring (s : State) (w : Nat) : Bool :=
  s.maint.claims.any (fun c => c.2.any (fun k => k.state ≠ 0 && (match k.act with
    | .pcRetire p => p = w
    | .stackRetire st => st = w / 32
    | _ => false)))

/-- Scan pseudo-channels in service. -/
def inService (s : State) (w : Nat) : Bool :=
  (s.pch w).scan && (s.pch w).staying ≠ 0 && !(s.pch w).retired && !(s.ctl (w / 32)).retired && !retiring s w

/-- A stack is being retired, which re-homes its blocks (14 R502). -/
def rehoming (s : State) : Bool :=
  s.maint.claims.any (fun c => c.2.any (fun k => k.state ≠ 0 && (match k.act with
    | .stackRetire _ => true
    | _ => false)))

/-- A collection's numbers of blocks in any two pseudo-channels in service stay within 2 of each other, or no further apart than they were,
as blocks on `olds` retire and one on `new` comes; a stack retirement is exempt (R130). -/
def balanced (s : State) (cid : Nat) (olds : List Nat) (new : Option Nat) : Bool :=
  let now (v : Nat) : Nat := blocksOf s v cid
  let then' (v : Nat) : Nat := now v + b2n (new = some v) - (olds.filter (· = v)).length
  let gap (v u : Nat) : Bool := decide (then' v ≤ then' u + 2) || (decide (then' v ≤ now v) && decide (now u ≤ then' u))
  let others := (List.range 256).filter (inService s)
  rehoming s || ((new.toList.filter (inService s)).all (fun v => others.all (gap v))
    && (olds.filter (inService s)).all (fun u => others.all (fun v => gap v u)))

/-- A pseudo-channel with no block of any collection comes into service: no other holds more than 2 of one (R130). -/
def emptyFits (s : State) : Bool :=
  s.corpus.colls.all (fun e => e.2.isNone || ((List.range 256).filter (inService s)).all (fun v => decide (blocksOf s v e.1 ≤ 2)))

/-- Every collection is in balance on what is in service but stack `st`: a stack retirement has re-homed its blocks (R130, 14 R502). -/
def rehomed (s : State) (st : Nat) : Bool :=
  s.corpus.colls.all (fun e => e.2.isNone ||
    (let ns := ((List.range 256).filter (fun v => inService s v && v / 32 ≠ st)).map (fun v => blocksOf s v e.1)
     decide (ns.foldl max 0 ≤ ns.foldl min (ns.headD 0) + 2)))

/-! ## Deletes (R47, R49) -/

/-- The rows that a block of a header occupies, in 1 KiB. -/
def rowSpan (h : Header) : Nat := ceilDiv (hBlockBytes h) 1024

/-- Header indices of Weevil `w` that are taken, with their blocks: those of scrubbed collections keep theirs. -/
def heldBlocks (s : State) (w : Nat) : List (Nat × Block) :=
  let own (es : Tab (Option Block)) : List (Nat × Block) :=
    es.filterMap (fun e => if keyWeevil e.1 = w then e.2.map (fun b => (keyIndex e.1, b)) else none)
  own s.corpus.blocks ++ (own s.flash.map.blocks).filter (fun e => scrubbed s (hCid e.2.hdr))

/-- A place for a new block on Weevil `w`: a header index in a header row of the collection or empty, and rows of the row
area that no block there uses and that are not retired (04 R96, R97, 14 R498). -/
def freePlace (s : State) (w cid rows : Nat) : Option (Nat × Nat) :=
  let held := heldBlocks s w
  let okHeader (h : Nat) : Bool := held.all (fun e => e.1 ≠ h && (e.1 / 8 ≠ h / 8 || hCid e.2.hdr = cid))
  let bad := s.alloc.retiredRows.filterMap (fun r => if r / 2 ^ 21 = w then some (r % 2 ^ 21) else none)
  let okRow (r : Nat) : Bool := rowsScan s w r rows && held.all (fun e => decide (r + rows ≤ hRow e.2.hdr ∨ hRow e.2.hdr + rowSpan e.2.hdr ≤ r))
    && bad.all (fun x => decide (x < r ∨ r + rows ≤ x))
  let hs := (List.range (8 * held.length + 8)).filter okHeader
  let firstRow := 0x2800000 / 1024
  let ends := (firstRow :: (List.range 48).map (· * 24576)) ++ (held.map (fun e => hRow e.2.hdr + rowSpan e.2.hdr) ++ bad.map (· + 1))
  let rs := (sortBy (fun a b => decide (a < b)) ends).filter (fun r =>
    decide (firstRow ≤ r ∧ r + rows ≤ 0x46C80000 / 1024) && okRow r)
  match hs.head?, rs.head? with
  | some h, some r => if h < 327680 then some (h, r) else none
  | _, _ => none

/-- A free pending-exclusion list of Weevil `w`. -/
def freeList (s : State) (w : Nat) : Option Nat :=
  let used := s.corpus.blocks.filterMap (fun e =>
    if keyWeevil e.1 = w then e.2.bind (fun b => if hExclList b.hdr = 0xFFFF then none else some (hExclList b.hdr)) else none)
  (List.range (used.length + 1)).find? (fun n => decide (n < 8192) && !used.contains n)

/-- A block's exclusion list grows by entries. -/
def addExclusions (s : State) (key : Nat) (b : Block) (xs : List (BitVec 128)) : Option State :=
  let w := keyWeevil key
  let old := exclusions s w b.hdr
  let list := if hExclList b.hdr = 0xFFFF then freeList s w else some (hExclList b.hdr)
  list.map (fun l =>
    let h := hSign (hset (hset b.hdr 32 2 l) 34 1 (old.length + xs.length))
    (setExcl s w l (old ++ xs)).setBlock key (some { b with hdr := h }))

/-- The SHARED bit of a refine extent table entry (06 R189). -/
def shareExtent (x : BitVec 128) : BitVec 128 := BitVec.ofNat 128 (setBits x.toNat 90 1 1)

/-- The plain stacks of a Weevil's half that are in service (R6, 04 R101). -/
def plainOf (s : State) (w : Nat) : List Nat := (plainUp s).filter (fun st => decide (w < 128) == decide (st < 10))

/-- An identity line of 2,176 bytes stands at a DPA in a PROT region of a plain stack of the Weevil's half, in no retired row (14 R498), and
clear of every other block's line (04 R101, log 15). -/
def identFree (s : State) (w a : Nat) (secret : Bool) : Bool :=
  ((List.range 9).map (fun i => a + 256 * i) ++ [a + 2175]).all (fun x => (identPlace s x).any (fun pl =>
    (plainOf s w).contains (stackOf pl) && !staysPoisoned s pl && (!secret || wardenPlace s pl)))
  && s.corpus.blocks.all (fun e => e.2.all (fun b => decide (a + 2176 ≤ hIdent b.hdr ∨ hIdent b.hdr + 2176 ≤ a)))

/-- Place `i` for an identity line in the reserves of a plain stack. -/
def identAt (st i : Nat) : Nat :=
  placeOf st (i / 3640 / 104 % 32) (i / 3640 % 104 * extentBytes + i % 3640 * 2304)

/-- A free identity line for Weevil `w`; `secret`: of a sealed collection, whose line lies in a region with WARDEN set (13 R469). -/
def freeIdent (s : State) (w : Nat) (secret : Bool) : Option Nat :=
  let n := 2 * s.corpus.blocks.length + 9 * s.alloc.retiredRows.length + 1
  ((if secret then ((entriesOf s).filter (·.warden)).flatMap (fun g => (List.range n).map (fun i => g.aperture + 2304 * i))
    else (plainOf s w).flatMap (fun st => (List.range n).map (identAt st)))).find? (fun a => identFree s w a secret)

/-- The place of a fold's new copy: on the block's own Weevil, else on the first pseudo-channel that has a free block within the
limits of R130; with its identity line, the block's own within its half and a new one in the other (04 R101). -/
def foldPlace (s : State) (w : Nat) (b : Block) : Option (Nat × Nat × Nat × Nat) :=
  (w :: (List.range 256).filter (· ≠ w)).findSome? (fun v =>
    if inService s v && decide (liveBytes s v + 128 + hBlockBytes b.hdr ≤ liveLimit s v) && balanced s (hCid b.hdr) [w] (some v) then
      (freePlace s v (hCid b.hdr) (rowSpan b.hdr)).bind (fun p =>
        (if v / 128 = w / 128 then some (hIdent b.hdr) else freeIdent s v (isSealedCid s (hCid b.hdr))).map (fun i => (v, p.1, p.2, i)))
    else none)

/-- R49: a block is folded under `ref`: the new copy carries every exclusion as a tombstone, and the old block retires at the
same CSN. -/
def foldBlock (s : State) (key : Nat) (b : Block) (ref : Nat) (rs : List Nat) : Option State :=
  let w := keyWeevil key
  (foldPlace s w b).map (fun (v, h, row, id) =>
    let dead := (exclusions s w b.hdr).map exIdx ++ rs
    let n := dead.foldl hSetTomb b.hdr
    let n := hset (hset (hset (hset n 8 8 0) 16 8 ones64) 24 2 ref) 26 2 noRef
    let n := hset (hset (hset (hset n 28 4 row) 32 2 0xFFFF) 34 1 0) 44 8 id
    let old := hSign (hset b.hdr 26 2 ref)
    let (s, new) := programImage (s.setBlock key (some { b with hdr := old })) (signBlock { b with hdr := n, extent := shareExtent b.extent })
    journal (s.setBlock (blockKey v h) (some new)) ref (hCid b.hdr) (hCount b.hdr) 0 (.move (some (blockKey v h)) [key]))

/-- Delete the records `rs` of one block: exclusions, or a fold where the list would overflow, and where none of the pool's lists
is free (log 80). -/
def deleteInBlock (s : State) (key ref : Nat) (rs : List Nat) : Option State :=
  match s.block key with
  | none => some s
  | some b =>
    if (exclusions s (keyWeevil key) b.hdr).length + rs.length ≤ 32 then
      match addExclusions s key b (rs.map (mkEx 0 ref)) with
      | some s => some s
      | none => foldBlock s key b ref rs
    else foldBlock s key b ref rs

/-- Delete copies under commit-table entry `ref`; none where a fold finds no free block. -/
def deleteCopies (s : State) (ref : Nat) (ds : List CopyRef) : Option State :=
  let s := ds.foldl (fun s d => match d with
    | .side n => (match s.side n with
        | none => s
        | some e => s.setSide n (some { e with retireRef := BitVec.ofNat 16 ref }))
    | .bank _ _ => s) s
  let banks := ds.filterMap (fun d => match d with
    | .bank k r => some (k, r)
    | .side _ => none)
  let keys := (banks.map (·.1)).eraseDups
  keys.foldl (fun o k => o.bind (fun s =>
    deleteInBlock s k ref ((banks.filter (fun e => e.1 = k)).map (·.2)))) (some s)

/-! ## The commit (R23, R24, R31, R34) -/

/-- The kind of ack is decided as staging completes (R24): true for a durable ack. -/
def ackKind (s : State) (j : BatchJob) : Bool := j.durable || s.hold.below

def batchBody (op : Nat) (ds : List CopyRef) (ns : List Nat) : JBody :=
  if op = opDelete then .delete ds else if op = opInsert then .insert ns else .upsert ds ns

/-- The second of an entry's issue, from which its wait for a merge counts (R46). -/
def markIssued (s : State) (ns : List Nat) : State :=
  ns.foldl (fun s n => s.setSide n ((s.side n).map (fun e => { e with issued := s.secs }))) s

/-- The batch's CSN is issued: deletes take effect, the commit-table entry takes C, a fast ack is written. -/
def issueBatch (s : State) (c : Cmd) (j : BatchJob) (ds : List CopyRef) (durable : Bool) : State :=
  let ref := (j.ref.map (·.toNat)).getD noRef
  match deleteCopies s ref ds with
  | none => fail (unstage s j) c stBusy
  | some s =>
    let s := markIssued s j.ents
    let j := { j with replaced := ds.length, kind := some durable }
    let n := if c.isSealed then 0 else j.count
    let (csn, s) := issueAck s ref j.cid.toNat (if durable then some c.seq else none)
      (if durable then none else some (c.queue, n))
    let j := { j with csn := csn }
    if durable then s.setCmd { c with phase := .committed, job := .batch j }
    else finish s c stOk csn (batchR1 c.opcode j) (0x100 + delayedFlag c) 0 []

/-- Staging completes: entries and slots are written, the HBM journal entry with them, the kind of ack is fixed. Where no side-list
chunk is left for an accepted batch, it ends with FAULT (log 100). A fast ack's CSN
issues at once unless a batch staged before waits for its own (R33), a durable ack's once the entry is programmed (R23). -/
def stageBatch (s : State) (c : Cmd) (j : BatchJob) : State :=
  let op := c.opcode
  let ds := if op = opInsert then [] else j.vids.filterMap (fun v => (found s j.wclear v).map (·.at'))
  match stage s j (j.recs.map (fun r => nextVersion s op j r.vid)) with
  | none => fail (unstage s j) c stFault
  | some (s, ents) =>
    let j := { j with ents := ents }
    let durable := ackKind s j
    let ref := (j.ref.map (·.toNat)).getD noRef
    let s := journalAck s j.durable ref j.cid.toNat j.count 0 (batchBody op ds ents) none none
    if durable || stagedBefore s s.flash.jsn then
      s.setCmd { c with job := .batch { j with kind := some durable, jsn := s.flash.jsn } }
    else issueBatch s c j ds false

/-- R34's refusals at C - 1: the status, and the index that RESULT1 gives for an insert. -/
def refusal (s : State) (op : Nat) (j : BatchJob) : Option (Nat × Nat) :=
  match refusedAt s op j with
  | some i => some (stBadCmd, if op = opInsert then i else 0)
  | none => if spanBroken s op j then some (stBusy, 0) else none

/-- A delete's collection may be destroyed while its batch is staged: nothing is then visible in it, and nothing commits. -/
def stillLive (s : State) (j : BatchJob) : Bool := (liveColl s j.cid.toNat).isSome

/-- A batch staged before, its CSN still to issue, names one of this batch's VIDs: what it leaves visible is this batch's C - 1, so
staging waits for it (R34). -/
def clash (s : State) (j : BatchJob) : Bool :=
  s.qau.cmds.any (fun c => match c.phase, c.job with
    | .staging, .batch i => i.kind.isSome && i.vids.any j.vids.contains
    | _, _ => false)

/-- The most that a batch adds to the HBM journal: its entry, the folds of its deletes, and its COMMIT (06 Table 6.8). -/
def batchRoom (n : Nat) : Nat := 128 + (152 + 224) * n

/-- What a staged batch waits for (R23, 06 R210): for a durable ack, its journal entry and its slots are programmed. -/
def journalled (s : State) (j : BatchJob) (durable : Bool) : Bool :=
  !durable || (decide (j.jsn ≤ s.flash.programmed)
    && j.ents.all (fun n => (s.side n).all (fun e => slotProgrammed s e.slot)))

/-- One commit action of a staged batch. One whose collection has been destroyed since ends with NO_COLLECTION (log 100). -/
def commitBatch (s : State) (c : Cmd) (j : BatchJob) (failed : Bool) : State :=
  let op := c.opcode
  if failed then fail (unstage s j) c stFault
  else if !stillLive s j then fail (unstage s j) c stNoCollection
  else if !canIssue s then s
  else match j.kind with
    | none =>
      if !journalRoom s (batchRoom j.count) || clash s j then s
      else match refusal s op j with
        | some (st, r1) => finish (unstage s j) c st 0 r1 (delayedFlag c) 0 []
        | none => stageBatch s c j
    | some durable =>
      if !journalled s j durable || stagedBefore s j.jsn || !journalRoom s (batchRoom j.count) then s
      else match refusal s op j with
        | some (st, r1) => finish (unstage s j) c st 0 r1 (delayedFlag c) 0 []
        | none =>
          let ds := if op = opInsert then [] else j.vids.filterMap (fun v => (found s j.wclear v).map (·.at'))
          issueBatch s c j ds durable

/-- 02 R23: a batch's staging completes, its ack kind is fixed and its CSN issues; where the issue has to wait, for a durable ack
or for a batch staged before, the row runs once more. `failed`: staging meets an uncorrectable error (R36). -/
def execBatchCommit (q : QueueId) (t : TagId) (failed : Bool) (s : State) : Host.Outcome State Fault Refusal :=
  .next (match s.cmdAt q.val t.val with
    | none => s
    | some c => match c.phase, c.job with
      | .staging, .batch j => commitBatch s c j failed
      | _, _ => s)

/-! ## Snapshots and journal programs (06 R210-R212, 02 R52) -/

/-- A side entry as it is replayed at CSN `a`: its CSNs back-filled. -/
def SideEnt.settled (s : State) (e : SideEnt) : SideEnt :=
  { e with
    fromCsn := BitVec.ofNat 64 (resolveFrom s e.fromCsn.toNat e.fromRef.toNat), fromRef := 0xFFFF#16,
           retire := BitVec.ofNat 64 ones64, retireRef := 0xFFFF#16 }

/-- A block as it is reloaded at CSN `a`: exclusions settled into its tombstone bitmap (02 R52). -/
def Block.settled (s : State) (w : Nat) (b : Block) (a : Nat) : Block :=
  let dead := ((exclusions s w b.hdr).filter (fun x => decide (resolveEx s x ≤ a))).map exIdx
  let h := dead.foldl hSetTomb b.hdr
  let h := hset (hset (hset (hset h 8 8 (resolveFrom s (hFrom h) (hFromRef h))) 16 8 ones64) 24 2 noRef) 26 2 noRef
  let h := hSetFlag (hSetFlag (hset (hset h 32 2 0xFFFF) 34 1 0) 2 false) 3 false
  { b with hdr := hSign h }

/-- The wait of every entry for a merge counts from now on: the module keeps no time across a reset (R46). -/
def retimed (s : State) (t : Tab (Option SideEnt)) : Tab (Option SideEnt) :=
  Tab.mapAll none (fun e => e.map (fun x => { x with issued := s.secs })) t

/-- Entries of one table put into another. -/
def mergeTab {α : Type} [DecidableEq α] (d : α) (t u : Tab α) : Tab α := u.foldl (fun a e => Tab.set d a e.1 e.2) t

/-- The corpus as replay restores it at CSN `a`: the copies visible there, and nothing pending. What the page store holds of a
scrubbed collection stays. -/
def snapshot (s : State) (a : Nat) : Corpus :=
  let sides := s.corpus.sides.filterMap (fun e => e.2.bind (fun x =>
    if sideVisible s x a then some (e.1, some (x.settled s)) else none))
  let sides := mergeTab none sides (s.flash.map.sides.filter (fun e => e.2.any (fun x => scrubbed s x.cid.toNat)))
  let blocks := s.corpus.blocks.filterMap (fun e => e.2.bind (fun b =>
    if blockAdmits s b.hdr a then some (e.1, some (b.settled s (keyWeevil e.1) a)) else none))
  { colls := s.corpus.colls
    sides := sides
    chunks := s.corpus.chunks.filter (fun c => sides.any (fun e => e.1 / chunkSize = c.1))
    blocks := mergeTab none blocks (s.flash.map.blocks.filter (fun e => e.2.any (fun b => scrubbed s (hCid b.hdr))))
    excl := [] }

/-- The completion and the events that follow the program of one journal entry (R210, 12 R431). -/
def entryDone (s : State) (e : JEnt) : State :=
  let s := match e.cmd.bind s.cmd with
    | none => s
    | some c => match c.job with
      | .batch j => finish s c stOk j.csn (batchR1 c.opcode j) (delayedFlag c) 0 []
      | _ => s
  let s := match e.ack with
    | none => s
    | some (q, n) => postQ s q [eventBytes 0x0001 0x05 q e.csn n 0]
  match e.body, s.csn.nextRange with
  | .csnRange last, some (r, _) => if r = last then { s with csn.nextRange := some (r, true) } else s
  | _, _ => s

/-- FLUSH commands whose changes are all programmed complete, but while the flash journal ring is full (12 R419). -/
def flushesDone (s : State) : State :=
  if ringFull s then s
  else s.qau.cmds.foldl (fun s c => match c.phase, c.job with
    | .flushing, .flush csn =>
      if s.flash.tail.any (fun e => decide (e.csn ≠ 0 ∧ e.csn ≤ csn)) then s
      else finish s c stOk csn 0 (delayedFlag c) 0 []
    | _, _ => s) s

/-- Ring space before the last checkpoint is freed once no entry that it inserted waits to be merged (R211), and its runs with it. -/
def freeRing (s : State) : State :=
  if s.corpus.sides.any (fun e => e.2.any (fun x => decide (x.jsn ≤ s.flash.ckptJsn)
      && resolveRetire s x.retire.toNat x.retireRef.toNat = ones64)) then s
  else { s with flash.ring := s.flash.ring - s.flash.ckptBytes, flash.ckptBytes := 0,
                flash.journalRuns := s.flash.journalRuns.filter (fun r => decide (s.flash.ckptJsn < r.2.2)) }

/-- Bytes of a map checkpoint: extent table, row table, superblock table, block headers (06 Table 6.2; log 95). -/
def ckptBytesOf (s : State) : Nat :=
  (128 + 16) * s.corpus.blocks.length + 8 * s.flash.rows.length + 8 * s.flash.supers.length + 4096

/-- The HBM journal's unprogrammed entries are programmed (log 18) into a run of their own: the ring grows, and what waited for them
follows. -/
def programTail (s : State) : State :=
  let es := s.flash.tail
  let n := tailBytes s
  let (s, lo) := layRun s (ceilDiv n 4096)
  let s := { s with flash.journalRuns := s.flash.journalRuns ++ [(lo, ceilDiv n 4096, s.flash.jsn)] }
  let s := { s with flash.tail := [], flash.ring := s.flash.ring + n, flash.sinceCkpt := s.flash.sinceCkpt + n,
                    flash.programmed := s.flash.jsn, flash.map := snapshot s s.csn.current, flash.mapCsn := s.csn.current }
  flushesDone (es.foldl entryDone s)

/-- 06 R210: a flash journal program completes: durable completions, DURABLE events and FLUSH completions follow. -/
def execJournalProgramDone (s : State) : Host.Outcome State Fault Refusal :=
  .next (if asleep s || ringFull s then s else if s.flash.tail.isEmpty then flushesDone s else programTail s)

/-- CSNs of one range (R37). -/
def rangeLen : Nat := 1048576

/-- 02 R37: 524,288 CSNs of the range in use have been issued: the end of the next range is journalled. -/
def execCsnRange (s : State) : Host.Outcome State Fault Refusal :=
  .next (if decide (rangeLen / 2 ≤ s.csn.next - 1 + rangeLen - s.csn.rangeEnd) && s.csn.nextRange.isNone && journalRoom s 72 then
      let last := s.csn.rangeEnd + rangeLen
      journal { s with csn.nextRange := some (last, false) } noRef 0xFFFF 0 last (.csnRange last)
    else s)

/-- 06 R211: after 1 GiB of journal, the allocator writes a map checkpoint; the ring's space before it is freed once its
inserts have been merged. -/
def execCheckpoint (s : State) : Host.Outcome State Fault Refusal :=
  if unitStopped s 2 then .next s else
  .next (if decide (1073741824 ≤ s.flash.sinceCkpt) && journalRoom s 72 then
      let n := ceilDiv (ckptBytesOf s) 4096
      let (t, lo) := layRun s n
      freeRing (journal { t with flash.ckptRun := some (lo, n), flash.sinceCkpt := 0, flash.ckptJsn := s.flash.programmed,
                                 flash.ckptBytes := s.flash.ring } noRef 0xFFFF 0 0 (.checkpoint s.flash.programmed))
    else s)

/-! ## FLUSH (R419) -/

/-- FLUSH waits until every change up to its CSN is programmed. -/
def admitFlush (s : State) (c : Cmd) (csn : Nat) : State :=
  flushesDone (s.setCmd { c with phase := .flushing, job := .flush csn })

/-- 12 R419: FLUSH records the CSN_CURRENT of its fetch and waits until every change up to it is programmed. -/
def execFlush (q : QueueId) (s : State) : Host.Outcome State Fault Refusal :=
  .next (match oldest s q.val (fun c => c.opcode = opFlush) with
    | none => s
    | some c =>
      if !stepOne c then fail s c stBadCmd
      else if admissionStopped s then holdForRun s c
      else match c.job with
        | .flush csn => admitFlush s c csn
        | _ => admitFlush s c s.csn.current)

end Sys2Proof.Machine
end

