-- ==== Sys2Proof/Machine/Parity.lean ====
section
/-! DEFINITION. The bytes of the page store (06 R180, R192): what stands in a unit as ciphertext, P and Q of a row's data columns, and how
a lost column comes back from the rest. -/

namespace Sys2Proof.Machine

/-! ## GF(2^8) with the polynomial 0x11D and g = 2 (R180) -/

def gfDouble (x : Byte) : Byte := (x <<< 1) ^^^ (if x.msb then 0x1D#8 else 0#8)

/-- A product: the multiples of `a` by powers of g, as the bits of `b` say. -/
def gfMul (a b : Byte) : Byte :=
  ((List.range 8).foldl (fun (r : Byte × Byte) i => (if b.getLsbD i then r.1 ^^^ r.2 else r.1, gfDouble r.2)) (0, a)).1

def gfPow : Nat → Byte
  | 0 => 1
  | n + 1 => gfDouble (gfPow n)

/-- An inverse: the power 254. -/
def gfInv (a : Byte) : Byte := (List.range 253).foldl (fun x _ => gfMul x a) a

/-! ## Parity of a unit position -/

def xorBytes (a b : List Byte) : List Byte := List.zipWith (· ^^^ ·) a b

/-- P: the bytewise XOR of the data columns. -/
def parityP (ds : List (List Byte)) : List Byte := ds.foldl xorBytes (zeros 4096)

/-- Q: the sum of the data columns, column c times g^c. -/
def parityQ (ds : List (List Byte)) : List Byte := (ds.zipIdx.map (fun e => e.1.map (gfMul (gfPow e.2)))).foldl xorBytes (zeros 4096)

/-- Data column `i` from what can be read of the data columns, of P and of Q; none where too much is lost. -/
def rebuildColumn (ds : List (Option (List Byte))) (p q : Option (List Byte)) (i : Nat) : Option (List Byte) :=
  match ds.getD i none with
  | some d => some d
  | none =>
    let known := ds.map (·.getD (zeros 4096))
    let a := p.map (xorBytes (parityP known))
    let b := q.map (xorBytes (parityQ known))
    match (List.range ds.length).filter (fun k => k ≠ i && (ds.getD k none).isNone), a, b with
    | [], some a, _ => some a
    | [], none, some b => some (b.map (gfMul (gfInv (gfPow i))))
    | [j], some a, some b => some ((xorBytes b (a.map (gfMul (gfPow j)))).map (gfMul (gfInv (gfPow i ^^^ gfPow j))))
    | _, _, _ => none

/-! ## What stands in a unit -/

/-- Bytes as AES-256-XTS leaves them, under a key pair and a tweak; the length stays (R192; the cipher itself is not computed, log 75). -/
def cipher (key : List Byte) (tweak : Nat) (bs : List Byte) : List Byte := padTo bs.length (Config.aesXts key tweak bs)

/-- A vector slot, a payload record and a scan-form image as they stand in flash. -/
def VSlot.text (v : VSlot) : List Byte :=
  let size := 64 * ceilDiv (36 + v.vector.length) 64
  cipher v.key v.tweak.toNat (v.head size ++ leBytes 4 v.crc.toNat)
def PayRec.text (p : PayRec) : List Byte :=
  cipher p.key p.tweak.toNat (padTo (payRecBytes p.bytes.length)
    (leBytes 8 p.vid.toNat ++ leBytes 4 p.version.toNat ++ leBytes 4 p.crc.toNat ++ p.bytes))
def ScanImage.text (s : State) (i : ScanImage) : List Byte :=
  cipher i.key i.tweak (leBytes 128 i.hdr.toNat
    ++ (((s.coll (hCid i.hdr)).map (fun c => i.recs.flatMap (ScanRec.bytes c.params))).getD []))

/-- A block's payload extent: the table of offsets, then the records (R188). -/
def payloadText (s : State) (b : Block) : List Byte :=
  let as := (List.range (hCount b.hdr)).map (extentSlot s b.extent)
  padTo 1024 ((payloadOffsets (payloadLens s as)).flatMap (leBytes 4))
    ++ as.flatMap (fun a => (((slotHeld s a).bind (·.payload)).map PayRec.text).getD [])

/-- Objects of the page store: the unit and the byte in it where each begins, and its bytes. -/
def objectTexts (s : State) : List (Nat × Nat × List Byte) :=
  s.flash.slots.filterMap (fun e => e.2.map (fun v => (e.1 / 4096, e.1 % 4096, v.text)))
  ++ s.flash.imgs.filterMap (fun e => e.2.map (fun i => (e.1, 0, i.text s)))
  ++ (s.corpus.blocks ++ s.flash.map.blocks).filterMap (fun e => e.2.map (fun b => (bits b.extent.toNat 50 40, 0, payloadText s b)))
  ++ s.flash.backing.map (fun e => (e.1, 0, e.2))

/-- The 4,096 bytes of a unit: a part of each object that reaches into it, zeros in between. -/
def unitText (s : State) (fla : Nat) : List Byte :=
  (objectTexts s).foldl (fun bs o =>
    match (unitsOfRun s o.1 (ceilDiv (o.2.1 + o.2.2.length) 4096)).idxOf? fla with
    | none => bs
    | some 0 => let t := o.2.2.take (4096 - o.2.1)
                bs.take o.2.1 ++ t ++ bs.drop (o.2.1 + t.length)
    | some i => let t := (o.2.2.drop (4096 * i - o.2.1)).take 4096
                t ++ bs.drop t.length) (zeros 4096)

/-- The data columns of the row of a unit, at its position: 29 of them in a degraded row (R182). -/
def rowTexts (s : State) (fla : Nat) : List (List Byte) :=
  (List.range ((rowChannels s (flaRow fla)).length - 2)).map (fun c => unitText s (fla - flaCol fla + c))

/-- A column of a row, numbered P, Q, data, whose channel can be read. -/
def columnUp (s : State) (fla c : Nat) : Bool := ((rowChannels s (flaRow fla))[c]?).any (fun ch => (s.channel ch).state = 0)

/-- Columns of a unit's row that are out. -/
def columnsOut (s : State) (fla : Nat) : Nat := ((rowChannels s (flaRow fla)).filter (fun c => (s.channel c).state ≠ 0)).length

/-- A unit whose channel is out, from the columns of its row that can be read; none with three of them out (R180, R206). -/
def rebuildUnit (s : State) (fla : Nat) : Option (List Byte) :=
  if 3 ≤ columnsOut s fla then none
  else
    let ds := rowTexts s fla
    rebuildColumn (ds.zipIdx.map (fun e => if columnUp s fla (e.2 + 2) then some e.1 else none))
      (if columnUp s fla 0 then some (parityP ds) else none) (if columnUp s fla 1 then some (parityQ ds) else none) (flaCol fla)

end Sys2Proof.Machine
end

