-- ==== Sys2Proof/Machine/Scan.lean ====
section
/-! DEFINITION. The staged scan of a Weevil (04 R104-R132, R138-R141) and the walk of a lap member (07 R245-R251). -/

namespace Sys2Proof.Machine

/-! ## One record for one slot -/

/-- The generation context that a tag selects (03 R91). -/
def SlotCtx.gen (x : SlotCtx) (tag : Nat) : Option GenCtx := x.gens.find? (fun g => g.set.tag.toNat = tag)

/-- Clearance and predicate of a visible record (04 R114). -/
def SlotCtx.clears (x : SlotCtx) (r : ScanRec) : Bool := cleared x.clear r.attr
def SlotCtx.accepts (x : SlotCtx) (r : ScanRec) : Bool := predEval r.attr r.ext x.pred []

/-- One count more in an absolute bin; bins that leave the window of the highest score are discarded (05 R171). -/
def histAdd (h : List (Int × Nat)) (u top : Int) : List (Int × Nat) :=
  let h := if h.any (fun e => e.1 = u) then h.map (fun e => if e.1 = u then (u, e.2 + 1) else e)
    else insertBy (fun a b => decide (b.1 < a.1)) (u, 1) h
  h.filter (fun e => decide (top - 1023 ≤ e.1))

/-- A score computed in full is folded into a source's counts. -/
def Tally.fold (t : Tally) (x : SlotCtx) (score : Int) : Tally :=
  let m := if t.max < score then score else t.max
  if x.statsFull then
    { t with max := m, sum := t.sum + score, sumsq := t.sumsq + score.natAbs ^ 2,
             hist := histAdd t.hist (binOf x.beta score) (binOf x.beta m) }
  else { t with max := m }

/-- Score of a record under a generation context. -/
def SlotCtx.score (x : SlotCtx) (g : GenCtx) (r : ScanRec) : Int × Bool :=
  scoreOf x.params.metric x.params.format x.params.outN x.params.m x.params.pq8 g r

/-! ## The staged scan of one block for one slot (R121) -/

/-- A record still live, with its accumulator. -/
structure Live where
  r : Nat
  acc : Int
  deriving DecidableEq, Repr

/-- The test before code group `t`: a record whose bound cannot reach the threshold is dropped. -/
def prune (x : SlotCtx) (g : GenCtx) (theta mx : Int) (t : Nat) (ls : List Live) : List Live :=
  if x.statsFull then ls
  else ls.filter (fun l =>
    let b := (rescale g.set (l.acc + g.bounds.getD t 0)).1
    !(decide (b < theta) && (!x.range || decide (b ≤ mx))))

/-- Code group `t` is added to each live record. -/
def addGroup (x : SlotCtx) (g : GenCtx) (b : Block) (t : Nat) (ls : List Live) : List Live :=
  ls.map (fun l => { l with
    acc := l.acc + lutSum x.params.pq8 g.lut (rec256 b l.r).code (t * x.params.perGroup) x.params.perGroup })

/-- Groups `t` on: the records live at the end, and the number of groups read for this slot. -/
def groupsLoop (x : SlotCtx) (g : GenCtx) (theta mx : Int) (b : Block) : Nat → Nat → List Live → List Live × Nat
  | 0, t, ls => (ls, t)
  | n + 1, t, ls =>
    let ls := prune x g theta mx t ls
    if ls.isEmpty then ([], t) else groupsLoop x g theta mx b n (t + 1) (addGroup x g b t ls)

/-- Records of a block that slot `x` may see, and those of them that its predicate accepts (R114). -/
def clearedOf (s : State) (w : Nat) (b : Block) (x : SlotCtx) : List Nat :=
  (List.range (hCount b.hdr)).filter (fun r => weevilFinds s w b.hdr r x.adm && x.clears (rec256 b r))
def eligibleOf (b : Block) (x : SlotCtx) (rs : List Nat) : List Nat := rs.filter (fun r => x.accepts (rec256 b r))

/-- What a block gives one slot: its slot state after the block, its candidates, the code groups read. -/
structure BlockScan where
  ws : WSlot
  cands : List Entry
  groups : Nat
  deriving DecidableEq, Repr

/-- The locator of a record (R101). -/
def locator (w h r : Nat) : W64 := BitVec.ofNat 64 (field h 0 19 + field r 19 8 + field (w % 32) 27 5)

/-- R121 for one slot and one block of a generation that the slot holds. -/
def scanOne (s : State) (w h : Nat) (b : Block) (n : Nat) (x : SlotCtx) (g : GenCtx) (ws : WSlot) : BlockScan :=
  let vis := clearedOf s w b x
  let el := eligibleOf b x vis
  let pre (r : Nat) : Live := ⟨r, (preload x.params.metric x.params.format x.params.outN g.set (rec256 b r)).1⟩
  let (ls, groups) := groupsLoop x g ws.theta ws.mx b (hGroups b.hdr) 0 (el.map pre)
  let scores := ls.map (fun l => (l.r, (rescale g.set l.acc).1))
  let clip := el.any (fun r => (x.score g (rec256 b r)).2)
  let t := scores.foldl (fun t p => t.fold x p.2) ws.tally
  let t := { t with elig := t.elig + el.length, visclr := t.visclr + vis.length, clip := t.clip || clip }
  let hits := scores.filter (fun p => decide (ws.theta ≤ p.2))
  { ws := { ws with tally := t, mx := t.max },
    cands := hits.map (fun p => .cand n ⟨locator w h p.1, p.2, 0, false, 0⟩), groups := groups }

/-! ## One block for every slot that needs it -/

/-- The slot owes a block: its command carries INTEGRITY whatever follows (R140). -/
def WSlot.owe (ws : WSlot) (h : Nat) : WSlot :=
  { ws with owed := if ws.owed.contains h then ws.owed else ws.owed ++ [h], tally := { ws.tally with integ := true } }

/-- The row, counted from the pseudo-channel's first byte, whose signature check failed. -/
def failedRow (b : Block) (h : Nat) : ScanFail → Nat
  | .header => h / 8
  | .group g => hRow b.hdr + (attrSection b).length / 1024 + 2 * g
  | _ => hRow b.hdr

/-- A row's signature failure is remembered for 24 h (14 R501). -/
def noteBadRow (s : State) (w row : Nat) : State :=
  s.modPch w (fun p => { p with
    badRows := p.badRows.filter (fun e => e.1 ≠ row && decide (s.secs - e.2 < 86400)) ++ [(row, s.secs)] })

/-- What failed may be an in-die uncorrectable error, which the controller counts (10 R347); no rule tells it from another (log 5). -/
def noteDie (s : State) (w : Nat) : State :=
  let (x, s) := s.draw
  if x % 2 = 1 then s.modCtl (w / 32) (fun c => { c with dieUe := satAdd 6 c.dieUe 1 }) else s

/-- In-die corrections that the reads of a block report are counted (10 R347); how many there are no operand says (log 5). -/
def noteCorrected (s : State) (w : Nat) : State :=
  let (x, s) := s.draw
  s.modCtl (w / 32) (fun c => { c with dieCe := satAdd 12 c.dieCe x })

/-- A failed check (R138) sets QUARANTINED, counts, and discards the block for every slot that needs it. -/
def quarantine (s : State) (w h : Nat) (b : Block) (ns : List Nat) (f : ScanFail) : State :=
  let s := noteDie (noteBadRow s w (failedRow b h f)) w
  let s := s.setBlock (blockKey w h) (some { b with hdr := hSign (hSetFlag b.hdr 2 true) })
  let s := { s with reel.quar := Tab.mod 0 s.reel.quar (w / 32) (fun q => satAdd 16 q 1) }
  s.modWeevil w (fun v => { v with
    wslots := ns.foldl (fun t n => Tab.mod WSlot.free t n (fun ws => ws.owe h)) v.wslots })

/-- The attribute section's and the code groups' signatures, with the failure met. -/
def sigFails (b : Block) (f : ScanFail) (groups : Nat) : Bool :=
  f = .header || !hSigned b.hdr || f = .attr || hget b.hdr 36 4 ≠ (Config.crc32c (attrSection b)).toNat
    || (List.range groups).any (fun g => f = .group g
      || hget b.hdr (96 + 4 * g) 4 ≠ (Config.crc32c (groupSection b g)).toNat)

/-- Scan block `h` for slots `ns`: contributions of all of them, or a quarantine. `caught` slots owed it before. -/
def scanFor (s : State) (w h : Nat) (b : Block) (ns : List Nat) (f : ScanFail) (caught : Bool) : State :=
  let v := s.weevil w
  let runs := ns.map (fun n =>
    match (s.slot n).ctx with
    | none => (n, none)
    | some x => (n, (x.gen (hGen b.hdr)).map (fun g =>
        scanOne s w h b n x g (Tab.get WSlot.free v.wslots n))))
  let groups := runs.foldl (fun m r => max m ((r.2.map (·.groups)).getD 0)) 0
  if runs.any (fun r => r.2.isNone) || sigFails b f groups then quarantine s w h b ns f
  else s.modWeevil w (fun v => Weevil.emit { v with
    wslots := runs.foldl (fun t r => match r.2 with
      | none => t
      | some y => Tab.set WSlot.free t r.1
          (if caught then { y.ws with owed := y.ws.owed.filter (· ≠ h) } else y.ws)) v.wslots }
    (runs.flatMap (fun r => (r.2.map (·.cands)).getD [])))

/-! ## The walk -/

/-- Slots in a phase on a Weevil. -/
def slotsIn (t : Tab WSlot) (ph : Nat) : List Nat := (t.filter (fun e => e.2.phase = ph)).map (·.1)

/-- The walk that was at `h` and goes on to `h'` passes index `st`. -/
def passes (h h' st : Nat) : Bool :=
  if h < h' then decide (h < st ∧ st ≤ h') else decide (h < st ∨ st ≤ h')

/-- Slot `n` leaves Weevil `w` (R106): STATS words if asked for, then LEAVE with the blocks still owed. -/
def leaveWeevil (s : State) (w n : Nat) : State :=
  match (s.slot n).ctx with
  | none => s
  | some x =>
    let ws := Tab.get WSlot.free (s.weevil w).wslots n
    s.modWeevil w (fun v => Weevil.emit { v with wslots := Tab.set WSlot.free v.wslots n { ws with phase := 3 } }
      (leaveEntries n x { ws.tally with owed := ws.owed.length }))

/-- Loaded slots begin at block `h` (R105); in FREE mode, slots that need no block here leave at once (R106). -/
def beginSlots (s : State) (w h : Nat) (paced : Bool) : State :=
  let s := s.modWeevil w (fun v => { v with
    paced := paced,
    wslots := (slotsIn v.wslots 1).foldl (fun t n => Tab.mod WSlot.free t n (fun ws =>
      { ws with phase := 2, start := h, allPaced := paced })) v.wslots })
  if paced then s
  else (slotsIn (s.weevil w).wslots 2).foldl (fun s n =>
    match (s.slot n).ctx with
    | none => s
    | some x => if leavesAtOnce s w x false then leaveWeevil s w n else s) s

/-- The block at the walk's position: the next LIVE header, wrapping to the first. -/
def walkAt (r : List (Nat × Block)) (pos : Nat) : Option (Nat × Block) :=
  match r.find? (fun e => decide (pos ≤ e.1)) with
  | some e => some e
  | none => r.head?

/-- Every active slot of a Weevil ran this block in the present mode (R132). -/
def notePaced (s : State) (w : Nat) : State :=
  s.modWeevil w (fun v => { v with
    level := (s.ctl (w / 32)).level
    wslots := (slotsIn v.wslots 2).foldl (fun t n =>
      Tab.mod WSlot.free t n (fun ws => { ws with allPaced := ws.allPaced && v.paced })) v.wslots })

/-- Block `h` is swept at the walk's position: its header's signatures are checked before a field of it is used (R104), it is
skipped by slots that do not need it, and owed if quarantined (R107, R138). -/
def sweep (s : State) (w h : Nat) (b : Block) (f : ScanFail) : State :=
  let act := slotsIn (s.weevil w).wslots 2
  let need := act.filter (fun n => (s.slot n).ctx.any (fun x => needsBlock s w x b))
  let read := (s.weevil w).paced || act.any (fun n => (s.slot n).ctx.any (fun x => x.cid.toNat = hCid b.hdr))
  let s := if read then noteCorrected s w else s
  if read && (f = .header || !hSigned b.hdr) then quarantine s w h b need f
  else if hQuar b.hdr then
    s.modWeevil w (fun v => { v with
      wslots := need.foldl (fun t n => Tab.mod WSlot.free t n (fun ws => ws.owe h)) v.wslots })
  else if need.isEmpty then s
  else scanFor s w h b need f false

/-- Slots whose START the walk reaches on its way from `h` to `h'` leave (R106). -/
def leavePassed (s : State) (w h h' : Nat) : State :=
  let gone := (slotsIn (s.weevil w).wslots 2).filter (fun n => passes h h' (Tab.get WSlot.free (s.weevil w).wslots n).start)
  gone.foldl (fun s n => leaveWeevil s w n) s

/-- The walk moves past block `h`. -/
def advance (s : State) (w h : Nat) : State :=
  let h' := ((walkAt (ring s w) (h + 1)).map (·.1)).getD h
  (leavePassed s w h h').modWeevil w (fun v => { v with pos := h' })

/-- The walk goes on at `h`: where the header at its position has been reclaimed, it has passed indices on the way (R108). -/
def resumeAt (s : State) (w h : Nat) : State :=
  if h = (s.weevil w).pos then s else leavePassed s w (s.weevil w).pos h

/-- A full output buffer holds the walk (05 R151). -/
def holdIfFull (s : State) (w : Nat) : State :=
  s.modWeevil w (fun v => { v with stalled := v.stalled || decide (outLimit ≤ v.out.length) })

/-- The catch-up sweep of a repaired block for the slots that owe it (R140). -/
def catchUp (s : State) (w h : Nat) (f : ScanFail) : State :=
  match s.block (blockKey w h) with
  | none => s
  | some b =>
    let owing := (slotsIn (s.weevil w).wslots 2).filter (fun n =>
      (Tab.get WSlot.free (s.weevil w).wslots n).owed.contains h)
    if owing.isEmpty then s else scanFor (noteCorrected s w) w h b owing f true

/-- A double-bit error in slot `n`'s words ends it on every Weevil; its command completes with FAULT (R95). -/
def slotFault (s : State) (n : Nat) : State :=
  let r := s.slot n
  if r.busy && r.loaded then
    match s.cmd r.cmd with
    | none => s
    | some c => fail (clearSlot (noteRelease s c) n) c stFault
  else s

/-- One block boundary of Weevil `w`, and the block after it; a full output buffer holds the walk (05 R151). -/
def scanStep (s : State) (w : Nat) (f : ScanFail) : State :=
  let v := s.weevil w
  if s.pwr.state ≠ 0 || v.paused || v.stalled || v.passThrough || !(s.ctl (w / 32)).answering then s
  else if outLimit ≤ v.out.length then holdIfFull s w
  else match v.repair with
    | h :: rest => holdIfFull (catchUp (s.modWeevil w (fun v => { v with repair := rest })) w h f) w
    | [] =>
      let paced := reelPaced s
      match walkAt (ring s w) v.pos with
      | none =>
        ((slotsIn v.wslots 1) ++ (slotsIn v.wslots 2)).foldl (fun s n => leaveWeevil s w n)
          (s.modWeevil w (fun v => { v with paced := paced, level := (s.ctl (w / 32)).level }))
      | some (h, b) =>
        holdIfFull (advance (notePaced (sweep (beginSlots (resumeAt s w h) w h paced) w h b f) w) w h) w

/-- 04 R121: at a block boundary, a Weevil scans one block for every slot that needs it and emits candidates. -/
def execScanBlock (w : WeevilId) (f : ScanFail) (s : State) : Host.Outcome State Fault Refusal :=
  .next (match f with
    | .slotWord n => slotFault s n.val
    | _ => scanStep s w.val f)

/-- A sealed slot that requires PACED is active (13 R473). -/
def sealedPaced (s : State) : Bool :=
  s.reel.slots.any (fun e => e.2.busy && e.2.loaded && e.2.ctx.any (fun x => x.sealed && x.paced))

/-- 05 R151: a Weevil held by its full output buffer resumes its walk; the hold is counted in STALL_US (log 5). -/
def execBackPressureRelease (w : WeevilId) (s : State) : Host.Outcome State Fault Refusal :=
  let v := s.weevil w.val
  .next (if v.stalled && decide (v.out.length < outLimit) then
      let s := s.modWeevil w.val (fun v => { v with stalled := false })
      if sealedPaced s then s
      else
        let (us, s) := s.draw
        { s with sel.stallUs := Tab.mod 0 s.sel.stallUs (w.val / 32) (fun x => satAdd 32 x us) }
    else s)

/-! ## Laps (07 R245-R251) -/

/-- The group that an engine is in, with the engine's place in it. -/
def groupOf (s : State) (e : Nat) : Option (LapGroup × Nat) :=
  match (s.engine e).work with
  | .lap id => (s.eng.groups.find? (·.id = id)).map (fun g => (g, g.members.idxOf e))
  | _ => none

/-- Chunks that a member walks: every n-th of the collection's chunk list. -/
def memberChunks (s : State) (g : LapGroup) (i : Nat) : List Nat :=
  (chunksOfColl s g.cid.toNat).zipIdx.filterMap (fun (c, j) => if j % g.members.length = i then some c.1 else none)

/-- One entry for one slot (R248). A copy that gets as far as scoring and whose tag the slot does not hold is not scored and is
quarantined (03 R91): the slot owes it, by its number behind those of the chunks (log 77). -/
def lapEntry (s : State) (n : Nat) (x : SlotCtx) (a : WSlot × List Entry) (e : Nat × SideEnt) : WSlot × List Entry :=
  let (ws, es) := a
  let r := e.2.srec
  if e.2.cid ≠ x.cid || !sideVisible s e.2 x.adm || !x.clears r then a
  else
    let t := { ws.tally with visclr := ws.tally.visclr + 1 }
    if !x.accepts r then ({ ws with tally := t }, es)
    else match x.gen e.2.gen.toNat with
      | none => (ws.owe (chunkCount + e.1), es)
      | some g =>
        let (v, clip) := x.score g r
        let t := (Tally.fold { t with elig := t.elig + 1, clip := t.clip || clip } x v)
        ({ ws with tally := t, mx := t.max },
          if ws.theta ≤ v then es ++ [.cand n ⟨e.2.vid, v, e.2.version, true, e.2.slot⟩] else es)

/-- Entries of a chunk in use, each with its number. -/
def chunkEntries (s : State) (c : Nat) : List (Nat × SideEnt) :=
  (List.range chunkSize).filterMap (fun i => (s.side (c * chunkSize + i)).map (fun e => (c * chunkSize + i, e)))

/-- A chunk for every slot active on a member; one whose signatures or correction fail is owed (R250). -/
def lapChunkFor (s : State) (e c : Nat) (failed : Bool) : State :=
  let g := s.engine e
  let ents := if failed then [] else chunkEntries s c
  let r := (slotsIn g.lapSlots 2).foldl (fun (a : Tab WSlot × List Entry) n =>
    match (s.slot n).ctx with
    | none => a
    | some x =>
      let ws := Tab.get WSlot.free a.1 n
      let (ws, es) := ents.foldl (lapEntry s n x) (if failed then ws.owe c else ws, [])
      (Tab.set WSlot.free a.1 n ws, a.2 ++ es)) (g.lapSlots, g.out)
  s.modEngine e (fun g => { g with lapSlots := r.1, out := r.2 })

/-- A chunk that failed is reread from the journal image for the slots that owe it (R250, 04 R140); a quarantined copy stays owed. -/
def lapCatchUp (s : State) (e : Nat) : State :=
  let g := s.engine e
  let r := (slotsIn g.lapSlots 2).foldl (fun (a : Tab WSlot × List Entry) n =>
    match (s.slot n).ctx with
    | none => a
    | some x =>
      let ws := Tab.get WSlot.free a.1 n
      let chunks := ws.owed.filter (· < chunkCount)
      let (ws, es) := (chunks.flatMap (chunkEntries s)).foldl (lapEntry s n x)
        ({ ws with owed := ws.owed.filter (fun c => decide (chunkCount ≤ c)) }, [])
      (Tab.set WSlot.free a.1 n ws, a.2 ++ es)) (g.lapSlots, g.out)
  s.modEngine e (fun g => { g with lapSlots := r.1, out := r.2 })

/-- Slot `n` leaves a member: STATS words if asked for, then LEAVE. It has left its group once it has left every member; the
group's last slot dissolves it (R251). -/
def leaveMember (s : State) (e n : Nat) : State :=
  match (s.slot n).ctx with
  | none => s
  | some x =>
    let ws := Tab.get WSlot.free (s.engine e).lapSlots n
    let s := s.modEngine e (fun g => { g with
      lapSlots := Tab.set WSlot.free g.lapSlots n { ws with phase := 3 },
      out := g.out ++ leaveEntries n x { ws.tally with owed := ws.owed.length } })
    dropFromGroups s (fun g => g.members.all (fun m => (Tab.get WSlot.free (s.engine m).lapSlots n).phase = 3)) n

/-- What failed of a chunk is a row signature, or the correction of its memory in its plain stack (07 R245, 02 R42): the second is an
uncorrectable read, which the controller logs (10 R344). No rule tells one from the other, nor where in the stack it lies: both are
draws (log 5). A sealed collection's chunks lie in a WARDEN region (13 R469). -/
def noteChunk (s : State) (c : Nat) (cid : W16) : State :=
  let (k, s) := s.draw
  if k % 2 = 0 then s
  else
    let (a, s) := s.draw
    (readFinding s 1 (placeOf (8 + c / 2048) (a % 32) (a / 32 % pcBytes / 32 * 32)) (some 0) (isSealedCid s cid.toNat) .twoSymbols).1

/-- One chunk boundary of member `e` and the chunk after it; `failed`: the chunk's signatures or correction fail. -/
def lapStep (s : State) (e : Nat) (failed : Bool) : State :=
  if s.pwr.state ≠ 0 then s else
  match groupOf s e with
  | none => s
  | some (g, i) =>
    let cs := memberChunks s g i
    let s := lapCatchUp s e
    let k := (s.engine e).chunkPos
    match cs[if k < cs.length then k else 0]? with
    | none => ((slotsIn (s.engine e).lapSlots 1) ++ (slotsIn (s.engine e).lapSlots 2)).foldl (fun s n => leaveMember s e n) s
    | some c =>
      let k := if k < cs.length then k else 0
      let s := s.modEngine e (fun g => { g with
        lapSlots := (slotsIn g.lapSlots 1).foldl (fun t n =>
          Tab.mod WSlot.free t n (fun ws => { ws with phase := 2, start := k })) g.lapSlots })
      let s := lapChunkFor (if failed then noteChunk s c g.cid else s) e c failed
      let k' := if k + 1 < cs.length then k + 1 else 0
      let gone := (slotsIn (s.engine e).lapSlots 2).filter (fun n =>
        passes k k' (Tab.get WSlot.free (s.engine e).lapSlots n).start)
      let s := gone.foldl (fun s n => leaveMember s e n) (if gone.isEmpty then s else lapCatchUp s e)
      s.modEngine e (fun g => { g with chunkPos := k' })

/-- 07 R248: a lap member walks one side-list chunk for every slot in its group. -/
def execLapChunk (e : EngineId) (failed : Bool) (s : State) : Host.Outcome State Fault Refusal :=
  .next (lapStep s e.val failed)

/-! ## Thresholds (05 R154, R155) -/

/-- A slot's state takes a higher threshold; a RANGE slot's never changes (04 R122). -/
def raise (x : SlotCtx) (theta : Int) (ws : WSlot) : WSlot :=
  if (ws.phase = 1 || ws.phase = 2) && !x.range && decide (ws.theta < theta) then { ws with theta := theta } else ws

/-- 05 R155: a Weevil or lap member receives the highest threshold sent for a slot. -/
def execThresholdReceive (p : Port) (n : SlotId) (s : State) : Host.Outcome State Fault Refusal :=
  if unitStopped s 1 then .next s else
  .next (match Tab.get none s.sel.sent n.val, (s.slot n.val).ctx with
    | some th, some x =>
      (match p with
       | .weevil w => s.modWeevil w.val (fun v => { v with wslots := Tab.mod WSlot.free v.wslots n.val (raise x th) })
       | .side e => s.modEngine e.val (fun g => { g with lapSlots := Tab.mod WSlot.free g.lapSlots n.val (raise x th) }))
    | _, _ => s)

end Sys2Proof.Machine
end

