-- ==== Sys2Proof/Machine/Select.lean ====
section
/-! DEFINITION. The selectors (05): candidates, deduplication and cut, thresholds, statistics, the merge of the halves,
and the layouts of Tables 5.4, 5.5 and 12.5. -/

namespace Sys2Proof.Machine

/-! ## Order and deduplication (R143, R159, R160) -/

def Cand.before (a b : Cand) : Bool := decide (b.score < a.score) || (a.score = b.score && decide (a.vid.toNat < b.vid.toNat))

/-- The winner of two copies, and whether neither version is newer (R160). -/
def resolveDup (d e : Cand) : Cand × Bool :=
  if newer d.version.toNat e.version.toNat then (d, false)
  else if newer e.version.toNat d.version.toNat then (e, false)
  else (if d.side != e.side then (if d.side then e else d) else if e.before d then e else d, true)

/-- Entries that the selection of a slot holds at most: W, k or 65,536. -/
def SlotCtx.n (x : SlotCtx) : Nat := if x.range then 65536 else if x.refine then x.w else x.k

def insertCand (e : Cand) (l : List Cand) : List Cand := insertBy Cand.before e l

/-- cut of R159: ties beyond the cut are counted. -/
def SelSlot.cut (h : SelSlot) (x : Cand) : SelSlot :=
  match h.held.getLast? with
  | none => h
  | some l =>
    if x.score = l.score then
      if h.tieScore = some x.score then { h with tieN := h.tieN + 1 } else { h with tieScore := some x.score, tieN := 1 }
    else h

/-- A pair of copies is resolved: SEL_STAT counts it unless the slot is sealed (R157), DUPINC those with equal versions, and
versions of which neither is newer post DUP_INCONSISTENT, for a sealed collection under CID 0xFFFF (02 R61, 13 R473). -/
def noteDup (s : State) (x : SlotCtx) (inc eq : Bool) : State :=
  let s := if x.sealed then s
    else { s with sel.dups := satAdd 16 s.sel.dups 1, sel.dupinc := if eq then satAdd 16 s.sel.dupinc 1 else s.sel.dupinc }
  if inc then
    let cid := if isSealedCid s x.cid.toNat then 0xFFFF else x.cid.toNat
    postM s 0x22 0x03 noQueue cid 0 0
  else s

def setHalf (s : State) (i : Nat) (h : SelSlot) : State :=
  { s with sel.halves := Tab.set SelSlot.empty s.sel.halves i h }
def halfAt (s : State) (i : Nat) : SelSlot := Tab.get SelSlot.empty s.sel.halves i

/-- A threshold is sent (R154): the halves exchange it; THRSENT counts those of unsealed slots (R157). -/
def sendThreshold (s : State) (n : Nat) (x : SlotCtx) (theta : Int) : State :=
  let best := match Tab.get none s.sel.sent n with
    | none => theta
    | some t => if t < theta then theta else t
  { s with sel.sent := Tab.set none s.sel.sent n (some best),
           sel.thrSent := if x.sealed then s.sel.thrSent else (s.sel.thrSent + 1) % 65536 }

/-- on_cand of R159 at half `i` for slot `n`. The values already sent (R154) are those of the same selector, as R159's sent is
(log 78). -/
def onCand (s : State) (i n : Nat) (x : SlotCtx) (e : Cand) : State :=
  let h := halfAt s i
  let h := { h with total := h.total + b2n x.range }
  match h.held.find? (fun d => d.vid = e.vid) with
  | some d =>
    let r := resolveDup d e
    let lost := decide (r.1 ≠ d) && h.atSend.contains d.vid
    let held := if r.1 = d then h.held else insertCand e (h.held.filter (fun y => y.vid ≠ e.vid))
    noteDup (setHalf s i { h with held := held, total := h.total - b2n x.range, dupInc := h.dupInc || r.2,
                                  integ := h.integ || lost }) x r.2 (decide (d.version = e.version))
  | none =>
    if h.held.length < x.n then setHalf s i { h with held := insertCand e h.held }
    else match h.held.getLast? with
      | none => s
      | some w =>
        let h := if e.before w then (SelSlot.cut { h with held := insertCand e h.held.dropLast } w) else h.cut e
        match h.held.getLast? with
        | none => setHalf s i h
        | some l =>
          if !x.range && h.sent.all (fun t => decide (t < l.score)) then
            sendThreshold (setHalf s i { h with sent := some l.score, atSend := h.held.map (·.vid) }) n x l.score
          else setHalf s i h

/-! ## The chain's ends (R147-R149) -/

/-- The half of a port. -/
def portHalf : Port → Nat
  | .weevil w => w.val / 128
  | .side e => e.val / 24

/-- Entries waiting at a port. -/
def portOut (s : State) : Port → List Entry
  | .weevil w => (s.weevil w.val).out
  | .side e => (s.engine e.val).out

/-- The entry at the front of a port has left it. -/
def popPort (s : State) : Port → State
  | .weevil w => s.modWeevil w.val (fun v => Weevil.fill { v with out := v.out.tail })
  | .side e => s.modEngine e.val (fun g => { g with out := g.out.tail })

/-- A candidate as it reaches the selector: the exit port turns a locator into VID, version and slot address (04 R101,
06 R189). None for a locator of no block. -/
def resolveCand (s : State) (p : Port) (c : Cand) : Option Cand :=
  match p with
  | .side _ => some c
  | .weevil w =>
    let l := c.vid.toNat
    (s.block (blockKey w.val (bits l 0 19))).map (fun b =>
      let r := bits l 19 8
      { c with vid := blockVid b r, version := BitVec.ofNat 20 (blockVer b r), slot := extentSlot s b.extent r })

/-- An entry of any kind passes a stack's exit port in a slot's scan (R152). -/
def countPassed (s : State) (p : Port) (n : Nat) : State :=
  match p with
  | .weevil w => { s with sel.scanEnts := Tab.mod 0 s.sel.scanEnts (w.val / 32 * 32 + n) (· + 1) }
  | .side _ => s

/-- Marks of a source that Table 5.2 gives no bits: they reach the selector from the source itself with its LEAVE (log 76). -/
def portMarks (s : State) (p : Port) (n : Nat) : Bool × Bool :=
  let ws := match p with
    | .weevil w => Tab.get WSlot.free (s.weevil w.val).wslots n
    | .side e => Tab.get WSlot.free (s.engine e.val).lapSlots n
  (ws.tally.clip, ws.tally.integ)

/-- An entry in the 16 bytes of Tables 5.1 and 5.2. -/
def Entry.bytes (beta : Nat) : Entry → List Byte
  | .cand n c => leBytes 8 c.vid.toNat ++ leBytes 4 (ofSigned 32 c.score) ++ leBytes 1 n
      ++ leBytes 3 (c.version.toNat + 2 ^ 20 * b2n c.side)
  | .stats n w t =>
    let count (j : Nat) : Nat :=
      ((t.hist.find? (fun e => e.1 = binOf beta t.max - (3 * ((w : Int) - 2) + j))).map (·.2)).getD 0
    (if w = 0 then leBytes 8 (ofSigned 64 t.sum) ++ zeros 4
      else if w = 1 then leBytes 12 t.sumsq
      else leBytes 4 (count 0) ++ leBytes 4 (count 1) ++ leBytes 4 (count 2)) ++ leBytes 1 (n + 32) ++ leBytes 3 w
  | .leave n t => leBytes 4 t.elig ++ leBytes 4 t.visclr ++ leBytes 4 (ofSigned 32 t.max) ++ leBytes 1 (n + 64) ++ leBytes 3 t.owed

/-- CAND entries are counted at a stack's exit port: for the slot's scan (R152), and in SEL_EXIT those of unsealed slots (R157). -/
def countEntry (s : State) (p : Port) (n : Nat) (x : SlotCtx) : State :=
  let s := countPassed s p n
  match p with
  | .weevil w =>
    if x.sealed then s else { s with sel.entries := Tab.mod 0 s.sel.entries (w.val / 32) (fun k => satAdd 32 k 1) }
  | .side _ => s

/-- The poisoned sector that the exit port meets as it reads a record's entry of its identity line, and whether the log hides it. -/
def poisonedEntry (s : State) (p : Port) (c : Cand) : Option (Nat × Bool) :=
  match p with
  | .side _ => none
  | .weevil w => (s.block (blockKey w.val (bits c.vid.toNat 0 19))).bind (fun b =>
    (((List.range 10).filterMap (fun i => identPlace s (hIdent b.hdr + 68 * bits c.vid.toNat 19 8 / 8 + i))).find? (fun a =>
      s.hbm.poisoned.contains (a / 32))).map (fun a => (a, hSealed b.hdr)))

/-- The exit port's read of the identity line is uncorrectable: it is logged, and the slot's command completes with FAULT (10 R344). -/
def lineFault (s : State) (n a : Nat) (hide : Bool) : State := slotFault (readFinding s 7 a (some 0) hide .clean).1 n

/-- 05 R159: the selector takes a CAND entry. -/
def execChainCand (p : Port) (s : State) : Host.Outcome State Fault Refusal :=
  if unitStopped s 1 then .next s else
  .next (match portOut s p with
    | .cand n c :: _ =>
      let s := popPort s p
      (match (s.slot n).ctx, resolveCand s p c, poisonedEntry s p c with
       | some _, some _, some (a, hide) => lineFault s n a hide
       | some x, some c, none => onCand (countEntry s p n x) (portHalf p * 32 + n) n x c
       | _, _, _ => s)
    | _ => s)

/-- Histograms add by absolute bin. -/
def addHist (a b : List (Int × Nat)) : List (Int × Nat) :=
  b.foldl (fun a e =>
    if a.any (fun x => x.1 = e.1) then a.map (fun x => if x.1 = e.1 then (x.1, x.2 + e.2) else x)
    else insertBy (fun x y => decide (y.1 < x.1)) e a) a

/-- The statistics of a source's STATS words (R171). -/
def Tally.addStats (t u : Tally) : Tally :=
  { t with sum := t.sum + u.sum, sumsq := t.sumsq + u.sumsq, hist := addHist t.hist u.hist }

/-- The counts of a source's LEAVE (Table 5.2). -/
def Tally.addLeave (t u : Tally) : Tally :=
  { t with elig := t.elig + u.elig, visclr := t.visclr + u.visclr, owed := t.owed + u.owed,
           max := if t.max < u.max then u.max else t.max, clip := t.clip || u.clip, integ := t.integ || u.integ }

/-- 05 R171: the selector adds one STATS word of a source. -/
def execChainStats (p : Port) (s : State) : Host.Outcome State Fault Refusal :=
  if unitStopped s 1 then .next s else
  .next (match portOut s p with
    | .stats n _ t :: _ =>
      let h := halfAt s (portHalf p * 32 + n)
      setHalf (countPassed (popPort s p) p n) (portHalf p * 32 + n) { h with tally := h.tally.addStats t }
    | _ => s)

/-! ## The halves combined (R159, R176) -/

/-- The tie count of one list (R159). -/
def SelSlot.ties (h : SelSlot) : Nat :=
  match h.held.getLast? with
  | none => 0
  | some l => if h.tieScore = some l.score then h.tieN else 0

/-- What the two halves give together. -/
structure Merged where
  held : List Cand
  ties : Nat
  total : Nat
  dups : Nat
  incs : Nat
  eqs : Nat
  integ : Bool
  dupInc : Bool
  tally : Tally
  deriving DecidableEq, Repr

/-- One entry of half B enters the union; a VID met twice is resolved by R160 with neither as side (R176, log 78), and a loser
that its half held when it last sent a threshold is R156's. -/
def unite (a b : SelSlot) (m : Merged) (e : Cand) : Merged :=
  match m.held.find? (fun d => d.vid = e.vid) with
  | none => { m with held := insertCand e m.held }
  | some d =>
    let (x, inc) := resolveDup { d with side := false } { e with side := false }
    let w := if x = { d with side := false } then d else e
    let lost := if w = d then b.atSend.contains e.vid else a.atSend.contains d.vid
    { m with held := if w = d then m.held else insertCand e (m.held.filter (fun y => y.vid ≠ e.vid)),
             dups := m.dups + 1, incs := m.incs + b2n inc, eqs := m.eqs + b2n (decide (d.version = e.version)), integ := m.integ || lost, dupInc := m.dupInc || inc }

/-- The merge rule for the two halves of slot context `x`: RANGE_TOTAL is the sum of theirs, as R176 adds it (log 78). -/
def mergeHalves (x : SlotCtx) (a b : SelSlot) : Merged :=
  let t := (a.tally.addStats b.tally).addLeave b.tally
  let m : Merged := ⟨a.held, 0, 0, 0, 0, 0, a.integ || b.integ, a.dupInc || b.dupInc, t⟩
  let m := b.held.foldl (unite a b) m
  let scan := m.held.take x.n
  let ties := match scan.getLast? with
    | none => 0
    | some l =>
      if scan.length < x.n then 0
      else
        let tail (h : SelSlot) : Nat := if h.held.getLast?.any (fun y => y.score = l.score) then h.ties else 0
        ((m.held.drop x.n).filter (fun y => y.score = l.score)).length + tail a + tail b
  { m with held := scan, ties := ties, total := a.total + b.total }

/-! ## Statistics (R168-R172) -/

/-- T[d]: the integer nearest to 2^48 * 2^(-d/16), ties to even. -/
def lseTable (d : Nat) : Nat :=
  if 784 ≤ d then 0 else (isqrt (isqrt (isqrt (isqrt (2 ^ (784 - d))))) + 1) / 2

/-- The UQ16.16 value nearest to log2(l * 2^-48): no tie can occur. -/
def lse2 (l : Nat) : Nat := (Nat.log2 (l ^ 131072) - 96 * 65536 + 1) / 2

/-- Bin counts 0 to 1,023 below u(MAX). -/
def binCounts (beta : Nat) (t : Tally) : List Nat :=
  (List.range 1024).map (fun d => ((t.hist.find? (fun e => e.1 = binOf beta t.max - d)).map (·.2)).getD 0)

def meanOf (sum : Int) (n : Nat) : Nat :=
  if n = 0 then 0 else fp64.rne ((FVal.ofInt sum).div (FVal.ofInt n))
def varOf (sum : Int) (sumsq n : Nat) : Nat :=
  if n = 0 then 0 else fp64.rne ((FVal.ofInt (n * sumsq - sum * sum)).div (FVal.ofInt (n * n)))

/-- Values that the statistics block takes from the selection rather than from the tally. -/
structure StatIn where
  total : Nat
  clipN : Nat
  clipD : Nat
  nonfinite : Nat
  ties : Nat
  scanTies : Nat
  sumSel : Int
  deriving DecidableEq, Repr

/-- The statistics block (Table 5.4), 160 bytes. -/
def statBlock (x : SlotCtx) (t : Tally) (i : StatIn) : List Byte :=
  let f (v : Nat) : Nat := if x.statsFull then v else 0
  let counts := if t.elig = 0 then [] else binCounts x.beta t
  let inside := counts.foldl (· + ·) 0
  let lsum := (counts.zipIdx.map (fun (c, d) => c * lseTable d)).foldl (· + ·) 0
  leBytes 8 t.elig ++ leBytes 8 t.visclr ++ leBytes 8 (f (t.elig - inside)) ++ leBytes 8 (if x.range then i.total else 0)
    ++ leBytes 4 (ofSigned 32 (if t.elig = 0 then -2147483648 else t.max)) ++ leBytes 4 x.beta
    ++ leBytes 4 (f (if t.elig = 0 then 0 else lse2 lsum)) ++ leBytes 4 i.clipN ++ leBytes 4 i.clipD ++ leBytes 4 i.nonfinite
    ++ leBytes 4 i.ties ++ leBytes 4 i.scanTies
    ++ leBytes 16 (f (ofSigned 128 t.sum)) ++ leBytes 16 (f t.sumsq) ++ leBytes 16 (f lsum)
    ++ leBytes 8 (f (meanOf t.sum t.elig)) ++ leBytes 8 (f (varOf t.sum t.sumsq t.elig))
    ++ leBytes 16 (f (ofSigned 128 i.sumSel)) ++ leBytes 16 (f (ofSigned 128 (t.sum - i.sumSel)))

/-! ## Result and partial-list layouts (R162, R173, R174) -/

/-- A result entry (R162). -/
def resultEntry (e : Cand × W32) (refined : Bool) : List Byte :=
  leBytes 8 e.1.vid.toNat ++ leBytes 4 e.2.toNat ++ leBytes 3 e.1.version.toNat ++ leBytes 1 (b2n refined)

/-- A padding entry (R146; its bytes 12 to 15: DESIGN CHOICE, log 116). -/
def paddingEntry : List Byte := leBytes 8 ones64 ++ leBytes 4 0x80000000 ++ zeros 4

/-- A partial-list entry (R174). -/
def partialEntry (c : Cand) (refine : Nat) (nonfinite : Bool) : List Byte :=
  leBytes 8 c.vid.toNat ++ leBytes 4 (ofSigned 32 c.score) ++ leBytes 4 refine
    ++ leBytes 3 (c.version.toNat + (b2n nonfinite) * 2 ^ 20) ++ zeros 5

/-- SCORING of Table 5.5. Widths and order of what is hashed: CID in 2 bytes, METRIC in 1, then each generation of the admitted
set in its order with tag in 1, digest in 32, MUL in 2, SH in 1 and R in 4 (log 101). -/
def scoringDigest (x : SlotCtx) (gens : List Gen) : BitVec 256 :=
  Config.shake256 (leBytes 2 x.cid.toNat ++ leBytes 1 x.params.metric
    ++ x.gens.flatMap (fun g =>
      leBytes 1 g.set.tag.toNat
        ++ leBytes 32 ((gens.find? (fun y => y.tag = g.set.tag)).map (·.digest.toNat) |>.getD 0)
        ++ leBytes 2 g.set.mul ++ leBytes 1 g.set.sh ++ leBytes 4 g.set.r.toNat))

end Sys2Proof.Machine
end

