-- ==== Sys2Proof/Machine/Refine.lean ====
section
/-! DEFINITION. From the end of a scan to the completion of a SEARCH or RANGE: refine in the Borers (06 R194-R206), the
final selection (05 R161-R167), payload reads and the result buffer (12 R417). -/

namespace Sys2Proof.Machine

/-! ## Where a flash unit lies (06 R179-R182) -/

/-- The Borer that reads a unit: its channel's; while that is out, the one that holds the row's P unit (R201); with P out too the one that
holds Q, which then rebuilds the unit (R203; DESIGN CHOICE, log 106). -/
def borerOf (s : State) (fla : Nat) : Nat :=
  if (s.channel (homeChannel s fla)).state = 0 then homeChannel s fla
  else
    let p := (rowChannels s (flaRow fla)).headD 0
    if (s.channel p).state = 0 then p else (rowChannels s (flaRow fla)).getD 1 0

/-- A unit whose channel is out is rebuilt from the other columns of its row (R201). -/
def unitOut (s : State) (fla : Nat) : Bool := (s.channel (homeChannel s fla)).state ≠ 0

/-- What a read comes to: a unit whose channel is out is lost where P, Q and the other columns of its row do not bring it
back (R180, R206). -/
def readOutcome (s : State) (fs : List Nat) (o : FlashRead) : FlashRead :=
  if fs.any (fun f => unitOut s f && (rebuildUnit s f).isNone) then .lost else o

/-- Units that needed read-retry are noted for 24 h (14 R500). -/
def noteRetried (s : State) (fs : List Nat) : State :=
  { s with flash.retried := s.flash.retried.filter (fun e => decide (s.secs < e.2 + 86400) && !fs.contains e.1) ++ fs.map (fun f => (f, s.secs)) }

/-- BOR_ERR counts of one unit's read, in the Borer that reads it: one RETRY where decoding fails, one RECON where the unit is rebuilt,
since its channel is out or the retries fail (R201, R205); none for a sealed slot (R214). -/
def countUnit (s : State) (f : Nat) (sealed : Bool) (o : FlashRead) : State :=
  let s := if o = .ok then s else noteRetried s [f]
  if sealed then s
  else s.modChannel (borerOf s f) (fun c => { c with
    retry := if o = .ok then c.retry else satAdd 16 c.retry 1,
    recon := if unitOut s f || o = .rebuilt then satAdd 16 c.recon 1 else c.recon })

/-- The counts of a read of several units whose outcome one operand gives: what it says is met at the first (log 95). -/
def countRead (s : State) (fs : List Nat) (sealed : Bool) (o : FlashRead) : State :=
  match fs with
  | [] => s
  | f :: fs => fs.foldl (fun s f => countUnit s f sealed .ok) (countUnit s f sealed o)

def srcBorer (b : Nat) : Nat := 0x72 + b

/-- Units of a slot as it stands in flash. -/
def VSlot.units (v : VSlot) : Nat := max 1 (ceilDiv (64 * ceilDiv (36 + v.vector.length) 64) 4096)

/-- A lost VID is named in an event; one of a sealed collection in the audit log only, as its digest (13 R473). -/
def noteLost (s : State) (b : Nat) (v : VSlot) : State :=
  if isSealedCid s v.cid.toNat then auditDigest s (leBytes 8 v.vid.toNat)
  else postM s 0x31 (srcBorer b) noQueue v.vid.toNat 0 0

/-- The vector slots with a unit at `fla` are lost: what their extent and their payloads need of them, PAYLOAD_LEN, stays known. -/
def loseSlots (s : State) (b fla : Nat) : State :=
  let gone := s.flash.slots.filter (fun e => e.2.any (fun v => !v.lost && decide (e.1 / 4096 ≤ fla ∧ fla < runEnd s (e.1 / 4096) v.units)))
  gone.foldl (fun s e =>
    let s := { s with flash.slots := Tab.set none s.flash.slots e.1 (e.2.map (fun v => { v with lost := true })) }
    match e.2 with
    | none => s
    | some v => noteLost s b v) s

/-- The units of a payload record: its place in the extent, and its size (R188). -/
def recordUnits (off len : Nat) : List Nat := (List.range (ceilDiv (off % 4096 + payRecBytes len) 4096)).map (fun i => off / 4096 + i)

/-- Payload records of a block whose bytes unit `i` of the payload extent holds; all of them in unit 0, where the table of offsets stands
(R188). -/
def payloadsIn (s : State) (b : Block) (i : Nat) : List W64 :=
  let as := (List.range (hCount b.hdr)).map (extentSlot s b.extent)
  let ls := payloadLens s as
  ((as.zip (ls.zip (payloadOffsets ls))).filter (fun e => e.2.1 ≠ 0 && (i = 0 || (recordUnits e.2.2 e.2.1).contains i))).map (·.1)

def losePayloadAt (s : State) (a : W64) : State := putSlot s a ((slotHeld s a).map (fun v => { v with payload := none }))

/-- The payload records with a unit at `fla` are lost: of an extent, or of slots in the staging log (log 83). -/
def losePayloads (s : State) (fla : Nat) : State :=
  let ext := s.corpus.blocks.flatMap (fun e => match e.2 with
    | none => []
    | some b =>
      let us := unitsOfRun s (bits b.extent.toNat 50 40) (payloadUnits s b.extent (hCount b.hdr))
      if us.contains fla then payloadsIn s b (us.idxOf fla) else [])
  let log := s.corpus.sides.filterMap (fun e => e.2.bind (fun x => if saFla x.slot = fla then some x.slot else none))
  (ext ++ log).foldl losePayloadAt s

/-- The backing copies with a unit at `fla` are lost: nothing is listed for them any more. -/
def loseBacking (s : State) (fla : Nat) : State :=
  { s with flash.backing := s.flash.backing.filter (fun e => !decide (e.1 ≤ fla ∧ fla < runEnd s e.1 (ceilDiv e.2.length 4096))) }

/-- A scan-form image with a unit at `fla` is written anew from the live block in HBM, where the rows still hold it (R206). -/
def renewImages (s : State) (fla : Nat) : State :=
  let hit := s.corpus.blocks.filterMap (fun e => e.2.bind (fun b => b.img.bind (fun f =>
    if decide (f ≤ fla ∧ fla < runEnd s f (imageUnits b.hdr)) then some (e.1, b) else none)))
  hit.foldl (fun s e =>
    let t := { s with flash.imgs := Tab.set none s.flash.imgs (e.2.img.getD 0) none }
    if hQuar e.2.hdr then t
    else
      let (t, b) := programImage t e.2
      t.setBlock e.1 (some b)) s

/-- A unit that cannot be rebuilt loses its data (R206): the row is named, and then each VID whose slot lies there, in whole or in
part; payload records, backing copies and images with a part there are lost with it. A lost unit of the journal is covered by the next
checkpoint. -/
def loseUnit (s : State) (b fla : Nat) : State :=
  let s := postM s 0x30 (srcBorer b) noQueue (flaRow fla) 0 0
  let s := { s with flash.rows := Tab.mod Row.initial s.flash.rows (flaRow fla) (fun r => { r with lost := true }) }
  renewImages (loseBacking (losePayloads (loseSlots s b fla) fla) fla) fla

/-- One unit of a read of the allocator's own: what the Borer meets, no operand says (log 5); with three columns of its row out it is
lost. -/
def ownUnit (sealed : Bool) (s : State) (f : Nat) : State :=
  let (d, s) := s.draw
  let o := readOutcome s [f] (if d % 3 = 0 then .ok else if d % 3 = 1 then .retried else .rebuilt)
  let s := countUnit s f sealed o
  if o = .lost then loseUnit s (borerOf s f) f else s

/-- A read of the allocator's own counts unit by unit like any other (R201, R205, R206). -/
def ownRead (s : State) (fs : List Nat) (sealed : Bool) : State := fs.foldl (ownUnit sealed) s

/-! ## The refine score (R196) -/

def refineTerm (metric : Nat) (q x : W16) : W32 :=
  let a := bfToF32 q
  let b := bfToF32 x
  if metric = 2 then sqDiff a b else f32Mul a b

/-- One segment: the strict sum from +0. -/
def segment (metric : Nat) (q x : List W16) : W32 :=
  (q.zip x).foldl (fun p e => f32Add p (refineTerm metric e.1 e.2)) 0

/-- Segments of 4,096 dimensions, the error of each addition of a segment kept apart. -/
def refineScore (metric : Nat) (q x : List W16) : W32 :=
  let n := ceilDiv q.length 4096
  let segs := ((groupsOf 4096 n q).zip (groupsOf 4096 n x)).map (fun e => segment metric e.1 e.2)
  let r := segs.tail.foldl (fun (a : W32 × W32) p =>
    let (s, c) := a
    let u := f32Add s p
    let v := f32Sub u s
    let e := f32Add (f32Sub s (f32Sub u v)) (f32Sub p v)
    (u, f32Add c e)) (segs.headD 0, 0)
  f32Add r.1 r.2

/-- A candidate's slot passes the Borer's checks (R195). -/
def slotPasses (x : SlotCtx) (v : VSlot) (vid : W64) (ver : BitVec 20) : Bool :=
  v.crc = Config.crc32c (v.head (slotSize x.params)) && v.vid = vid && v.version = ver && v.dim = x.params.dim
    && v.enc = x.params.refineEnc && cleared x.clear v.attr && predEval v.attr v.ext x.pred []

/-- Score or exclusion of a candidate. -/
def refineOne (x : SlotCtx) (v : Option VSlot) (vid : W64) (ver : BitVec 20) : Option W32 :=
  match v with
  | none => none
  | some v => if slotPasses x v vid ver then some (refineScore x.params.metric x.query (expandRefine x.params v.vector))
      else none

/-! ## Completion of a search (12 R417, R426) -/

/-- The values with which a search ends. -/
structure Final where
  entries : List (Cand × W32)
  ties : Nat
  nonfinite : Nat
  finite : Nat
  deriving DecidableEq, Repr

/-- A duration in the report: 0 where the stage did not run, else a free value (log 17). -/
def took (s : State) (ran : Bool) : Nat × State := if ran then ((s.draw).1 % 2 ^ 32, (s.draw).2) else (0, s)

/-- The report (Table 12.5). -/
def report (s : State) (c : Cmd) (j : SearchJob) (slot : Nat) : State × List Byte :=
  let (fence, s) := took s c.held
  let (pwr, s) := took s c.delayed
  let (enc, s) := took s (j.encodeProg != 0)
  let (lut, s) := took s true
  let (scan, s) := took s true
  let (ref, s) := took s j.ctx.refine
  let (rr, s) := took s (j.rerankProg != 0)
  let (pay, s) := took s j.withPayload
  let (tot, s) := took s true
  (s, leBytes 4 fence ++ leBytes 4 pwr ++ leBytes 4 enc ++ leBytes 4 lut ++ leBytes 4 scan ++ leBytes 4 ref ++ leBytes 4 rr
    ++ leBytes 4 pay ++ leBytes 4 tot ++ leBytes 4 j.boundUs ++ leBytes 1 slot ++ leBytes 1 j.rclass ++ zeros 2
    ++ leBytes 4 j.encUnits ++ leBytes 4 j.rrUnits ++ zeros 44)

/-- The payload area (R417): the table, then the payloads each on a 64-byte boundary. -/
def payloadArea (k start : Nat) (ps : List (List Byte)) : List Byte :=
  let first := start + 64 * ceilDiv (8 * k) 64
  let step (a : Nat × List Byte × List Byte) (p : List Byte) : Nat × List Byte × List Byte :=
    if p.isEmpty then (a.1, a.2.1 ++ zeros 8, a.2.2)
    else (a.1 + 64 * ceilDiv p.length 64, a.2.1 ++ leBytes 4 a.1 ++ leBytes 4 p.length,
      a.2.2 ++ padTo (64 * ceilDiv p.length 64) p)
  let r := ps.foldl step (first, [], [])
  padTo (64 * ceilDiv (8 * k) 64) r.2.1 ++ r.2.2

/-- Status and flags of a search (R163-R167, Table 5.3, Table 12.14). -/
def searchStatus (c : Cmd) (j : SearchJob) (f : Final) : Nat × Nat :=
  let k := j.ctx.k
  let t := j.tally
  let short := !j.ctx.range && decide (f.entries.length < k)
  let filter := !j.ctx.range && decide (t.elig < k ∧ k ≤ t.visclr)
  let lowFinite := j.ctx.refine && decide (k ≤ t.elig ∧ f.finite < k)
  let corpus := !j.ctx.range && (decide (t.elig < k ∧ t.visclr < k) || lowFinite)
  let integ := j.integ || t.integ || decide (t.owed ≠ 0) || decide (f.nonfinite ≠ 0) || lowFinite
  let flags := b2n filter + 2 * b2n corpus + 4 * b2n (decide (f.ties ≠ 0)) + 8 * b2n (decide (j.clipN ≠ 0) || t.clip)
    + 16 * b2n integ + 32 * b2n j.allPaced + 64 * b2n j.dupInc + delayedFlag c
  (if t.owed ≠ 0 then stIncomplete else if short then stShort else stOk, flags)

/-- Entries of the partial list (R174): every refined entry in R143 order of scan score, or the selection. A candidate that a
Borer excluded has no refine score and is left out (log 101). -/
def partialList (j : SearchJob) : List (List Byte) :=
  if j.ctx.refine then
    (sortBy (fun a b => Cand.before a.cand b.cand) j.scored).filterMap (fun r => r.score.map (fun w =>
      if f32Finite w then partialEntry r.cand w.toNat false else partialEntry r.cand 0x7FC00000 true))
  else j.result.map (fun c => partialEntry c 0 false)

/-- The search completes (12 R417, R426): its result buffer, in an envelope where it came in one, and its completion.
K of a RANGE list, which has no k, is 0, and without STATS_FULL the histogram is zeros (log 101). -/
def endSearch (s : State) (c : Cmd) (j : SearchJob) (f : Final) : State :=
  let s := noteRelease s c
  let (status, flags) := searchStatus c j f
  let sumSel := (if j.ctx.refine || j.ctx.range then j.result else j.result.take j.ctx.k).foldl (fun a e => a + e.score) 0
  let stat := statBlock j.ctx j.tally ⟨j.total, j.clipN, j.clipD, f.nonfinite, f.ties,
    if j.ctx.refine then j.scanTies else f.ties, sumSel⟩
  let slot := j.slot.getD 0
  let wait := if j.waits then (Config.slotWait c.seq).toNat else 0
  if j.partialList then
    let es := partialList j
    let stage := if j.ctx.range then 2 else if j.ctx.refine then 1 else 0
    let head := leBytes 4 0x314C504B ++ leBytes 2 1 ++ leBytes 1 flags ++ leBytes 1 status ++ leBytes 1 stage
      ++ leBytes 1 (b2n j.ctx.statsFull) ++ leBytes 2 (if j.ctx.range then 0 else j.ctx.k) ++ leBytes 4 es.length
      ++ leBytes 8 j.ctx.adm ++ leBytes 8 moduleIdent ++ leBytes 32 (scoringDigest j.ctx j.gens).toNat
    let hist := if j.ctx.statsFull && decide (j.tally.elig ≠ 0) then (binCounts j.ctx.beta j.tally).flatMap (leBytes 8)
      else zeros 8192
    finish s c status j.ctx.adm es.length flags wait (head ++ stat ++ hist ++ es.flatten)
  else
    let (s, rep) := report s c j slot
    let n := f.entries.length
    let refined := j.ctx.refine
    let es := f.entries.flatMap (fun e => resultEntry e refined)
    let pad := if j.ctx.range then [] else (List.replicate (j.ctx.k - n) paddingEntry).flatten
    let body := stat ++ rep ++ es ++ pad
    let start := 64 * ceilDiv (256 + 16 * j.ctx.k) 64
    let body := if j.withPayload then padTo start body ++ payloadArea j.ctx.k start j.payloads else body
    finish s c status j.ctx.adm n flags wait body

/-- The order of reranked candidates (07 R243): finite scores descending, the others below, then VID. -/
def rankBefore (a b : Cand × W32) : Bool :=
  match f32Finite a.2, f32Finite b.2 with
  | true, false => true
  | false, true => false
  | true, true => f32Lt b.2 a.2 || (!f32Lt a.2 b.2 && decide (a.1.vid.toNat < b.1.vid.toNat))
  | false, false => decide (a.1.vid.toNat < b.1.vid.toNat)

/-- Two scores tie; those that are not finite by their bits (DESIGN CHOICE, log 118). -/
def sameScore (a b : W32) : Bool := if f32Finite a && f32Finite b then !f32Lt a b && !f32Lt b a else a = b

/-- The first k of ranked entries, with the ties beyond the k-th. -/
def topRanked (k : Nat) (l : List (Cand × W32)) : List (Cand × W32) × Nat :=
  let top := l.take k
  (top, match top.getLast? with
    | none => 0
    | some e => if top.length < k then 0 else ((l.drop k).filter (fun y => sameScore y.2 e.2)).length)

/-- Finite refined candidates in R144 order. -/
def refinedOrder (j : SearchJob) : List (Cand × W32) :=
  sortBy rankBefore (j.scored.filterMap (fun r => r.score.bind (fun w => if f32Finite w then some (r.cand, w) else none)))

def nonfiniteCount (j : SearchJob) : Nat := (j.scored.filter (fun r => r.score.any (fun w => !f32Finite w))).length

/-- Payload reads are due: their Borers read for them. -/
def payloadsDue (s : State) : Bool := s.qau.cmds.any (fun c => c.phase = .payload)

/-- Payload reads that a search still has to make: one per returned entry, exactly K for a sealed session (13 R472). -/
def payloadReads (c : Cmd) (n k : Nat) : Nat := if c.isSealed then k else n

/-- The final selection is known: payloads are read, or the search completes. -/
def afterRank (s : State) (c : Cmd) (j : SearchJob) (es : List (Cand × W32)) (ties : Nat) : State :=
  let j := { j with final := es, tiesN := ties }
  if j.withPayload && !j.partialList && decide (payloadReads c es.length j.ctx.k ≠ 0) then
    s.setCmd { c with phase := .payload, job := .search j }
  else endSearch s c j ⟨es, ties, nonfiniteCount j, (refinedOrder j).length⟩

/-- Every refined candidate is in (05 R161): the rerank stage is asked for, or the first k are the result. -/
def refineDone (s : State) (c : Cmd) (j : SearchJob) : State :=
  if j.aborted then fail (noteRelease s c) c stAborted
  else if j.rerankProg != 0 then
    addWork (s.setCmd { c with phase := .waitEngine .rerank, job := .search j }) 1 c.seq (.stage c.seq)
  else
    let (es, ties) := topRanked j.ctx.k (refinedOrder j)
    afterRank s c j es ties

/-! ## Dispatch to the Borers -/

/-- Send one candidate to the Borer that holds the first unit of its slot. -/
def sendJob (s : State) (r : RefineJob) : State :=
  s.modChannel (borerOf s (saFla r.slot)) (fun b => { b with jobs := b.jobs ++ [r] })

/-- Slot reads of a sealed session beyond its candidates: random live slots of the collection (06 R197, 13 R472). -/
def surplusJobs (cmd size : Nat) (live : List Nat) : Nat → State → State
  | 0, s => s
  | n + 1, s =>
    let (d, s) := s.draw
    let key := live.getD (d % live.length) 0
    surplusJobs cmd size live n (sendJob s ⟨cmd, 0, 0, slotAddr (key / 4096) (key % 4096) size, true⟩)

/-- The held candidates go to the Borers. -/
def dispatchRefine (s : State) (c : Cmd) (j : SearchJob) : State :=
  let live := (s.flash.slots.filter (fun e => e.2.any (fun v => v.cid = j.ctx.cid))).map (·.1)
  let extra := if c.isSealed && !live.isEmpty then j.ctx.w - j.result.length else 0
  let j := { j with awaiting := j.result.length + extra }
  if j.awaiting = 0 then refineDone s c j
  else
    let s := s.setCmd { c with phase := .refining, job := .search j }
    let s := j.result.foldl (fun s e => sendJob s ⟨c.seq, e.vid, e.version, e.slot, false⟩) s
    surplusJobs c.seq (slotSize j.ctx.params) live extra s

/-! ## The end of a scan (05 R149) -/

/-- Every Weevil and every side-list source has left slot `n`, and none of its entries is still on its way. -/
def scanComplete (s : State) (n : Nat) (sides : List Nat) : Bool :=
  (List.range 256).all (fun w =>
    (Tab.get WSlot.free (s.weevil w).wslots n).phase = 3
      && !((s.weevil w).out ++ (s.weevil w).waiting).any (fun e => e.slotNo = n))
  && sides.all (fun e =>
    (Tab.get WSlot.free (s.engine e).lapSlots n).phase = 3 && !(s.engine e).out.any (fun y => y.slotNo = n))

/-- Duplicates met when the halves combine. -/
def noteDups (s : State) (x : SlotCtx) : Nat → Nat → Nat → State
  | 0, _, _ => s
  | d + 1, i, e => noteDups (noteDup s x (decide (0 < i)) (decide (0 < e))) x d (i - 1) (e - 1)

/-- A slot scan ends: REEL_STAT, the lifetime count, the slot freed (04 R106). -/
def endScan (s : State) (n : Nat) (sealed : Bool) : State :=
  let s := clearSlot s n
  let s := { s with reel.scans := (s.reel.scans + 1) % 2 ^ 32, life.now.scans := s.life.now.scans + 1 }
  if sealed then s
  else
    let (us, s) := s.draw
    { s with reel.lastUs := us % 2 ^ 32 }

/-- The slot's scan is complete: the halves are combined and refine, or the result, follows. -/
def scanDone (s : State) (n : Nat) (c : Cmd) (j : SearchJob) : State :=
  let x := j.ctx
  let m := mergeHalves x (halfAt s n) (halfAt s (32 + n))
  let paced := (List.range 256).all (fun w => (Tab.get WSlot.free (s.weevil w).wslots n).allPaced)
  let s := endScan (noteDups s x m.dups m.incs m.eqs) n x.sealed
  let j := { j with result := m.held, tally := m.tally, total := m.total, scanTies := m.ties, integ := m.integ,
                    dupInc := m.dupInc, allPaced := paced }
  if x.refine then dispatchRefine s c j
  else afterRank s c j (m.held.map (fun e => (e, BitVec.ofInt 32 e.score))) m.ties

/-- 05 R149: the selector records a source's LEAVE; the last one ends the slot's scan. -/
def execChainLeave (p : Port) (s : State) : Host.Outcome State Fault Refusal :=
  if unitStopped s 1 then .next s else
  .next (match portOut s p with
    | .leave n t :: _ =>
      let h := halfAt s (portHalf p * 32 + n)
      let (clip, integ) := portMarks s p n
      let s := setHalf (countPassed (popPort s p) p n) (portHalf p * 32 + n)
        { h with tally := h.tally.addLeave { t with clip := clip, integ := integ }, left := h.left + 1 }
      (match s.cmd (s.slot n).cmd with
       | some c =>
         (match c.job with
          | .search j => if (s.slot n).busy && scanComplete s n j.sideSources then scanDone s n c j else s
          | _ => s)
       | none => s)
    | _ => s)

/-! ## Borer rows -/

/-- One of a search's reads has returned. -/
def readBack (s : State) (cmd : Nat) (f : SearchJob → SearchJob) : State :=
  match s.cmd cmd with
  | none => s
  | some c =>
    match c.job with
    | .search j =>
      let j := { f j with awaiting := j.awaiting - 1 }
      if j.awaiting = 0 then refineDone s c j else s.setCmd { c with job := .search j }
    | _ => s

/-- 05 R161: the selector takes a refine score or an exclusion; the last one forms the final result. -/
def execRefineResult (b : ChannelId) (s : State) : Host.Outcome State Fault Refusal :=
  if s.pwr.state ≠ 0 then .next s else
  .next (match (s.channel b.val).results with
    | [] => s
    | r :: rest =>
      let s := s.modChannel b.val (fun c => { c with results := rest })
      readBack s r.cmd (fun j =>
        match j.result.find? (fun e => e.vid = r.vid && e.version = r.version) with
        | none => j
        | some e =>
          let w := r.score.map (fun v => if j.ctx.params.metric = 2 then v ^^^ 0x80000000#32 else v)
          { j with scored := j.scored ++ [⟨e, w⟩], integ := j.integ || w.isNone }))

/-- The payload of an entry, empty where it has none, its record fails its check or flash has lost it (06 R188). -/
def payloadOf (s : State) (cid : Nat) (e : Cand × W32) : List Byte :=
  ((payloadUnder s cid e.1.vid e.1.version e.1.slot).map (·.bytes)).getD []

/-- The payload extent that a slot's record has, its table, and the record's index; none for a slot in the staging log. -/
def payloadPlace (s : State) (a : W64) : Option (Nat × List Nat × Nat) :=
  s.corpus.blocks.findSome? (fun e => e.2.bind (fun b =>
    let as := (List.range (hCount b.hdr)).map (extentSlot s b.extent)
    if as.contains a then some (bits b.extent.toNat 50 40, payloadOffsets (payloadLens s as), as.idxOf a) else none))

/-- The unit where the offset of a slot's payload record stands: the first of its block's payload extent; for a slot in the staging log,
which has no such table, its own unit (log 83). -/
def offsetUnit (s : State) (a : W64) : Nat := ((payloadPlace s a).map (fun x => nthUnit s 0 x.1)).getD (saFla a)

/-- The units that hold the payload record of a slot: in its block's payload extent, or by its slot in the staging log (log 83). -/
def payloadFlas (s : State) (a : W64) : List Nat :=
  ((payloadPlace s a).map (fun x =>
    (recordUnits (x.2.1.getD x.2.2 0) ((payloadLens s [a]).headD 0)).map (fun i => nthUnit s i x.1))).getD [saFla a]

end Sys2Proof.Machine
end

