-- ==== Sys2Proof/Machine/Corpus.lean ====
section
/-! DEFINITION. The allocator's work on the corpus: back-fill, settlement, reclaim, merge hand-over, block moves, reload of
a quarantined block (02 R31, R46-R54, 04 R96-R103, R130, R139). -/

namespace Sys2Proof.Machine

/-! ## Back-fill (R31) -/

/-- A 64-bit field of a header becomes `c` where it stands at `unset` and refers to entry `ref`. -/
def fillField (h : Header) (pos refPos unset ref c : Nat) : Header :=
  if hget h pos 8 = unset && hget h refPos 2 = ref then hset h pos 8 c else h

def fillBlock (ref c : Nat) (b : Block) : Block :=
  let h := fillField (fillField b.hdr 8 24 0 ref c) 16 26 ones64 ref c
  if h = b.hdr then b else { b with hdr := hSign h }

def fillSide (ref c : Nat) (e : SideEnt) : SideEnt :=
  { e with fromCsn := if e.fromCsn = 0 && e.fromRef.toNat = ref then BitVec.ofNat 64 c else e.fromCsn,
           retire := if e.retire.toNat = ones64 && e.retireRef.toNat = ref then BitVec.ofNat 64 c else e.retire }

def fillEx (ref c : Nat) (x : BitVec 128) : BitVec 128 :=
  if exCsn x = 0 && exRef x = ref then mkEx c ref (exIdx x) else x

/-- Back-fill CSN `c` into every field that refers to entry `ref`, and free the entry. -/
def backfill (s : State) (ref c : Nat) : State :=
  { s with corpus.sides := Tab.mapAll none (fun e => e.map (fillSide ref c)) s.corpus.sides
           corpus.blocks := Tab.mapAll none (fun b => b.map (fillBlock ref c)) s.corpus.blocks
           corpus.excl := Tab.mapAll [] (fun xs => xs.map (fillEx ref c)) s.corpus.excl
           csn.table := Tab.set none s.csn.table ref none
           csn.mirrors := setMirrors s.csn.mirrors ref 0 }

/-- 02 R31: the allocator back-fills an issued CSN and frees its commit-table entry. -/
def execCsnBackfill (ref : BitVec 16) (s : State) : Host.Outcome State Fault Refusal :=
  if unitStopped s 2 then .next s else
  .next (match (Tab.get none s.csn.table ref.toNat).bind (·.csn) with
    | none => s
    | some c => backfill s ref.toNat c)

/-! ## Settlement (R48) -/

/-- Settle the entries of a block's list at or below CSN `a`: tombstone bits, entries freed, signatures recomputed. -/
def settleBlock (s : State) (w h a : Nat) : State :=
  match s.block (blockKey w h) with
  | none => s
  | some b =>
    let xs := exclusions s w b.hdr
    let done := xs.filter (fun x => decide (resolveEx s x ≤ a))
    let left := xs.filter (fun x => !decide (resolveEx s x ≤ a))
    if done.isEmpty then s
    else
      let hd := (done.map exIdx).foldl hSetTomb b.hdr
      let hd := hset hd 34 1 left.length
      let s := setExcl s w (hExclList b.hdr) left
      s.setBlock (blockKey w h) (some { b with hdr := hSign (if left.isEmpty then hset hd 32 2 0xFFFF else hd) })

/-- 02 R48: exclusion entries of a block at or below CSN_HORIZON are settled into its tombstone bitmap. -/
def execExclusionSettle (w : WeevilId) (h : Nat) (s : State) : Host.Outcome State Fault Refusal :=
  if unitStopped s 2 then .next s else
  .next (settleBlock s w.val h (horizon s))

/-! ## Reclaim (R27, R51, 03 R87) -/

/-- A collection is destroyed at or below CSN_HORIZON. -/
def goneColl (s : State) (cid : Nat) : Bool :=
  (s.coll cid).any (fun c => c.destroyed.any (fun x => decide (x ≤ horizon s)))

/-- Slots of an extent are freed unless another block still points at it (06 R191). -/
def freeExtent (s : State) (x : BitVec 128) (count : Nat) : State :=
  let shared := s.corpus.blocks.any (fun e => e.2.any (fun b => b.extent.toNat % 2 ^ 50 = x.toNat % 2 ^ 50))
  if shared then s
  else (List.range count).foldl (fun s r => putSlot s (extentSlot s x r) none)
    { s with flash.freeUnits := s.flash.freeUnits + extentUnits s x count }

/-! ### Scan space (14 R504) -/

/-- Scan space in service, and what the collections take of it. -/
def scanSpace (s : State) : Nat := (((List.range 256).filter (inService s)).map (liveLimit s)).foldl (· + ·) 0
def scanUsed (s : State) : Nat := ((List.range 256).map (liveBytes s)).foldl (· + ·) 0

/-- A block of the collection lies on a Weevil out of service, which can reload none. -/
def strandedColl (s : State) (cid : Nat) : Bool :=
  s.corpus.blocks.any (fun e => e.2.any (fun b => hCid b.hdr = cid) && !inService s (keyWeevil e.1))

/-- Collections in the order in which they are reloaded (16 R562): descending COLL_PRIORITY, then ascending CID. -/
def byPriority (l : List (Nat × Coll)) : List Nat :=
  (sortBy (fun a b => decide (b.2.priority < a.2.priority) || (a.2.priority = b.2.priority && decide (a.1 < b.1))) l).map (·.1)

/-- Flash-only collections whose blocks stand on Weevils in service. -/
def backOrder (s : State) : List Nat :=
  byPriority (s.corpus.colls.filterMap (fun e => e.2.bind (fun c =>
    if c.destroyed.isNone && c.flashOnly && c.keyed && !strandedColl s e.1 then some (e.1, c) else none)))

/-- Flash-only collections that fit the scan space again are to be reloaded, in that order until one does not fit. -/
def refit : List Nat → State → State
  | [], s => s
  | cid :: cids, s =>
    match s.coll cid with
    | none => s
    | some c =>
      let t := { s.setColl cid (some { c with flashOnly := false }) with mod.reload := s.mod.reload ++ [BitVec.ofNat 16 cid] }
      if scanUsed t ≤ scanSpace t then refit cids t else s

/-- Scan space has been freed (R504). -/
def refitColls (s : State) : State := refit (backOrder s) s

/-- A generation whose last copy has been RECLAIMED is live no more (03 R87). -/
def dropGens (s : State) (cid : Nat) : State :=
  match s.coll cid with
  | none => s
  | some c => s.setColl cid (some { c with gens := liveGens s cid c })

def reclaimSide (s : State) (n : Nat) : State :=
  match s.side n with
  | none => s
  | some e =>
    if resolveRetire s e.retire.toNat e.retireRef.toNat ≤ horizon s || goneColl s e.cid.toNat then
      dropGens (freeRing (noteFill (releaseChunks ((putSlot s e.slot none).setSide n none)))) e.cid.toNat
    else s

/-- A block is reclaimed at the horizon, or with its collection (02 R51); nothing else holds that back. Its extents and its image are
freed, and the scan space goes to what waits for it. -/
def reclaimBlock (s : State) (w h : Nat) : State :=
  match s.block (blockKey w h) with
  | none => s
  | some b =>
    if resolveRetire s (hRetire b.hdr) (hRetireRef b.hdr) ≤ horizon s || goneColl s (hCid b.hdr) then
      let s := if hExclList b.hdr = 0xFFFF then s else setExcl s w (hExclList b.hdr) []
      let s := dropImage (freeExtent (s.setBlock (blockKey w h) none) b.extent (hCount b.hdr)) b
      refitColls (dropGens s (hCid b.hdr))
    else s

/-- No storage of a collection is left. -/
def emptyColl (s : State) (cid : Nat) : Bool :=
  !(s.corpus.sides.any (fun e => e.2.any (fun x => x.cid.toNat = cid)))
  && !(s.corpus.blocks.any (fun e => e.2.any (fun b => hCid b.hdr = cid)))

/-- The CID becomes free, and the warden clears its key slot in every Borer (R27, 06 R193): with the collection's entry goes its
key pair, without which no slot of it passes a check any more. -/
def reclaimColl (s : State) (cid : Nat) : State :=
  if goneColl s cid && emptyColl s cid then
    { s.setColl cid none with flash.slots := s.flash.slots.filter (fun e => !e.2.any (fun v => v.cid.toNat = cid)) }
  else s

/-- 02 R51: storage whose retire CSN CSN_HORIZON has reached is reclaimed. -/
def execReclaim (r : Reclaimable) (s : State) : Host.Outcome State Fault Refusal :=
  if unitStopped s 2 then .next s else
  .next (match r with
    | .side n => reclaimSide s n
    | .block w h => reclaimBlock s w.val h
    | .generation cid _ => dropGens s cid.toNat
    | .collection cid => reclaimColl s cid.toNat)

/-! ## Placement (04 R96, R97, R130) -/

/-! ### Collections that do not fit (14 R504) -/

def evFlashOnly : Nat := 0x0115
def evSearchable : Nat := 0x0116
def srcMaintBlock : Nat := 0xD0

/-- Live collections that stand in scan space, in the order in which R504 takes them out of it. -/
def outOrder (s : State) : List Nat :=
  (sortBy (fun (a b : Nat × Coll) => decide (a.2.priority < b.2.priority) || (a.2.priority = b.2.priority && decide (b.1 < a.1)))
    (s.corpus.colls.filterMap (fun e => e.2.bind (fun c => if c.destroyed.isNone && !c.flashOnly then some (e.1, c) else none)))).map (·.1)

/-- Collections are marked flash-only, whole, until the rest fit. -/
def fitScan : List Nat → State → State
  | [], s => s
  | cid :: cids, s =>
    if scanUsed s ≤ scanSpace s then s
    else match s.coll cid with
      | none => fitScan cids s
      | some c => fitScan cids (collEvent (s.setColl cid (some { c with flashOnly := true, searchable := false })) evFlashOnly srcMaintBlock
          cid)

/-- The extents of a new block at a place (06 R183, R190): for its slots and, where records have payloads, for these; their units
can be written. -/
def extentsFree (s : State) (p : Params) (pl : Place) (from' : List W64) : Bool :=
  let n := slotUnits (slotSize p) from'.length
  let k := payloadSpan (payloadLens s from')
  runFree s pl.fla.toNat n && (k = 0 || (runFree s pl.pfla.toNat k
    && decide (runEnd s pl.pfla.toNat k ≤ pl.fla.toNat ∨ runEnd s pl.fla.toNat n ≤ pl.pfla.toNat)))

/-- A place can take a block of a collection as blocks on `olds` retire: header index, rows, identity line, exclusion list, the limits of
R130. -/
def placeOk (s : State) (pl : Place) (cid bytes : Nat) (needList : Bool) (olds : List Nat) : Bool :=
  let w := pl.weevil.val
  let rows := ceilDiv bytes 1024
  let held := heldBlocks s w
  inService s w && decide (pl.header < 327680)
  && held.all (fun e => e.1 ≠ pl.header && (e.1 / 8 ≠ pl.header / 8 || hCid e.2.hdr = cid))
  && decide (0x2800000 / 1024 ≤ pl.row ∧ pl.row + rows ≤ 0x46C80000 / 1024)
  && rowsScan s w pl.row rows
  && held.all (fun e => decide (pl.row + rows ≤ hRow e.2.hdr ∨ hRow e.2.hdr + rowSpan e.2.hdr ≤ pl.row))
  && identFree s w pl.ident.toNat (isSealedCid s cid)
  && s.alloc.retiredRows.all (fun r => !(r / 2 ^ 21 = w && decide (pl.row ≤ r % 2 ^ 21 ∧ r % 2 ^ 21 < pl.row + rows)))
  && (!needList || (decide (pl.excl.toNat < 8192) && held.all (fun e => hExclList e.2.hdr ≠ pl.excl.toNat)))
  && decide (liveBytes s w + 128 + bytes ≤ liveLimit s w) && balanced s cid olds (some w)

/-- No pseudo-channel has a free block for a collection: SCAN_FULL is posted (02 Table 2.6). -/
def noteFull (s : State) (cid rows : Nat) : State :=
  if (List.range 256).all (fun w => !inService s w || (freePlace s w cid rows).isNone) then
    postM s 0x21 0x04 noQueue 0 0 0
  else s

/-- A new block's header (04 Table 4.2): LIVE, valid-from by reference. -/
def newHeader (p : Params) (cid tag count pkg : Nat) (isSealed : Bool) (ref : Nat) (pl : Place) (nExcl : Nat) : Header :=
  let layout := p.format + 4 * b2n p.pq8 + 16 * p.groups
  let flags := 1 + 2 * b2n isSealed
  BitVec.ofNat 1024 (field cid 0 16 + field tag 16 8 + field layout 24 8 + field count 32 16 + field pkg 48 8
    + field flags 56 8 + field 0 64 64 + field ones64 128 64 + field ref 192 16 + field noRef 208 16
    + field pl.row 224 32 + field (if nExcl = 0 then 0xFFFF else pl.excl.toNat) 256 16 + field nExcl 272 8
    + field pl.ident.toNat 352 49)

/-- A refine extent table entry (06 R189). -/
def newExtent (p : Params) (pl : Place) : BitVec 128 :=
  BitVec.ofNat 128 (field pl.fla.toNat 0 40 + field (slotSize p / 64) 40 10 + field pl.pfla.toNat 50 40)

/-- Bytes of a block of a collection. -/
def blockBytes (p : Params) : Nat :=
  (if p.format = 0 then 2048 else if p.format = 1 then 4096 else 8192) + 2048 * p.groups

/-- Slots of records are copied as ciphertext into a new extent, in order, with their payload records behind, and the rows of both
extents are programmed before the change goes on (06 R190, R192); the units are no longer free. -/
def copySlots (s : State) (x : BitVec 128) (from' : List W64) : State :=
  let t := from'.zipIdx.foldl (fun s a => putSlot s (extentSlot s x a.2) (slotAt s a.1))
    (ownRead s (from'.flatMap (slotFlas s)) false)
  let n := slotUnits (64 * bits x.toNat 40 10) from'.length
  let k := payloadUnits t x from'.length
  programRows (programRows { t with flash.freeUnits := t.flash.freeUnits - (n + k) } (x.toNat % 2 ^ 40) n) (bits x.toNat 50 40) k

/-! ## Merge hand-over (R46, R53, R54, Table 2.5) -/

def sideLive (s : State) (e : SideEnt) : Bool := resolveRetire s e.retire.toNat e.retireRef.toNat = ones64

/-- Whether a merge of `n` entries like `f` is due (R46): the fill stands at URGENT_PCT, 256 share generation and group, or the
oldest of them has waited 1,000 ms since its issue, counted in whole seconds (log 46). -/
def mergeDue (s : State) (f : SideEnt) (n : Nat) : Bool :=
  decide (s.alloc.urgentPct ≤ sidePct s) || n = 256
  || s.corpus.sides.any (fun e => e.2.any (fun x => x.cid = f.cid && x.gen = f.gen
    && partitionGroup x.srec.attr = partitionGroup f.srec.attr
    && decide (resolveFrom s x.fromCsn.toNat x.fromRef.toNat ≠ ones64) && sideLive s x && decide (x.issued + 1 ≤ s.secs)))

/-- The entries can be merged together: issued, of one collection, generation and partition-key group, none reclaimable,
each named once, and the merge is due. -/
def mergeable (s : State) (cid : Nat) (es : List (Nat × SideEnt)) : Bool :=
  match es with
  | [] => false
  | (_, f) :: _ =>
    decide (es.length ≤ 256) && mergeDue s f es.length && noTwice (es.map (fun e => BitVec.ofNat 64 e.1))
    && es.all (fun e => e.2.cid.toNat = cid && e.2.gen = f.gen
      && partitionGroup e.2.srec.attr = partitionGroup f.srec.attr
      && decide (resolveFrom s e.2.fromCsn.toNat e.2.fromRef.toNat ≠ ones64)
      && decide (horizon s < resolveRetire s e.2.retire.toNat e.2.retireRef.toNat))

/-- Steps 1 to 4 of Table 2.5 under a free commit-table entry; headers and lists change in the same step (04 R102, log 93). -/
def handOver (s : State) (cid : Nat) (x : Coll) (es : List (Nat × SideEnt)) (pl : Place) (ref : Nat) : State :=
  let p := x.params
  let tag := (es.head?.map (fun e => e.2.gen.toNat)).getD 0
  let pkg := (es.head?.map (fun e => partitionGroup e.2.srec.attr)).getD 0
  let xs := es.zipIdx.filterMap (fun (e, i) =>
    if sideLive s e.2 then none
    else some (mkEx (if e.2.retire.toNat = ones64 then 0 else e.2.retire.toNat) e.2.retireRef.toNat i))
  let ext := newExtent p pl
  let b : Block := signBlock
    { hdr := newHeader p cid tag es.length pkg x.sealed ref pl xs.length
      recs := es.map (fun e => e.2.srec)
      ident := es.map (fun e => identOf e.2.vid e.2.version.toNat)
      extent := ext, img := none }
  let key := blockKey pl.weevil.val pl.header
  let (s, b) := programImage (copySlots s ext (es.map (fun e => e.2.slot))) b
  let s := (takeRef s ref).setBlock key (some b)
  let s := if xs.isEmpty then s else setExcl s pl.weevil.val pl.excl.toNat xs
  let s := es.foldl (fun s e =>
    if sideLive s e.2 then s.setSide e.1 (some { e.2 with retireRef := BitVec.ofNat 16 ref }) else s) s
  freeRing (commitChange s ref cid es.length (.handover key)).2

/-- 02 R53: side entries are merged into a block and handed over at a CSN. `sigOk`: the read-back of step 2 passes; if it
fails, the block is discarded and no CSN is taken (R54). -/
def execMergeHandover (cid : BitVec 16) (es : List Nat) (pl : Place) (sigOk : Bool) (s : State) :
    Host.Outcome State Fault Refusal :=
  if unitStopped s 2 then .next s else
  let ents := es.filterMap (fun n => (s.side n).map (fun e => (n, e)))
  .next (match liveColl s cid.toNat, changeRef s with
    | some x, some ref =>
      let dead := (ents.filter (fun e => !sideLive s e.2)).length
      if !(decide (ents.length = es.length) && mergeable s cid.toNat ents && sigOk && decide (dead ≤ 32)
          && extentsFree s x.params pl (ents.map (fun e => e.2.slot))) then s
      else if placeOk s pl cid.toNat (blockBytes x.params) (decide (dead ≠ 0)) [] then handOver s cid.toNat x ents pl ref
      else noteFull s cid.toNat (ceilDiv (blockBytes x.params) 1024)
    | _, _ => s)

/-! ## Block moves (R50, R54, 03 R92, 14 R502) -/

/-- A record is BANK_LIVE: neither tombstoned nor named by an exclusion. -/
def recLive (s : State) (w : Nat) (b : Block) (r : Nat) : Bool :=
  !hTomb b.hdr r && !(exclusions s w b.hdr).any (fun x => exIdx x = r)
def liveRecs (s : State) (w : Nat) (b : Block) : List Nat := (List.range (hCount b.hdr)).filter (recLive s w b)

/-- A block is live: issued and not retired. -/
def blockLive (s : State) (b : Block) : Bool :=
  hLive b.hdr && decide (resolveFrom s (hFrom b.hdr) (hFromRef b.hdr) ≠ ones64)
    && resolveRetire s (hRetire b.hdr) (hRetireRef b.hdr) = ones64

/-- The old blocks retire by reference (step 3). -/
def retireBlocks (s : State) (ks : List (Nat × Block)) (ref : Nat) : State :=
  ks.foldl (fun s k => s.setBlock k.1 (some { k.2 with hdr := hSign (hset k.2.hdr 26 2 ref) })) s

/-- A block's records re-encoded under a generation, from their refine forms (03 R72 steps 4 to 6, R73). A record whose refine slot
is lost keeps the code that it has (log 81). -/
def reencode (s : State) (p : Params) (g : Gen) (b : Block) : List ScanRec :=
  b.recs.zipIdx.map (fun (r, i) =>
    match slotUnder s (hCid b.hdr) (blockVid b i) (blockVer b i) (extentSlot s b.extent i) with
    | none => r
    | some v => scanRecOf p g.book (expandRefine p v.vector) r.attr r.ext)

/-- The new block of a move that keeps record indices: every exclusion becomes a tombstone, the extents are shared. -/
def movedBlock (s : State) (w : Nat) (b : Block) (recs : List ScanRec) (tag ref : Nat) (pl : Place) : Block :=
  let h := ((exclusions s w b.hdr).map exIdx).foldl hSetTomb b.hdr
  let h := hset (hset (hset (hset (hset h 2 1 tag) 8 8 0) 16 8 ones64) 24 2 ref) 26 2 noRef
  let h := hset (hset (hset (hset h 28 4 pl.row) 32 2 0xFFFF) 34 1 0) 44 8 pl.ident.toNat
  signBlock { b with hdr := hSetFlag h 3 false, recs := recs, extent := shareExtent b.extent }

/-- The new block of a compaction: the live records of the old ones, in new extents. -/
def compacted (s : State) (x : Coll) (ks : List (Nat × Block)) (ref : Nat) (pl : Place) : Block × List W64 :=
  let items := ks.flatMap (fun k => (liveRecs s (keyWeevil k.1) k.2).map (fun r => (k.2, r)))
  let b0 := (ks.head?.map (·.2.hdr)).getD 0
  (signBlock
    { hdr := newHeader x.params (hCid b0) (hGen b0) items.length (hPkg b0) x.sealed ref pl 0
      recs := items.map (fun i => rec256 i.1 i.2)
      ident := items.map (fun i => i.1.ident.getD i.2 0)
      extent := newExtent x.params pl, img := none },
   items.map (fun i => extentSlot s i.1.extent i.2))

/-- The old blocks suit the kind of move; compaction, re-encoding and folding yield to merging at and above URGENT_PCT (02 R44,
03 R92). -/
def moveOk (s : State) (k : MoveKind) (x : Coll) (ks : List (Nat × Block)) : Bool :=
  match ks with
  | [] => false
  | (k0, b0) :: rest =>
    ks.all (fun e => blockLive s e.2 && !hQuar e.2.hdr && hCid e.2.hdr = hCid b0.hdr)
    && (match k with
        | .compact =>
          decide (sidePct s < s.alloc.urgentPct)
          && ks.any (fun e => decide (64 ≤ hTombCount e.2.hdr))
          && ks.all (fun e => hGen e.2.hdr = hGen b0.hdr && hPkg e.2.hdr = hPkg b0.hdr)
          && (let n := (ks.map (fun e => (liveRecs s (keyWeevil e.1) e.2).length)).foldl (· + ·) 0
              decide (1 ≤ n ∧ n ≤ 256))
        | .reencode => rest.isEmpty && decide (sidePct s < s.alloc.urgentPct) && x.newest.any (fun g => g.tag.toNat ≠ hGen b0.hdr)
        | .fold => rest.isEmpty && decide (sidePct s < s.alloc.urgentPct) && !(exclusions s (keyWeevil k0) b0.hdr).isEmpty
        | .rehome => rest.isEmpty
        | .retireEmpty => rest.isEmpty && (liveRecs s (keyWeevil k0) b0).isEmpty)

/-- The move itself, under a free commit-table entry. -/
def moveBlocks (s : State) (k : MoveKind) (x : Coll) (ks : List (Nat × Block)) (pl : Option Place) (ref : Nat) : State :=
  let cid := (ks.head?.map (fun e => hCid e.2.hdr)).getD 0
  let s := takeRef s ref
  let (s, key, n) := match k, ks.head?, pl with
    | .retireEmpty, _, _ => (s, none, 0)
    | .compact, _, some pl =>
      let (b, from') := compacted s x ks ref pl
      let key := blockKey pl.weevil.val pl.header
      let (s, b) := programImage (copySlots s b.extent from') b
      (s.setBlock key (some b), some key, hCount b.hdr)
    | .reencode, some (k0, b0), some pl =>
      (match x.newest with
       | none => (s, none, 0)
       | some g =>
         let key := blockKey pl.weevil.val pl.header
         let s := ownRead s ((List.range (hCount b0.hdr)).flatMap (fun r => slotFlas s (extentSlot s b0.extent r))) false
         let (s, b) := programImage s (movedBlock s (keyWeevil k0) b0 (reencode s x.params g b0) g.tag.toNat ref pl)
         (s.setBlock key (some b), some key, hCount b0.hdr))
    | _, some (k0, b0), some pl =>
      let key := blockKey pl.weevil.val pl.header
      let (s, b) := programImage s (movedBlock s (keyWeevil k0) b0 b0.recs (hGen b0.hdr) ref pl)
      (s.setBlock key (some b), some key, hCount b0.hdr)
    | _, _, _ => (s, none, 0)
  (commitChange (retireBlocks s ks ref) ref cid n (.move key (ks.map (·.1)))).2

/-- 02 R50: blocks move under one CSN: compaction, re-encoding, folding, re-homing, or the retirement of an empty block. -/
def execBlockMove (k : MoveKind) (src : List (WeevilId × Nat)) (pl : Option Place) (sigOk : Bool) (s : State) :
    Host.Outcome State Fault Refusal :=
  if unitStopped s 2 then .next s else
  let ks := src.filterMap (fun e => (s.block (blockKey e.1.val e.2)).map (fun b => (blockKey e.1.val e.2, b)))
  let cid := (ks.head?.map (fun e => hCid e.2.hdr)).getD 0xFFFF
  .next (match liveColl s cid, changeRef s with
    | some x, some ref =>
      if !(decide (ks.length = src.length) && noTwice (ks.map (fun e => BitVec.ofNat 64 e.1)) && moveOk s k x ks
          && (sigOk || k = .retireEmpty)) then s
      else if k = .retireEmpty then (if balanced s cid (ks.map (fun e => keyWeevil e.1)) none then moveBlocks s k x ks none ref else s)
      else match pl with
        | none => s
        | some p =>
          if k = .compact && !extentsFree s x.params p (compacted s x ks ref p).2 then s
          else if placeOk s p cid (blockBytes x.params) false (ks.map (fun e => keyWeevil e.1)) then moveBlocks s k x ks (some p) ref
          else noteFull s cid (ceilDiv (blockBytes x.params) 1024)
    | _, _ => s)

/-! ## Reload of a quarantined block (04 R139) -/

/-- The lowest rows of the repair reserve that no block of Weevil `w` uses and that are not retired (14 R498). -/
def reserveRow (s : State) (w rows : Nat) : Option Nat :=
  let lo := 0x46C80000 / 1024
  let used := s.corpus.blocks.filterMap (fun e =>
    if keyWeevil e.1 = w then e.2.bind (fun b => if lo ≤ hRow b.hdr then some (hRow b.hdr, rowSpan b.hdr) else none) else none)
  let bad := s.alloc.retiredRows.filterMap (fun r => if r / 2 ^ 21 = w ∧ lo ≤ r % 2 ^ 21 then some (r % 2 ^ 21, 1) else none)
  let used := used ++ bad
  let starts := lo :: used.map (fun u => u.1 + u.2)
  (sortBy (fun a b => decide (a < b)) starts).find? (fun r =>
    decide (r + rows ≤ 0x47B00000 / 1024) && used.all (fun u => decide (r + rows ≤ u.1 ∨ u.1 + u.2 ≤ r)))

/-- The scan-form image of a block is read from flash, unit by unit (06 R205, R206). -/
def imageRead (s : State) (b : Block) : State :=
  match b.img with
  | none => s
  | some f => ownRead s (unitsOfRun s f (imageUnits b.hdr)) false

/-- The block as its image brings it back: the rows from flash, the header from the allocator map (R139); SIG_A and SIG_C are those of the
rows. -/
def reloaded (b : Block) (i : ScanImage) : Block := signBlock { b with recs := i.recs }

/-- 04 R139: a quarantined block is reloaded from its flash scan-form image, into the same rows if they pass read-back and
into the repair reserve otherwise; it keeps its header index, CSNs, tombstones and list, and takes no CSN. While no rows of the reserve are
free, or flash holds no image of it, the block stays quarantined (log 82). -/
def execBlockReload (w : WeevilId) (h : Nat) (readback : Bool) (s : State) : Host.Outcome State Fault Refusal :=
  if unitStopped s 2 then .next s else
  .next (match s.block (blockKey w.val h) with
    | none => s
    | some b =>
      if !hQuar b.hdr then s
      else
      let s := imageRead s b
      match imageUnder s b with
      | none => s
      | some i =>
        if readback then s.setBlock (blockKey w.val h) (some (reloaded b i))
        else match reserveRow s w.val (rowSpan b.hdr) with
          | none => s
          | some r => s.setBlock (blockKey w.val h) (some (reloaded { b with hdr := hset b.hdr 28 4 r } i)))

end Sys2Proof.Machine
end

