-- ==== Sys2Proof/Machine/Queues.lean ====
section
/-! DEFINITION. Queue pairs (12 R401-R410, R425, R436): doorbells, enable, disable and drain, the end of a FENCE hold. -/

namespace Sys2Proof.Machine

def srcWarden : Nat := 0xC0
def evSessionEnd : Nat := 0x0401

/-! ## Enable and disable -/

/-- A ring lies wholly in one PROT region whose ACCESS admits class 2, on a 4 KiB boundary (R401). -/
def ringPlaced (s : State) (base n : Nat) : Bool :=
  base % 4096 = 0 && (match regionOf s base with
    | none => false
    | some (g, x) => !g.raw && g.admits 2 && g.offsetOf (base + n - 1) = some (x + n - 1))

/-- Both rings pass R401. -/
def ringsPlaced (s : State) (x : Queue) : Bool :=
  decide (5 ≤ x.sqLog2.toNat ∧ x.sqLog2.toNat ≤ 10 ∧ 6 ≤ x.cqLog2.toNat ∧ x.cqLog2.toNat ≤ 12)
    && ringPlaced s x.sqBase.toNat (64 * x.sqSize) && ringPlaced s x.cqBase.toNat (32 * x.cqSize)

/-- The completions with ABORTED of the commands that were in flight at a WARM reset (R436), from CQTAIL 0 on. -/
def writeAborted (s : State) (q : Nat) : List (BitVec 256) → State
  | [] => s
  | b :: rest => writeAborted (putRec s q ⟨b, none, 0, false⟩) q rest

/-- ENABLE takes effect (R402): the rings are checked, the indices reset; what a reset left is completed, and fetch and
the writing of events begin. -/
def enableQueue (s : State) (q : Nat) : State :=
  let x := s.queue q
  if ringsPlaced s x then
    let s := s.modQueue q (fun y => { y with
      enable := true, draining := false, reEnable := false, tail := 0, head := 0, sqHead := 0, cqTail := 0,
      phase := true, err := 0, stopped := false, tags := 0, atReset := [] })
    let s := writeAborted s q x.atReset
    let s := if x.ien && !x.atReset.isEmpty then raiseVector s x.intv.toNat else s
    fetch (flushRing s q) q
  else s.modQueue q (fun y => { y with err := 1 })

/-- The session of a queue ends with its drain (R410, 13 R457, R458). -/
def endSession (s : State) (q : Nat) : State :=
  let n := (s.queue q).session.toNat
  let s := s.modQueue q (fun y => { y with session := 0xFFF#12 })
  match s.session n with
  | none => s
  | some k => postM (s.setSession n none) evSessionEnd srcWarden q n (k.ending.getD 0) q

/-- The last completion of a drain is written (R403): ENABLE reads 0, q events still held are dropped and counted
(R433), the session ends, a pending enable takes effect. -/
def endDrain (s : State) (q : Nat) : State :=
  let x := s.queue q
  let n := x.held.length
  let s := countLost (s.modQueue q (fun y => { y with
    enable := false, draining := false, reEnable := false, held := [], lost := y.lost + n })) n
  let s := endSession s q
  if x.reEnable then enableQueue s q else s

/-- Fields of a QAU_QCFGq write other than ENABLE (R402): ring sizes only while ENABLE reads 0, MAINT unless locked. -/
def qcfgFields (s : State) (q : Nat) (v : Nat) : State :=
  s.modQueue q (fun y => { y with
    intv := BitVec.ofNat 11 (bits v 41 11), ien := bit v 40,
    cqLog2 := if y.enable then y.cqLog2 else BitVec.ofNat 4 (bits v 36 4),
    sqLog2 := if y.enable then y.sqLog2 else BitVec.ofNat 4 (bits v 32 4),
    maint := if openField s (csrDpa 1 (0x10000 + 0x40 * q)) 1 1 then bit v 1 else y.maint })

/-- ENABLE written 1 (R402, R403). -/
def writeEnable (s : State) (q v : Nat) : State :=
  let x := s.queue q
  let s := qcfgFields s q v
  if x.draining then s.modQueue q (fun y => { y with reEnable := true })
  else if x.enable then s
  else enableQueue s q

/-- ENABLE written 0 (R403): fetch stops, and the drain begins; with nothing in flight it ends at once. -/
def writeDisable (s : State) (q v : Nat) : State :=
  let x := s.queue q
  let s := qcfgFields s q v
  if !x.enable then s
  else if x.tags = 0 then endDrain (s.modQueue q (fun y => { y with draining := true, reEnable := false })) q
  else s.modQueue q (fun y => { y with draining := true, reEnable := false })

/-- 12 R402: QAU_QCFGq is written with ENABLE 1. -/
def execQueueEnable (q : QueueId) (v : W64) (s : State) : Host.Outcome State Fault Refusal :=
  .next (if blockOff s 0x01 then s else writeEnable s q.val v.toNat)

/-- 12 R403: QAU_QCFGq is written with ENABLE 0. -/
def execQueueDisable (q : QueueId) (v : W64) (s : State) : Host.Outcome State Fault Refusal :=
  .next (if blockOff s 0x01 then s else writeDisable s q.val v.toNat)

/-- 12 R403: the drain of a queue ends once no tag is busy. -/
def execQueueDrainEnd (q : QueueId) (s : State) : Host.Outcome State Fault Refusal :=
  let x := s.queue q.val
  .next (if x.draining && x.tags = 0 then endDrain s q.val else s)

/-! ## Doorbells -/

/-- 12 R404: TAIL is written, and the QAU fetches up to it; an index at or beyond the ring sets ERR to 2. -/
def execQauSqtail (q : QueueId) (v : W64) (s : State) : Host.Outcome State Fault Refusal :=
  let t := bits v.toNat 0 10
  .next (if blockOff s 0x01 then s
    else if (s.queue q.val).sqSize ≤ t then s.modQueue q.val (fun y => { y with err := 2 })
    else fetch (s.modQueue q.val (fun y => { y with tail := t })) q.val)

/-- 12 R404, R408: HEAD is written; records held resume in the order held, and a freed tag lets fetch go on. -/
def execQauCqhead (q : QueueId) (v : W64) (s : State) : Host.Outcome State Fault Refusal :=
  let h := bits v.toNat 0 12
  .next (if blockOff s 0x01 then s
    else if (s.queue q.val).cqSize ≤ h then s.modQueue q.val (fun y => { y with err := 2 })
    else fetch (flushRing (s.modQueue q.val (fun y => { y with head := h })) q.val) q.val)

/-! ## FENCE (R425) -/

/-- Every command of a queue fetched before number `n` has its completion written. -/
def earlierDone (s : State) (q n : Nat) : Bool :=
  !(s.qau.cmds.any (fun c => c.queue = q && decide (c.seq < n)))
    && !((s.queue q).held.any (fun r => r.done.any (· < n)))

/-- 12 R425: the command of `q` held under FENCE is released. -/
def execFenceHoldEnd (q : QueueId) (t : TagId) (s : State) : Host.Outcome State Fault Refusal :=
  .next (match s.cmdAt q.val t.val with
    | none => s
    | some c =>
      if c.phase = .fenceHeld && earlierDone s q.val c.seq then
        let c := { c with phase := .fetched }
        fetch (settleUnnamed (s.setCmd c) c) q.val
      else s)

/-! ## Answers of the mailbox (13 R441, R442) -/

def evWardenDone : Nat := 0x0400

/-- An update of Syeno has its claim, and waits for the request in hand (14 R495). -/
def syenoUpdates (s : State) : Bool :=
  s.maint.claims.any (fun e => e.2.any (fun c => c.state = 1 && (match c.act with
    | .update 4 _ _ _ _ => true
    | .refetch 4 _ => true
    | _ => false)))

/-- The response is complete: it stands in the buffer's second half, or goes to the management port that relayed the request. A
response that cannot be written makes the result FAULT (log 105). -/
def reply (s : State) (result : Nat) (body : List Byte) : State :=
  match s.warden.request with
  | none => s
  | some r =>
    let full (k : Nat) (s : State) : State := { s with warden.request := none, warden.result := k, warden.rlen := body.length,
                                                       warden.handover := s.warden.handover || syenoUpdates s }
    let bs := leBytes 4 r.type ++ leBytes 4 body.length ++ leBytes 8 r.echo.toNat ++ body
    match r.buf with
    | none => { full result s with rsp := .bytes (leBytes 1 result ++ bs) }
    | some b =>
      let (s, ok) := s.write 8 (b.toNat * 262144 + 131072) bs .clean
      let k := if ok then result else stFault
      postM (full k s) evWardenDone srcWarden noQueue r.echo.toNat k body.length

/-- A request that no type handles is answered once no hand-over runs (R442). -/
def answerBad (s : State) : State :=
  match s.warden.request with
  | some r => (match r.bad with
    | some st => if s.warden.handover then s else reply s st []
    | none => s)
  | none => s

end Sys2Proof.Machine
end

