-- ==== Sys2Proof/Machine/Hold.lean ====
section
/-! DEFINITION. The hold-up bank (15 R525, R526, R571): its energy, the limit, and the tests of its sections. -/

namespace Sys2Proof.Machine

def srcHold : Nat := 0xB2
def evHoldupLow : Nat := 0x0051
def evHoldTest : Nat := 0x0210

def sectAt (s : State) (n : Nat) : Sect := Tab.get Sect.initial s.hold.sects n
/-- The capacitance at which a section counts, in µF: 2.4 mF until its first test of the boot (R571). -/
def sectCap (s : State) (n : Nat) : Nat := if (sectAt s n).capUf = 0 then 2400 else (sectAt s n).capUf

/-- Sections in the bank and not under test. -/
def bankSections (s : State) : List Nat :=
  (List.range 6).filter (fun n => s.hold.connected.getLsbD n && s.hold.testing ≠ n + 1)

/-- Usable energy in mJ: 0.5 × C × (V² - 28²), 0 at or below 28 V; the voltage stands in units of 10 mV. -/
def bankEnergy (s : State) : Nat :=
  let c := ((bankSections s).map (sectCap s)).foldl (· + ·) 0
  let v := s.hold.bankMv
  if v ≤ 2800 then 0 else c * (v * v - 2800 * 2800) / 20000000

/-- Below the limit (R525). -/
def bankBelow (s : State) : Bool := decide (bankEnergy s < 5000) || !s.hold.charged

/-- The limit is looked at again; HOLDUP_LOW is posted on a change. -/
def noteBank (s : State) : State :=
  let b := bankBelow s
  if b = s.hold.below then s
  else postM { s with hold.below := b } evHoldupLow srcHold noQueue (b2n b) 0 0

/-- The bank reaches 42.0 V (R571). -/
def chargeBank (s : State) : State := noteBank { s with hold.charged := true, hold.bankMv := 4200 }

/-- The section that is tested next, in section order: the first of those not removed, from `nextTest` on. -/
def dueSection (s : State) : Option Nat :=
  ((List.range 6).map (fun i => (s.hold.nextTest + i) % 6)).find? (fun n => !(sectAt s n).removed)

/-- A section is isolated for its test. -/
def isolate (s : State) (n : Nat) : State := noteBank { s with hold.testing := n + 1 }

/-- A section's test ends: its figures are kept, and it is removed from the bank below 2.4 mF or above 40 mΩ (R526).
The order of the automatic tests goes on from it. -/
def sectTested (s : State) (n cap esr : Nat) (auto : Bool) : State :=
  let out := decide (cap < 2400) || decide (400 < esr)
  let s := { s with hold.testing := 0, hold.nextTest := if auto then (n + 1) % 6 else s.hold.nextTest,
                    hold.sects := Tab.set Sect.initial s.hold.sects n ⟨out || (sectAt s n).removed, esr, cap⟩,
                    hold.connected := if out then s.hold.connected &&& ~~~(1#6 <<< n) else s.hold.connected }
  noteBank (postM s evHoldTest srcHold noQueue n cap (b2n out))

end Sys2Proof.Machine
end

