-- ==== Sys2Proof/Machine/Claims.lean ====
section
/-! DEFINITION. Maintenance activities and the claim table (14 R480-R486): resources, the compatibility matrix, the limits, and
how an activity asks for its claim, starts and ends. -/

namespace Sys2Proof.Machine

/-! ## Activities (Tables 14.1-14.3) -/

/-- A test of a hold-up section, whose isolation always runs to its end (15 R522). -/
def Activity.isolates : Activity → Bool
  | .holdupTest _ => true
  | _ => false

/-- Class: 0 T, 1 U, 2 B, 3 R, 4 X, 5 A. -/
def Activity.cls : Activity → Nat
  | .update .. => 1
  | .refetch .. => 1
  | .bypass _ => 2
  | .rowRemap .. => 3
  | .rowRetire .. => 3
  | .laneRemap .. => 3
  | .flashRetire .. => 3
  | .pcRetire _ => 4
  | .stackRetire _ => 4
  | .channelRewrite _ => 4
  | .holdupTest _ => 0
  | .ieee1500 .. => 5
  | .selftest .. => 0

/-- The subop of Table 14.2; a SELFTEST has none (log 33). -/
def Activity.subop : Activity → Nat
  | .update .. => 0x0100
  | .refetch .. => 0x0101
  | .bypass _ => 0x0102
  | .rowRemap .. => 0x0110
  | .rowRetire .. => 0x0111
  | .laneRemap .. => 0x0112
  | .flashRetire .. => 0x0113
  | .pcRetire _ => 0x0120
  | .stackRetire _ => 0x0121
  | .channelRewrite _ => 0x0122
  | .holdupTest _ => 0x0130
  | .ieee1500 .. => 0x0140
  | .selftest .. => 0

/-- Resource kind and index of one unit of a part (Tables 14.3, 14.7); core boot firmware has none. -/
def unitResource (part unit : Nat) : Option (Nat × Nat) :=
  match part with
  | 1 => some (4, unit)
  | 2 => some (1, unit)
  | 3 => some (3, unit)
  | 4 => some (5, 0)
  | 5 => some (6, unit)
  | 6 => some (6, unit)
  | 7 => some (9, unit)
  | _ => none

/-- The resource that an activity claims. -/
def Activity.resource : Activity → Option (Nat × Nat)
  | .update p u _ _ _ => unitResource p u
  | .refetch p u => unitResource p u
  | .bypass ch => some (3, ch)
  | .rowRemap st p _ _ => some (1, 32 * st + p)
  | .rowRetire st p _ _ => some (1, 32 * st + p)
  | .laneRemap st _ => some (2, st)
  | .flashRetire ch _ _ => some (3, ch)
  | .pcRetire p => some (1, p)
  | .stackRetire st => some (2, st)
  | .channelRewrite ch => some (3, ch)
  | .holdupTest n => some (8, n)
  | .ieee1500 st _ _ _ _ => some (2, st)
  | .selftest t i _ => match t with
    | 0 => some (1, i)
    | 1 => some (3, i)
    | 2 => some (7, 0)
    | 3 => some (4, i)
    | _ => some (2, i)

/-- Two resources are one, or a stack covers a pseudo-channel of its own (R481). -/
def conflict (a b : Nat × Nat) : Bool :=
  a = b || (a.1 = 2 && b.1 = 1 && b.2 / 32 = a.2) || (a.1 = 1 && b.1 = 2 && a.2 / 32 = b.2)

/-! ## The matrix (Table 14.4) -/

/-- What meets a claim that conflicts with a held one. -/
inductive Verdict where
  | both
  | wait
  | pause
  | drop
  | busy
  deriving DecidableEq, Repr

/-- Row of the requested class, column of the held class. -/
def verdict (req held : Nat) : Verdict :=
  match req, held with
  | 0, _ => .busy
  | 1, 0 => .pause
  | 1, 3 => .wait
  | 1, _ => .busy
  | 2, 0 => .pause
  | 2, 3 => .wait
  | 2, _ => .busy
  | 3, 0 => .pause
  | 3, 3 => .both
  | 3, 4 => .drop
  | 3, _ => .wait
  | 4, 0 => .pause
  | 4, 4 => .drop
  | 4, _ => .wait
  | _, 3 => .wait
  | _, _ => .busy

/-- Entries that hold a claim: running, paused or ending. -/
def heldClaims (s : State) : List (Nat × Claim) :=
  s.maint.claims.filterMap (fun e => e.2.bind (fun c => if c.state = 0 then none else some (e.1, c)))
def allClaims (s : State) : List (Nat × Claim) := s.maint.claims.filterMap (fun e => e.2.map (fun c => (e.1, c)))

/-- Held claims that conflict with an activity's. -/
def rivals (s : State) (a : Activity) : List (Nat × Claim) :=
  match a.resource with
  | none => []
  | some r => (heldClaims s).filter (fun c => c.2.act.resource.any (conflict r))

/-- The verdicts over all of them: the hardest first (R484). -/
def judge (vs : List Verdict) : Verdict :=
  if vs.contains .busy then .busy else if vs.contains .drop then .drop else if vs.contains .wait then .wait
  else if vs.contains .pause then .pause else .both

/-! ## Tests that make way -/

/-- A payload read that a command is waiting for needs the Borer of a channel; which unit a sealed session reads is not known before. -/
def payloadNeeds (s : State) (ch : Nat) : Bool :=
  s.qau.cmds.any (fun c => c.phase = .payload && (match c.job with
    | .search j => c.isSealed || (j.final[j.payloads.length]?).any (fun e =>
        (if j.offsetRead then payloadFlas s e.1.slot else [offsetUnit s e.1.slot]).any (fun u => borerOf s u = ch))
    | _ => false))

/-- A begun row waits for its program on a channel (06 R183). -/
def programDue (s : State) (ch : Nat) : Bool :=
  s.flash.rows.any (fun e => e.2.begun && e.2.openRow && (rowChannels s e.1).contains ch)

/-- Something other than SELFTEST, MAINT or POWER needs the target of a self-test, which is paused as long (12 R437, 06 R213): slots in
a Weevil, a data read or a program of a Borer or anywhere in the page store, slots or laps in a stack. An engine under test is pre-empted
(11 R396). -/
def testNeeded (s : State) (a : Activity) : Bool :=
  let swept (w : Nat) : Bool := (s.weevil w).wslots.any (fun e => e.2.phase = 1 || e.2.phase = 2)
  let busy (ch : Nat) : Bool := !(s.channel ch).jobs.isEmpty || payloadNeeds s ch || programDue s ch
  match a with
  | .selftest 0 i _ => swept i
  | .selftest 1 i _ => busy i
  | .selftest 2 _ _ => (List.range 32).any busy
  | .selftest 3 _ _ => false
  | .selftest _ i _ => if i < 8 then (List.range 32).any (fun p => swept (32 * i + p)) else !s.eng.groups.isEmpty
  | _ => false

/-- STATE of an entry as it reads: a running test that makes way is paused (12 R437). -/
def Claim.stateNow (c : Claim) (s : State) : Nat := if c.state = 1 && testNeeded s c.act then 2 else c.state

/-! ## Module-wide limits (Table 14.5, R493) -/

def updating (p : Nat → Nat → Bool) (c : Nat × Claim) : Bool :=
  match c.2.act with
  | .update q u _ _ _ => p q u
  | _ => false

/-- A channel is bypassed or failed, `self` apart. -/
def channelOut (s : State) (self : Option Nat) : Bool := s.flash.channels.any (fun e => e.2.state ≠ 0 && some e.1 ≠ self)

/-- Engines of a half that have LAPOK set and do not drain, `e` apart. -/
def lapLeft (s : State) (e : Nat) : Nat :=
  ((List.range 24).filter (fun i => let k := 24 * (e / 24) + i; k ≠ e && (s.engine k).lapok && !(s.engine k).drain)).length

/-- A slot that was active at the last swap of the previous Weevil update is still in the Reel (R493). -/
def swapPending (s : State) : Bool := s.reel.slots.any (fun e => e.2.busy && s.maint.weevilSlots.contains e.2.cmd)

/-- The activity would break a limit of Table 14.5. `self`: the entry that asks, if it has one. -/
def overLimit (s : State) (a : Activity) (self : Option Nat) : Bool :=
  let started := (allClaims s).filter (fun c => some c.1 ≠ self && (c.2.state ≠ 0 || c.2.begun))
  let held := (heldClaims s).filter (fun c => some c.1 ≠ self)
  match a with
  | .bypass _ => channelOut s none
  | .update 3 u _ _ _ => channelOut s (if (s.channel u).state = 1 then some u else none)
  | .refetch 3 u => channelOut s (some u)
  | .update 1 e _ _ _ =>
    decide (2 ≤ (held.filter (updating (fun p u => p = 1 && u / 24 = e / 24))).length) || decide (lapLeft s e < 8) || strands s e
  | .update 2 _ _ _ _ => started.any (updating (fun p _ => p = 2)) || swapPending s
  | .update 4 _ _ _ _ => held.any (updating (fun p _ => p = 4)) || s.warden.debugOpen
  | .update 5 _ _ _ _ => held.any (updating (fun p _ => p = 5))
  | .stackRetire _ => held.any (fun c => match c.2.act with
    | .stackRetire _ => true
    | _ => false)
  | .holdupTest _ => held.any (fun c => match c.2.act with
    | .holdupTest _ => true
    | _ => false)
  | _ => false

/-- The outcome of an activity's request now: Table 14.4, then R485, the hold of R487 while admission is stopped, which an
activity that has begun goes through to its end, and
the wait of classes U, B and X for START_DONE (16 R563). -/
def outcome (s : State) (a : Activity) (auto : Bool) (self : Option Nat) : Verdict :=
  let v := judge ((rivals s a).map (fun c => verdict a.cls c.2.act.cls))
  if v = .busy || v = .drop then v
  else if overLimit s a self then (if auto || decide (3 ≤ a.cls ∧ a.cls ≤ 4) then .wait else .busy)
  else if (admissionStopped s && !self.any (fun n => (s.claim n).any (·.begun))) || (!s.mod.startPosted && (a.cls = 1 || a.cls = 2 || a.cls = 4)) then .wait
  else v

/-! ## Entries -/

def srcMaint : Nat := 0xD0
def evClaimStart : Nat := 0x0100
def evClaimEnd : Nat := 0x0101

/-- CLAIM_START and CLAIM_END (Table 14.11). -/
def claimEvent (s : State) (code n how : Nat) (a : Activity) : State :=
  let r := a.resource.getD (0, 0)
  postM s code srcMaint noQueue n how (r.1 + 65536 * r.2)

/-- The lowest entry free to an activity: 0-47 for MAINT; AUTO takes 48-63 first (R482). -/
def freeClaim (s : State) (auto : Bool) : Option Nat :=
  (if auto then (List.range 16).map (· + 48) ++ List.range 48 else List.range 48).find? (fun n => (s.claim n).isNone)

/-- A q event of an activity: to the queue of its command, or to the event queue when it is AUTO (R511). -/
def actEvent (s : State) (c : Claim) (code e0 e1 e2 : Nat) : State :=
  if c.auto then postM s code srcMaint noQueue e0 e1 e2 else postQ s c.queue [eventBytes code srcMaint c.queue e0 e1 e2]

/-- A channel leaves service, and once the reads in flight on it are complete the keys and slot state of its Borer are cleared, or it
rejoins (06 R201-R203, R494); one that has failed stays so (06 R204). -/
def bypassChannel (s : State) (ch : Nat) : State :=
  s.modChannel ch (fun c => if c.state = 2 then c else { c with state := 1, keys := c.keys && (!c.jobs.isEmpty || payloadsDue s) })
def rejoinChannel (s : State) (ch : Nat) : State :=
  s.modChannel ch (fun c => if c.state = 2 then c else { c with state := 0, keys := true })

def evLinkState : Nat := 0x0302
/-- A data port or M0 goes down, with every interface of it. -/
def portDown (s : State) (p : Nat) : State :=
  if p = 2 then { s with links.mgmtRate := 0, links.mgmtAddr := 0 } else s.modNetPort p (fun x => { x with up := 0, tried := false })

/-- Scan-space MB of a stack's blocks. -/
def stackMb (s : State) (st : Nat) : Nat :=
  (((List.range 32).map (fun p => liveBytes s (32 * st + p))).foldl (· + ·) 0) / 1000000

/-- What a part's unit does as its claim is taken (Table 14.7, R492, R494, R495): Syeno completes the request in hand first. -/
def startUnit (s : State) (part unit : Nat) : State :=
  match part with
  | 1 => s.modEngine unit (fun g => { g with drain := true })
  | 3 => bypassChannel s unit
  | 4 => { s with warden.handover := s.warden.request.isNone }
  | 7 => portDown s unit
  | _ => s

/-- What an activity does as it takes its claim. -/
def begin' (s : State) (a : Activity) (c : Claim) : State :=
  match a with
  | .update p u _ _ _ => startUnit s p u
  | .refetch p u => startUnit s p u
  | .bypass ch => bypassChannel s ch
  | .stackRetire st =>
    let s := postM s 0x0113 srcMaint noQueue st (stackMb s st) 0
    if st < 8 then fitScan (outOrder s) s else s
  | .pcRetire _ => fitScan (outOrder s) s
  | .holdupTest n => isolate s n
  | .selftest 3 _ _ => addWork s 3 c.cmd (.test c.cmd)
  | _ => s

/-- An entry takes its claim and runs: tests that it pauses are paused, CLAIM_START is posted. -/
def runEntry (s : State) (n : Nat) (c : Claim) : State :=
  let s := (rivals s c.act).foldl (fun s r =>
    if r.2.act.cls = 0 then
      let s := s.setClaim r.1 (some { r.2 with state := 2, pausedBy := r.2.pausedBy ++ [n] })
      match r.2.act with
      | .selftest 3 e _ => if (s.engine e).work = .test r.2.cmd then saveEncode s e else s
      | _ => s
    else s) s
  begin' (claimEvent (s.setClaim n (some { c with state := 1, begun := true })) evClaimStart n c.act.subop c.act) c.act c

/-- How a request went. -/
inductive Asked where
  | refused (s : State)
  | dropped (s : State)
  | entry (s : State) (n : Nat)
  deriving DecidableEq, Repr

/-- An activity asks for its claim (R482-R485). -/
def ask (s : State) (a : Activity) (auto : Bool) (cmd queue tag : Nat) : Asked :=
  let refuse (s : State) : Asked := .refused { s with maint.refused := satAdd 16 s.maint.refused 1 }
  match freeClaim s auto with
  | none => refuse s
  | some n =>
    let c : Claim := ⟨0, a, auto, cmd, queue, tag, [], s.secs, false⟩
    match outcome s a auto none with
    | .busy => refuse (claimEvent s evClaimEnd n 2 a)
    | .drop => .dropped { claimEvent s evClaimEnd n 1 a with maint.drops := satAdd 16 s.maint.drops 1 }
    | .wait => .entry (s.setClaim n (some c)) n
    | _ => .entry (runEntry s n c) n

/-- Hardware starts an activity: nothing waits for the answer. -/
def askAuto (s : State) (a : Activity) : State :=
  match ask s a true 0 0 0 with
  | .refused _ => s
  | .dropped s => s
  | .entry s _ => s

/-- A command's activity asks: BUSY if refused or dropped, else the command stays with its entry. -/
def askFor (s : State) (c : Cmd) (a : Activity) : State :=
  match ask s a false c.seq c.queue c.tag with
  | .refused s => fail s c stBusy
  | .dropped s => fail s c stBusy
  | .entry s n => s.setCmd { c with phase := match a with
      | .selftest .. => .selftest n
      | _ => .activity n }

/-- What paused a test has ended; with nothing else that pauses it, it resumes (R483). -/
def Claim.release (c : Claim) (n : Nat) : Claim :=
  let rest := c.pausedBy.filter (· ≠ n)
  { c with pausedBy := rest, state := if rest.isEmpty then 1 else 2 }

/-- The claim of entry `n` ends: the tests that it paused resume, CLAIM_END is posted. -/
def endClaim (s : State) (n how : Nat) : State :=
  match s.claim n with
  | none => s
  | some c =>
    let s := s.setClaim n none
    let s := (allClaims s).foldl (fun s k =>
      if k.2.pausedBy.contains n then s.setClaim k.1 (some (k.2.release n)) else s) s
    claimEvent s evClaimEnd n how c.act

/-! ## Rows of the claim table -/

/-- 14 R483: a waiting activity takes its claim once nothing keeps it, and starts; one that a held claim supersedes meanwhile is
dropped. -/
def execClaimStart (n : Fin 64) (s : State) : Host.Outcome State Fault Refusal :=
  .next (match s.claim n.val with
    | none => s
    | some c =>
      if c.state ≠ 0 then s
      else match outcome s c.act c.auto (some n.val) with
        | .both => runEntry s n.val c
        | .pause => runEntry s n.val c
        | .drop =>
          let s := { endClaim s n.val 1 with maint.drops := satAdd 16 s.maint.drops 1 }
          (match s.cmd c.cmd with
           | some k => if c.auto then s else fail s k stBusy
           | none => s)
        | _ => s)

/-- 14 R483: a MAINT activity that has waited 10 s completes with BUSY; one that has begun is not stopped (R486). -/
def execClaimWaitTimeout (n : Fin 64) (s : State) : Host.Outcome State Fault Refusal :=
  .next (match s.claim n.val with
    | none => s
    | some c =>
      if c.state = 0 && !c.begun && !c.auto && decide (c.since + 10 ≤ s.secs) && !admissionStopped s then
        let s := { endClaim s n.val 2 with maint.refused := satAdd 16 s.maint.refused 1 }
        (match s.cmd c.cmd with
         | some k => fail s k stBusy
         | none => s)
      else s)

end Sys2Proof.Machine
end

