-- ==== Sys2Proof/Machine/Operands.lean ====
section
/-! DEFINITION. Operand forms of Ocelm (07, 08): the fields of an instruction word, tile descriptors and their elements in
SRAM, the SRAM ranges and registers that an instruction touches, and the checks of R263 at issue. -/

namespace Sys2Proof.Machine

/-! ## The instruction word (R258) -/

abbrev Iw := Nat

def iOp (w : Iw) : Nat := bits w 56 8
def iWait (w : Iw) (k : Nat) : Bool := bit w (40 + k)
def iSe (w : Iw) : Bool := bit w 39
def iSig (w : Iw) : Nat := bits w 35 4
def iFd (w : Iw) : Nat := bits w 30 5
def iFa (w : Iw) : Nat := bits w 25 5
def iFb (w : Iw) : Nat := bits w 20 5
def iFc (w : Iw) : Nat := bits w 15 5
def iFn (w : Iw) : Nat := bits w 0 15
def iImm25 (w : Iw) : Int := toSigned 25 w
def iImm30 (w : Iw) : Int := toSigned 30 w
def iCnd (w : Iw) : Nat := bits w 22 3
def iOff22 (w : Iw) : Int := toSigned 22 w
/-- FA and FB of format BRA stand where REG has FD and FA. -/
def iBa (w : Iw) : Nat := iFd w
def iBb (w : Iw) : Nat := iFa w
/-- Fields of FN in the vector group. -/
def iTy (w : Iw) : Nat := bits w 11 4
def iPred (w : Iw) : Nat := bits w 8 3
def iPe (w : Iw) : Bool := bit w 7
def iSub (w : Iw) : Nat := bits w 0 7
/-- The token signalled, if any. -/
def iTok (w : Iw) : Option Nat := if iSe w then some (iSig w) else none

/-- R259's common part: SIG is zero where SE is 0. -/
def sigOk (w : Iw) : Bool := iSe w || iSig w = 0

/-- Opcodes of Table 8.3. -/
def opKnown (op : Nat) : Bool :=
  op ≤ 0x05 || (0x10 ≤ op && op ≤ 0x1C) || (0x20 ≤ op && op ≤ 0x22) || (0x30 ≤ op && op ≤ 0x36)
  || (0x40 ≤ op && op ≤ 0x43) || (0x50 ≤ op && op ≤ 0x57) || (0x60 ≤ op && op ≤ 0x64) || (0x70 ≤ op && op ≤ 0x74)
  || op = 0x80 || op = 0x90 || op = 0x91 || op = 0xA0 || op = 0xA1 || (0xB0 ≤ op && op ≤ 0xB2)
  || (0xC0 ≤ op && op ≤ 0xC2) || op = 0xD0 || op = 0xD1 || op = 0xE0 || op = 0xE1 || (0xF0 ≤ op && op ≤ 0xF2)

/-! ## Element types (07 Table 7.2) -/

/-- Bits of an element. -/
def tyW : Nat → Nat
  | 0 => 32 | 1 => 16 | 2 => 16 | 3 => 8 | 4 => 8 | 5 => 4 | 6 => 8 | 7 => 8 | 8 => 4 | 9 => 4 | 10 => 16 | 11 => 32
  | _ => 64

/-- The format of a float type; none for an integer type. -/
def tyFmt : Nat → Option Fmt
  | 0 => some fp32 | 1 => some bf16 | 2 => some fp16 | 3 => some e4m3 | 4 => some e5m2 | 5 => some e2m1 | 13 => some fp64
  | _ => none

def tyFloat (t : Nat) : Bool := (tyFmt t).isSome
def tyUnsigned (t : Nat) : Bool := t = 7 || t = 9

/-- Range of an integer type. -/
def tyMin (t : Nat) : Int := if tyUnsigned t then 0 else -(2 ^ (tyW t - 1))
def tyMax (t : Nat) : Int := if tyUnsigned t then 2 ^ tyW t - 1 else 2 ^ (tyW t - 1) - 1

/-- The integer that an element of an integer type spells, and back. -/
def tyInt (t x : Nat) : Int := if tyUnsigned t then ((x % 2 ^ tyW t : Nat) : Int) else toSigned (tyW t) x

/-- The exact value of an element of any type. -/
def tyVal (t x : Nat) : FVal :=
  match tyFmt t with
  | some f => f.dec x
  | none => .ofInt (tyInt t x)

/-! ## Register files (07 R221) -/

def Ctx.sreg (x : Ctx) (n : Nat) : W64 := if n = 0 then 0 else Tab.get 0 x.s n
def Ctx.setS (x : Ctx) (n : Nat) (v : W64) : Ctx := if n = 0 then x else { x with s := Tab.set 0 x.s n v }
def Ctx.areg (x : Ctx) (n : Nat) : W64 := Tab.get 0 x.a n
def Ctx.setA (x : Ctx) (n : Nat) (v : W64) : Ctx := { x with a := Tab.set 0 x.a n v }
def Ctx.vreg (x : Ctx) (n : Nat) : BitVec 2048 := Tab.get 0 x.v n
def Ctx.setV (x : Ctx) (n : Nat) (v : BitVec 2048) : Ctx := { x with v := Tab.set 0 x.v n v }
def Ctx.preg (x : Ctx) (n : Nat) : BitVec 256 := Tab.get 0 x.p n
def Ctx.setP (x : Ctx) (n : Nat) (v : BitVec 256) : Ctx := { x with p := Tab.set 0 x.p n v }
def Ctx.treg (x : Ctx) (n : Nat) : BitVec 128 := Tab.get 0 x.t n
def Ctx.setT (x : Ctx) (n : Nat) (v : BitVec 128) : Ctx := { x with t := Tab.set 0 x.t n v }
/-- Set bits of EF (08 R266). -/
def Ctx.flag (x : Ctx) (i : Nat) (b : Bool) : Ctx := if b then { x with ef := x.ef ||| (1#5 <<< i) } else x

/-! ## SRAM (07 R230, R231) -/

def sramSize : Nat := 0xC00000
def windowSize : Nat := 0x40000

def Ctx.sb (x : Ctx) (a : Nat) : Byte := Tab.get 0 x.sram a
def Ctx.sbytes (x : Ctx) (a n : Nat) : List Byte := (List.range n).map (fun i => x.sb (a + i))
def Ctx.setBytes (x : Ctx) (a : Nat) : List Byte → Ctx
  | [] => x
  | b :: bs => ({ x with sram := Tab.set 0 x.sram a b }).setBytes (a + 1) bs

/-- Every window of a range is live. -/
def Ctx.liveRange (x : Ctx) (lo n : Nat) : Bool :=
  n = 0 || (List.range 48).all (fun w => (x.live.getLsbD w) || !(decide (w * windowSize < lo + n) && decide (lo < (w + 1) * windowSize)))

/-- Zero-fill the windows of a mask. -/
def Ctx.zeroWindows (x : Ctx) (m : BitVec 48) : Ctx :=
  { x with sram := x.sram.filter (fun e => !(m.getLsbD (e.1 / windowSize))) }

/-! ## Tile descriptors (07 Table 7.4, R222) -/

structure Tile where
  base : Nat
  rows : Nat
  cols : Nat
  stride : Nat
  ty : Nat
  scale : Nat
  scaleBase : Nat
  rest : Nat
  deriving DecidableEq, Repr

/-- Rows and columns as counts. -/
def Tile.of (d : BitVec 128) : Tile :=
  let x := d.toNat
  ⟨bits x 0 24, bits x 24 12 + 1, bits x 36 12 + 1, bits x 48 16, bits x 64 4, bits x 68 4, bits x 72 24, bits x 96 32⟩

def Tile.rowBytes (t : Tile) : Nat := ceilDiv (t.cols * tyW t.ty) 8
/-- Bytes from the first to the last of the tile. -/
def Tile.span (t : Tile) : Nat := (t.rows - 1) * 16 * t.stride + t.rowBytes
/-- Bytes of one row's scales (log 22: SCALE 3 takes the 4-byte head of Table 3.5). -/
def Tile.scaleRow (t : Tile) : Nat :=
  match t.scale with
  | 1 => 4
  | 2 => ceilDiv t.cols 32
  | 3 => 4
  | _ => 0
def Tile.scaleSpan (t : Tile) : Nat := t.rows * t.scaleRow

/-- R222. -/
def Tile.valid (t : Tile) : Bool :=
  t.rest = 0 && t.base % 16 = 0 && t.scaleBase % 16 = 0 && t.ty ≤ 13 && t.scale ≤ 3
  && decide (t.rowBytes ≤ 16 * t.stride) && decide (t.base + t.span ≤ sramSize)
  && (t.scale = 0 || decide (t.scaleBase + t.scaleSpan ≤ sramSize))

/-- The bytes of row `r`. -/
def Tile.row (t : Tile) (x : Ctx) (r : Nat) : List Byte := x.sbytes (t.base + r * 16 * t.stride) t.rowBytes

/-- Elements of `w` bits each, element 0 lowest (4-bit elements two to a byte). -/
def unpackRow (w n : Nat) (bs : List Byte) : List Nat :=
  if w = 4 then (nibbles bs).take n else chunksOf (w / 8) n bs
def packRow (w : Nat) (xs : List Nat) : List Byte :=
  if w = 4 then packNibbles xs else xs.flatMap (fun x => leBytes (w / 8) x)

/-- Elements of row `r`. -/
def Tile.elems (t : Tile) (x : Ctx) (r : Nat) : List Nat := unpackRow (tyW t.ty) t.cols (t.row x r)
/-- Store a row of elements. -/
def Tile.setRow (t : Tile) (x : Ctx) (r : Nat) (es : List Nat) : Ctx :=
  x.setBytes (t.base + r * 16 * t.stride) (packRow (tyW t.ty) (es.take t.cols))

/-- Store rows from row `r` on. -/
def Tile.setRows (t : Tile) (x : Ctx) (r : Nat) : List (List Nat) → Ctx
  | [] => x
  | es :: rest => t.setRows (t.setRow x r es) (r + 1) rest

/-- The FP32 scale of row `r` (SCALE 1). -/
def Tile.rowScale (t : Tile) (x : Ctx) (r : Nat) : W32 := BitVec.ofNat 32 (ofLe (x.sbytes (t.scaleBase + 4 * r) 4))
/-- The power of two of the E8M0 scale of block `k` of row `r` (SCALE 2); none for the NaN code 255. -/
def Tile.blockScale (t : Tile) (x : Ctx) (r k : Nat) : FVal :=
  let b := (x.sb (t.scaleBase + r * t.scaleRow + k)).toNat
  if b = 255 then .nan else .num false 1 ((b : Int) - 127)
/-- BF16 scale and zero point of row `r` (SCALE 3). -/
def Tile.rowSz (t : Tile) (x : Ctx) (r : Nat) : FVal × Nat :=
  (bf16.dec (ofLe (x.sbytes (t.scaleBase + 4 * r) 2)), (x.sb (t.scaleBase + 4 * r + 2)).toNat)

/-! ## What an instruction touches, and its checks at issue (R263) -/

/-- A register that an instruction names: file, number, and whether it is written. -/
abbrev RegUse := RegFile × Nat × Bool
/-- A range of SRAM: first byte, length, whether it is written. -/
abbrev SramUse := Nat × Nat × Bool

/-- A tile's own range, gaps between its rows in it, and the range of its scales (R228; DESIGN CHOICE, log 117). -/
def tileUse (t : Tile) (write : Bool) : List SramUse :=
  (t.base, t.span, write) :: (if t.scaleSpan = 0 then [] else [(t.scaleBase, t.scaleSpan, false)])

/-- The checks of one instruction at issue, in R263's order, and what it touches. `shape` is the per-instruction form of a
descriptor fault, checked after R222 and the matrix state (log 23). -/
structure Plan where
  legal : Bool
  addrs : List W64
  addrOk : Bool
  tiles : List Tile
  matOk : Bool
  shape : Bool
  modeOk : Bool
  regs : List RegUse
  srams : List SramUse
  deriving DecidableEq, Repr

/-- An instruction that touches nothing but its s and a registers. -/
def Plan.front (legal : Bool) (regs : List RegUse) : Plan := ⟨legal, [], true, [], true, true, true, regs, []⟩

/-- Codes of Table 11.7. -/
def tcIllegal : Nat := 0x01
def tcAddress : Nat := 0x02
def tcDescriptor : Nat := 0x03
def tcRange : Nat := 0x04
def tcDead : Nat := 0x05
def tcMode : Nat := 0x06
def tcMatrix : Nat := 0x07
def tcHazard : Nat := 0x08
def tcSoftware : Nat := 0x09

/-- The instruction's wait set holds a record's token. -/
def waited (w : Iw) (tok : Option Nat) : Bool :=
  match tok with
  | none => false
  | some k => iWait w k

/-- R227: a register used while a record of another unit remains. -/
def regHazard (x : Ctx) (u : OcUnit) (w : Iw) (r : RegUse) : Bool :=
  x.regHaz.any (fun h => h.file = r.1 && h.idx = r.2.1 && h.unit ≠ u && !waited w h.token)

/-- R228: a range that overlaps a recorded one of another unit. -/
def sramHazard (x : Ctx) (u : OcUnit) (w : Iw) (r : SramUse) : Bool :=
  x.sramHaz.any (fun h => decide (0 < r.2.1) && decide (h.lo < r.1 + r.2.1) && decide (r.1 < h.hi) && h.unit ≠ u
    && !waited w h.token)

/-- The bytes of a range that are touched: the rows of the tile that the range spans, else all of it (R231). -/
def Plan.touched (p : Plan) (r : SramUse) : List (Nat × Nat) :=
  match p.tiles.find? (fun t => t.base = r.1 && t.span = r.2.1) with
  | some t => (List.range t.rows).map (fun i => (t.base + i * 16 * t.stride, t.rowBytes))
  | none => [(r.1, r.2.1)]

/-- The first check of R263 that fails, as its trap code. -/
def Plan.trap (p : Plan) (x : Ctx) (u : OcUnit) (w : Iw) : Option Nat :=
  if !(p.legal && sigOk w) then some tcIllegal
  else if p.addrs.any (fun a => a.toNat / 2 ^ 48 ≠ 0) || !p.addrOk then some tcAddress
  else if !p.tiles.all Tile.valid then some tcDescriptor
  else if !p.matOk then some tcMatrix
  else if !p.shape then some tcDescriptor
  else if p.srams.any (fun r => decide (sramSize < r.1 + r.2.1)) then some tcRange
  else if p.srams.any (fun r => r.2.2 && (p.touched r).any (fun t => !x.liveRange t.1 t.2)) then some tcDead
  else if !p.modeOk then some tcMode
  else if p.regs.any (regHazard x u w) || p.srams.any (sramHazard x u w) then some tcHazard
  else none

/-- Records under the tokens of a wait set are cleared (R227, R228). -/
def Ctx.clearWaited (x : Ctx) (w : Iw) : Ctx :=
  { x with regHaz := x.regHaz.filter (fun h => !waited w h.token),
           sramHaz := x.sramHaz.filter (fun h => !waited w h.token) }

/-- The records of an issued unit operation: the last use of a register by the unit replaces its earlier one; s and a
registers only where it writes them. -/
def Ctx.recordUse (x : Ctx) (u : OcUnit) (w : Iw) (p : Plan) : Ctx :=
  let rs := p.regs.filter (fun r => r.2.2 || (r.1 ≠ .s && r.1 ≠ .a))
  { x with
    regHaz := x.regHaz.filter (fun h => !(h.unit = u && rs.any (fun r => r.1 = h.file && r.2.1 = h.idx)))
      ++ rs.map (fun r => ⟨u, r.1, r.2.1, r.2.2, iTok w⟩)
    sramHaz := x.sramHaz ++ (p.srams.filter (fun r => decide (0 < r.2.1))).map (fun r => ⟨u, r.1, r.1 + r.2.1, r.2.2, iTok w⟩) }

/-- An operation signals token `k`. -/
def Op.signals (o : Op) (k : Nat) : Bool := iTok o.word.toNat = some k

/-- Operations outstanding under a token: its count (R224). -/
def Ctx.tokenCount (x : Ctx) (k : Nat) : Nat := (x.ops.filter (fun o => o.signals k)).length

/-- Every operation of `os` that signals a token of the wait set of `w` has completed (R225). -/
def waitMet (os : List Op) (w : Iw) : Bool :=
  !os.any (fun o => match iTok o.word.toNat with
    | none => false
    | some k => iWait w k)

end Sys2Proof.Machine
end

