-- ==== Sys2Proof/Machine/Flags.lean ====
section
/-! DEFINITION. What an operation computes and which flag it raises: saturation, invalid operations, conversions and
stochastic rounding of Ocelm (07 R219, R220, 08 R266-R277, 09 R324, R325, R329). A result comes with its bit pattern, SAT
and INV. -/

namespace Sys2Proof.Machine

/-- A result: bits, whether it saturated, whether a NaN came from operands that are none. -/
structure Res where
  bits : Nat
  sat : Bool
  inv : Bool
  deriving DecidableEq, Repr

def Res.plain (b : Nat) : Res := ⟨b, false, false⟩

/-- The bits of EF that a result raises (Table 8.6: 0 SAT, 3 INV). -/
def Ctx.raise (x : Ctx) (r : Res) : Ctx := (x.flag 0 r.sat).flag 3 r.inv
def Ctx.raiseAll (x : Ctx) (rs : List Res) : Ctx := (x.flag 0 (rs.any (·.sat))).flag 3 (rs.any (·.inv))

/-! ## Integers (R220, R267) -/

/-- An exact integer result narrowed to an integer type, saturating. -/
def satTo (t : Nat) (v : Int) : Res :=
  ⟨ofSigned (tyW t) (clampI (tyMin t) (tyMax t) v), decide (v < tyMin t ∨ tyMax t < v), false⟩

def tyI64 : Nat := 12

/-- A shift of `w` bits: kind 0 left, 1 right, 2 right with the sign; `w` or more gives 0, or the sign repeated. -/
def shiftBits (w kind x n : Nat) : Nat :=
  match kind with
  | 0 => if w ≤ n then 0 else (x <<< n) % 2 ^ w
  | 1 => if w ≤ n then 0 else (x % 2 ^ w) >>> n
  | _ => ofSigned w (toSigned w x / 2 ^ (min n (w - 1)))

/-- DIV of 64 bits (R267); a signed quotient is rounded toward zero (DESIGN CHOICE, log 114). -/
def divide (isSigned rem : Bool) (a b : Nat) : Res :=
  if isSigned then
    let x := toSigned 64 a
    let y := toSigned 64 b
    if y = 0 then
      ⟨if rem then a else if x < 0 then ofSigned 64 (tyMin tyI64) else ofSigned 64 (tyMax tyI64), true, false⟩
    else if x = tyMin tyI64 ∧ y = -1 then ⟨if rem then 0 else ofSigned 64 (tyMax tyI64), true, false⟩
    else Res.plain (ofSigned 64 (if rem then x.tmod y else x.tdiv y))
  else if b = 0 then ⟨if rem then a else 2 ^ 64 - 1, true, false⟩
  else Res.plain (if rem then a % b else a / b)

/-- The conditions of CMP and BR: 0 EQ, 1 NE, 2 LT, 3 GE, 4 LTU, 5 GEU. -/
def condHolds (c a b : Nat) : Bool :=
  match c with
  | 0 => a = b
  | 1 => a ≠ b
  | 2 => decide (toSigned 64 a < toSigned 64 b)
  | 3 => decide (toSigned 64 b ≤ toSigned 64 a)
  | 4 => decide (a < b)
  | 5 => decide (b ≤ a)
  | _ => true

/-! ## Floats (R219, R268) -/

/-- A float result of a format, from operands. Beyond E4M3's range no rule gives the value (log 24). -/
def fRes (f : Fmt) (ops : List FVal) (v : FVal) : Res :=
  let b := if f.top = .e4m3 ∧ f.overflows v then (Config.e4m3Over v.isNeg).toNat else f.rne v
  ⟨b, false, (f.dec b).isNan && !ops.any FVal.isNan⟩

/-- Minimum and maximum: a NaN operand gives NaN, -0 is below +0. -/
def fMin (a b : FVal) : FVal :=
  match a.cmp b with
  | none => .nan
  | some c => if c < 0 then a else if 0 < c then b else if a.isNeg then a else b
def fMax (a b : FVal) : FVal :=
  match a.cmp b with
  | none => .nan
  | some c => if 0 < c then a else if c < 0 then b else if a.isNeg then b else a

/-- Conversion of a value to an integer type by rna, saturating; a NaN gives 0 (R220, R275; for FOP 9 DESIGN CHOICE, log 120). -/
def toIntRes (t : Nat) (v : FVal) : Res :=
  match v with
  | .nan => ⟨0, false, true⟩
  | .inf n => ⟨ofSigned (tyW t) (if n then tyMin t else tyMax t), true, false⟩
  | .num n m e => satTo t (rnaFin n m e)

/-- Conversion of a value to any vector type (R275): `sat` asks for saturation in BF16 and FP16. -/
def convert (t : Nat) (sat : Bool) (v : FVal) : Res :=
  match tyFmt t with
  | none => toIntRes t v
  | some f =>
    let ovf := f.overflows v
    if t = 3 ∨ t = 4 then ⟨f.rneSat v, ovf, false⟩
    else if sat && (t = 1 || t = 2) then ⟨f.rneSat v, ovf, false⟩
    else Res.plain (f.rne v)

/-- FOP (R268), functions 0 to 10, on 64-bit operands. -/
def fop (fn a b : Nat) : Res :=
  let x := fp32.dec (a % 2 ^ 32)
  let y := fp32.dec (b % 2 ^ 32)
  match fn with
  | 0 => fRes fp32 [x, y] (x.add y)
  | 1 => fRes fp32 [x, y] (x.sub y)
  | 2 => fRes fp32 [x, y] (x.mul y)
  | 3 => fRes fp32 [x, y] (x.div y)
  | 4 => fRes fp32 [x] x.sqrt
  | 5 => fRes fp32 [x, y] (fMin x y)
  | 6 => fRes fp32 [x, y] (fMax x y)
  | 7 => Res.plain (b2n (x.cmp y = some (-1)))
  | 8 => Res.plain (b2n (x.cmp y = some 0))
  | 9 => toIntRes tyI64 x
  | _ => Res.plain (fp32.rne (.ofInt (toSigned 64 a)))

/-! ## VARITH (Table 8.7) and VCMP -/

/-- A VARITH function on one element of a type. -/
def varith (t sub a b : Nat) : Res :=
  match tyFmt t with
  | some f =>
    let x := f.dec a
    let y := f.dec b
    match sub with
    | 0 => fRes f [x, y] (x.add y)
    | 1 => fRes f [x, y] (x.sub y)
    | 2 => fRes f [x, y] (x.mul y)
    | 3 => fRes f [x, y] (x.div y)
    | 4 => fRes f [x, y] (fMin x y)
    | 5 => fRes f [x, y] (fMax x y)
    | 6 => fRes f [x] x.abs
    | 7 => fRes f [x] x.neg
    | _ => fRes f [x] x.sqrt
  | none =>
    let x := tyInt t a
    let y := tyInt t b
    match sub with
    | 0 => satTo t (x + y)
    | 1 => satTo t (x - y)
    | 2 => satTo t (x * y)
    | 4 => satTo t (min x y)
    | 5 => satTo t (max x y)
    | 6 => satTo t x.natAbs
    | 7 => satTo t (-x)
    | 9 => Res.plain (a &&& b)
    | 10 => Res.plain (a ||| b)
    | 11 => Res.plain (a ^^^ b)
    | 12 => Res.plain (shiftBits (tyW t) 0 a b)
    | 13 => Res.plain (shiftBits (tyW t) 1 a b)
    | _ => Res.plain (shiftBits (tyW t) 2 a b)

/-- A VCMP condition on one element: 0 EQ, 1 NE, 2 LT, 3 LE, 4 GT, 5 GE (R274). -/
def vcmp (t sub a b : Nat) : Bool :=
  match (tyVal t a).cmp (tyVal t b) with
  | none => sub = 1
  | some c => match sub with
    | 0 => c = 0
    | 1 => c ≠ 0
    | 2 => decide (c < 0)
    | 3 => decide (c ≤ 0)
    | 4 => decide (0 < c)
    | _ => decide (0 ≤ c)

/-! ## Stochastic rounding (09 R324, R325) -/

def m64 (x : Nat) : Nat := x % 2 ^ 64

def srMix (x : Nat) : Nat :=
  let x := m64 ((x ^^^ (x >>> 31)) * 0xB5C18E6A2F93D4A7)
  let x := m64 ((x ^^^ (x >>> 29)) * 0x8F146C3BE9D50A61)
  x ^^^ (x >>> 32)

def srbits (seed tile elem : Nat) : Nat :=
  let ctr := m64 (elem <<< 40) ||| tile
  let x := srMix (ctr ^^^ seed)
  srMix (x ^^^ (m64 (seed <<< 32) ||| (seed >>> 32))) >>> 40

/-- The part of m * 2^e above `k` whole quanta of 2^q, in 1/2^24 of a quantum. -/
def srFrac (m : Nat) (e q : Int) (k : Nat) : Nat :=
  let up := (e - q + 24)
  (if 0 ≤ up then m * 2 ^ up.toNat else m / 2 ^ (-up).toNat) - k * 2 ^ 24

/-- A magnitude m * 2^e rounded down to a multiple of 2^q, with the fraction that is left. -/
def floorQ (m : Nat) (e q : Int) : Nat × Nat :=
  let k := if q ≤ e then m * 2 ^ (e - q).toNat else m / 2 ^ (q - e).toNat
  (k, srFrac m e q k)

/-- VSRND of one FP32 value to a type, with its 24 random bits (R325); one beyond the range of the type is R275's. -/
def vsrnd (t b : Nat) (v : FVal) : Res :=
  match v with
  | .num n m e =>
    match tyFmt t with
    | some f =>
      if m = 0 then Res.plain (f.rne v)
      else
        let q := max f.emin (e + Nat.log2 m - f.mbits)
        let (k, fr) := floorQ m e q
        let lo := (q - f.emin).toNat * 2 ^ f.mbits + k
        let exact := decide (fr = 0 ∧ (q ≤ e ∨ m % 2 ^ (q - e).toNat = 0))
        -- the neighbour above in magnitude is hi of a positive value, lo of a negative one
        let away := if exact then false else if n then decide (2 ^ 24 - fr - (if srExact m e q then 0 else 1) ≤ b)
          else decide (b < fr)
        if f.maxBits < lo || (lo = f.maxBits && !exact) then convert t true v
        else Res.plain (f.signed n (if away then lo + 1 else lo))
    | none =>
      let (k, fr) := floorQ m e 0
      let exact := decide (0 ≤ e) || decide (m % 2 ^ (-e).toNat = 0)
      let away := if exact then false else if n then decide (2 ^ 24 - fr - (if srExact m e 0 then 0 else 1) ≤ b)
        else decide (b < fr)
      let top := (if n then -tyMin t else tyMax t).toNat
      if top < k || (k = top && !exact) then convert t true v
      else Res.plain (ofSigned (tyW t) (FVal.sig n (if away then k + 1 else k)))
  | _ => convert t true v
where
  /-- The fraction in 1/2^24 is exact. -/
  srExact (m : Nat) (e q : Int) : Bool := decide (0 ≤ e - q + 24) || decide (m % 2 ^ (-(e - q + 24)).toNat = 0)

/-! ## Memory-side atomics (09 R327-R329, 08 R304) -/

/-- Element type of an AMO type code: INT32, INT64, FP32, BF16. -/
def amoTy : Nat → Nat
  | 0 => 11
  | 1 => 12
  | 2 => 0
  | _ => 1

/-- The new value of an atomic, from the old bits, operand and comparand of its type. -/
def atomicOp (t op old x cmp : Nat) : Res :=
  let w := tyW t
  let o := tyInt t old
  let y := tyInt t x
  match op with
  | 0 => match tyFmt t with
    | some f => fRes f [f.dec old, f.dec x] ((f.dec old).add (f.dec x))
    | none => satTo t (o + y)
  | 1 => Res.plain (ofSigned w (min o y))
  | 2 => Res.plain (ofSigned w (max o y))
  | 3 => Res.plain (old &&& x)
  | 4 => Res.plain (old ||| x)
  | 5 => Res.plain (old ^^^ x)
  | 6 => Res.plain x
  | _ => Res.plain (if old = cmp then x else old)

end Sys2Proof.Machine
end

