-- ==== Sys2Proof/Machine/Bus.lean ====
section
/-! DEFINITION. Accesses as a pseudo-channel controller and a Weevil's command window meet them (10 R351-R361, 04 R133-R135,
09 R327-R329): reads, writes and atomics of every requester. -/

namespace Sys2Proof.Machine

/-! ## The command window (04 Table 4.9) -/

/-- Offsets of the window's areas. -/
def winResp : Nat := 0x10000
def winStatus : Nat := 0x20000
def winData : Nat := 0x21000
def winV1 : Nat := 0x80000
def v1Status : Nat := 0x80020
def v1Result : Nat := 0x82000

/-- Window offsets that no write changes: STATUS, V1_STATUS, V1_RESULT (Tables 4.9, 4.11). -/
def winReadOnly (o : Nat) : Bool :=
  (decide (winStatus ≤ o) && decide (o < winData)) || (decide (v1Status ≤ o) && decide (o < v1Status + 8))
  || (decide (v1Result ≤ o) && decide (o < v1Result + 0x400))

/-- Command entries whose OPCODE byte a write of `n` bytes at window offset `o` covers. -/
def headersIn (o n : Nat) : List Nat := (List.range 1024).filter (fun k => decide (o ≤ 64 * k) && decide (64 * k < o + n))

/-! ## Command entries (R134, R135) -/

def winOk : Nat := 0x00
def winDenied : Nat := 0x11
def winBadCmd : Nat := 0x12
def winBusy : Nat := 0x15
def winFault : Nat := 0x20

/-- The opcodes of Table 4.10. -/
def winOps : List Nat := [0x01, 0x02, 0x03, 0x04, 0x08, 0x09, 0x0A, 0x0B, 0x10, 0x11, 0x18]

/-- The command at the front of a Weevil's window is complete: response bytes 8-63, then the response header, then the entry's
OPCODE is zero (R135). -/
def respondEntry (s : State) (w status result : Nat) (body : List Byte) : State :=
  match (s.weevil w).accepted with
  | [] => s
  | (k, _, bs) :: rest =>
    let base := windowBase w
    let resp := base + winResp + 64 * k
    let s := s.setBytes (resp + 8) (padTo 56 body)
    let s := s.setBytes resp (bs.take 2 ++ leBytes 1 status ++ [0x80#8] ++ leBytes 4 result)
    (s.setByte (base + 64 * k) 0).modWeevil w (fun v => { v with accepted := rest })

/-- Commands at the front with an opcode that no row names complete with BAD_CMD (R136). -/
def settleWindow (w : Nat) : Nat → State → State
  | 0, s => s
  | n + 1, s =>
    match (s.weevil w).accepted with
    | [] => s
    | (_, _, bs) :: _ => if winOps.contains (byteAt bs 0) then s else settleWindow w n (respondEntry s w winBadCmd 0 [])

/-- The front command completes, and unlisted ones behind it. -/
def respond (s : State) (w status result : Nat) (body : List Byte) : State :=
  settleWindow w (s.weevil w).accepted.length (respondEntry s w status result body)

/-- The Weevil accepts a command entry whose header is written with a non-zero OPCODE: it reads the operands at that moment
and clears its response's DONE (R134, R135). A header written again before its command is complete is accepted once more (log 26). -/
def acceptEntry (s : State) (w r k : Nat) : State :=
  if s.byte (windowBase w + 64 * k) = 0 then s
  else
    let d := windowBase w + winResp + 64 * k + 3
    let s := (s.setByte d (s.byte d &&& 0x7F#8)).modWeevil w (fun v => { v with
      accepted := v.accepted ++ [(k, r, s.bytes (windowBase w + 64 * k) 64)] })
    settleWindow w (s.weevil w).accepted.length s

/-- V1_CTRL was written (Table 4.11): GO asks for a scan, and DONE, ERR and ABORTED are cleared (log 25). -/
def acceptV1 (s : State) (w : Nat) : State :=
  if (s.byte (windowBase w + winV1)).getLsbD 0 then
    (s.setBytes (windowBase w + v1Status) (zeros 8)).modWeevil w (fun v => { v with v1Run := true })
  else s

/-- What a write of `n` bytes at window offset `o` of Weevil `w` sets off. -/
def windowWritten (s : State) (w r o n : Nat) : State :=
  let s := (headersIn o n).foldl (fun s k => acceptEntry s w r k) s
  if o ≤ winV1 ∧ winV1 < o + n then acceptV1 s w else s

/-! ## Reads and writes -/

/-- Bytes that no rule gives a layout (the STATUS area) read as free values. -/
def drawBytes : Nat → State → List Byte × State
  | 0, s => ([], s)
  | n + 1, s =>
    let (x, s) := s.draw
    let (bs, s) := drawBytes n s
    (BitVec.ofNat 8 x :: bs, s)

/-- The window that an access of `n` bytes at `a` touches, and the number of its first byte there. -/
def winPart (s : State) (a n : Nat) : Option (Nat × Nat) :=
  match windowAt s a with
  | some w => some (w, 0)
  | none =>
    let i := windowOff - offOf a
    if i < n then (windowAt s (a + i)).map (fun w => (w, i)) else none

/-- What stands at a place of a scan-mode bank that a block's header, its rows or an exclusion list takes (04 Table 4.1). -/
def corpusByte (s : State) (a : Nat) : Option Byte :=
  let w := pchOf a
  let o := offOf a
  if decide (8 ≤ stackOf a) then none
  else if o < 0x2800000 then
    (Tab.get none s.corpus.blocks (blockKey w (o / 128))).map (fun b => byteOf b.hdr.toNat (o % 128))
  else if 0x47B00000 ≤ o ∧ o < windowOff then
    let x := o - 0x47B00000
    let l := Tab.get [] s.corpus.excl (exKey w (x / 512))
    if l.isEmpty then none else some (byteOf (l.getD (x % 512 / 16) 0).toNat (x % 16))
  else (blockOver s a).bind (fun e => (blockImage e.1)[e.2]?)
where
  byteOf (x i : Nat) : Byte := BitVec.ofNat 8 (x / 2 ^ (8 * i))

/-- What the allocator reads back of headers, blocks' rows and exclusion lists (R356). -/
def readRows (s : State) (a : Nat) (bs : List Byte) : List Byte :=
  bs.zipIdx.map (fun (b, i) => (corpusByte s (a + i)).getD b)

/-- The records that a header's rows hold, byte `o` of them being `at' o` (04 Table 4.3). -/
def recordsFrom (h : Header) (at' : Nat → Byte) : List ScanRec :=
  let f := hFormat h
  let a := if f = 0 then 2048 else if f = 1 then 4096 else 8192
  let get (o n : Nat) : List Byte := (List.range n).map (fun i => at' (o + i))
  (List.range (hCount h)).map (fun r =>
    ⟨(List.range (hGroups h)).flatMap (fun g => get (a + 2048 * g + 8 * r) 8),
      BitVec.ofNat 64 (ofLe (get (8 * r) 8)),
      if f = 0 then 0 else BitVec.ofNat 64 (ofLe (get (2048 + 8 * r) 8)),
      if f = 2 then (List.range 8).map (fun i => BitVec.ofNat 16 (ofLe (get (4096 + 16 * r + 2 * i) 2))) else []⟩)

/-- The allocator has written bytes into the rows of blocks: their records are what the rows hold now (R356). -/
def rowsWritten (s : State) (a : Nat) (bs : List Byte) : State :=
  if !isPlace a || decide (8 ≤ stackOf a) then s
  else
    let o := offOf a
    let covers (b : Block) : Bool := decide (o < 1024 * hRow b.hdr + hBlockBytes b.hdr) && decide (1024 * hRow b.hdr < o + bs.length)
    { s with corpus.blocks := (s.corpus.blocks.map (fun e =>
        (e.1, if keyWeevil e.1 = pchOf a then e.2.map (fun b =>
          if covers b then
            let img := blockImage b
            let lo := 1024 * hRow b.hdr
            { b with recs := recordsFrom b.hdr (fun i => if o ≤ lo + i then bs.getD (lo + i - o) (img.getD i 0) else img.getD i 0) }
          else b) else e.2))) }

/-- An access of the PCIe endpoint comes over a link that is up, through BAR2, which reaches the interleave aperture (16 R550). -/
def bar2Ok (s : State) (r a n : Nat) : Bool :=
  r ≠ 6 || (s.links.pcieUp && decide (0xC000000000 ≤ a) && decide (a + n ≤ 0x10000000000))

/-- A read of `n` bytes at DPA `a` by requester `r`. -/
def busRead (s : State) (r a n : Nat) (f : Finding) : State × Option (List Byte) :=
  match s.read r a n f with
  | (s, none) => (s, none)
  | (s, some bs) =>
    let bs := if r = 3 && isPlace a then readRows s a bs else bs
    match winPart s a n with
    | none => (s, some bs)
    | some (_, k) =>
      let o := offOf (a + k) - windowOff
      if winStatus < o + (n - k) ∧ o < winData then
        let (xs, s) := drawBytes n s
        (s, some ((bs.zip xs).zipIdx.map (fun (b, i) =>
          if k ≤ i && decide (winStatus ≤ o + (i - k)) && decide (o + (i - k) < winData) then b.2 else b.1)))
      else (s, some bs)

/-- A write at DPA `a` by requester `r`. Accesses to a window take effect in the order they come (log 16). V1_CTRL and V1_LUT,
which Table 4.11 gives as written, read back what was written (log 26). -/
def busWrite (s : State) (r a : Nat) (bs : List Byte) (f : Finding) : State × Bool :=
  match winPart s a bs.length with
  | none =>
    (match s.write r a bs f with
     | (s, true) => (if r = 3 then rowsWritten s a bs else s, true)
     | (s, false) => (s, false))
  | some (w, k) =>
    let o := offOf (a + k) - windowOff
    let bs' := bs.zipIdx.map (fun (b, i) => if k ≤ i && winReadOnly (o + (i - k)) then s.byte (a + i) else b)
    match s.write r a bs' f with
    | (s, false) => (s, false)
    | (s, true) => (windowWritten s w r o (bs.length - k), true)

/-! ## Atomics -/

/-- Bytes of an atomic's operand. -/
def amoBytes (ty : Nat) : Nat := tyW (amoTy ty) / 8

/-- Float types allow ADD and SWAP alone (08 R304). -/
def amoOk (ty op : Nat) : Bool := ty ≤ 3 && op ≤ 7 && (ty ≤ 1 || op = 0 || op = 6)

/-- An atomic at an aligned address: the old bits and whether an integer ADD saturated; none on an access error, in a command
window or a scan-mode bank (R327), or on an uncorrectable read. -/
def busAtomic (s : State) (r a ty op x cmp : Nat) : State × Option Res :=
  let n := amoBytes ty
  if (windowAt s a).isSome || (isPlace a && inScanMode s a) then (accessError s r (some (stackOf a)) a (sealedPlace s a), none)
  else match s.read r a n .clean with
    | (s, none) => (s, none)
    | (s, some bs) =>
      let old := ofLe bs
      let v := atomicOp (amoTy ty) op old (x % 2 ^ (8 * n)) (cmp % 2 ^ (8 * n))
      match s.write r a (leBytes n v.bits) .clean with
      | (s, true) => (s, some ⟨old, v.sat, v.inv⟩)
      | (s, false) => (s, none)

end Sys2Proof.Machine
end

