-- ==== Sys2Proof/Machine/Issue.lean ====
section
/-! DEFINITION. The front end of a tensor engine (07 R223-R229, 08 R258-R265): the next instruction, what holds it back, its
checks, its trap, and its issue to a unit's queue. -/

namespace Sys2Proof.Machine

/-! ## The context on an engine -/

/-- The context that runs on engine `e` and may issue: in Run alone (15 Table 15.2). -/
def runningOn (s : State) (e : Nat) : Option (Nat × Ctx) :=
  match (s.engine e).work with
  | .context c => if s.pwr.state ≠ 0 then none else (s.ctx c).bind (fun x => if x.st = .running e && !x.ended && x.trapRec.isNone then some (c, x) else none)
  | _ => none

/-- A search stage's program (07 R235). -/
def Ctx.isStage (x : Ctx) : Bool :=
  match x.owner with
  | .stage _ _ => true
  | .maint _ => false

/-- Where an area of a stage lies, on a page boundary (07 R237; log 14). -/
def stageAt (role : Nat) : Nat := (Config.stageVa role).toNat / 0x200000 * 0x200000

/-- Address of the image's first word (R260): a stage's own area, 0 for a MAINT program (log 14). -/
def Ctx.base (x : Ctx) : Nat := if x.isStage then stageAt 0 else 0

/-- An address of the image: aligned, inside. -/
def Ctx.inImage (x : Ctx) (a : Nat) : Bool :=
  a % 8 = 0 && decide (x.base ≤ a) && decide (a < x.base + 8 * x.image.length)

/-- The image's word at an address. -/
def Ctx.wordAt (x : Ctx) (a : Nat) : Option W64 :=
  if x.inImage a then x.image[(a - x.base) / 8]? else none

/-- The address `n` words from the current instruction; none below zero. -/
def Ctx.rel (x : Ctx) (n : Int) : Nat := ((x.pc : Int) + 8 * n).toNat
def Ctx.relOk (x : Ctx) (n : Int) : Bool := decide (0 ≤ (x.pc : Int) + 8 * n) && x.inImage (x.rel n)

/-- The instructions that the budget allows (07 R239), in issued instructions. -/
def Ctx.limit (x : Ctx) : Nat := x.budget * 2 ^ 20
/-- The budget is reached; a budget of 0 stands for none. -/
def Ctx.spent (x : Ctx) : Bool := decide (x.budget ≠ 0 ∧ x.limit ≤ x.count)

/-! ## The end of a context -/

/-- A command ends before its work is done: what waits or holds a slot for it goes, and it completes with a status. -/
def dropCmd (s : State) (c : Cmd) (st : Nat) : State :=
  let s := { s with eng.work := s.eng.work.filter (fun w =>
    !(w.work = .lutStd c.seq || w.work = .stage c.seq || w.work = .encode c.seq || w.work = .test c.seq)) }
  let s := match c.job with
    | .search j =>
      let s := if c.phase = .powerHeld || c.phase = .fenceHeld || c.phase = .fetched then s else noteRelease s c
      (match j.slot with
       | some n => clearSlot s n
       | none => s)
    | _ => s
  fail s c st

/-- The backing copies of an address space's pages are given up. -/
def dropBacking (s : State) (ps : List Page) : State :=
  ps.foldl (fun s p => if p.backed then
      { s with flash.backing := Tab.set [] s.flash.backing p.fla.toNat [], flash.backingBytes := s.flash.backingBytes - p.size }
    else s) s

/-- The frames of a sealed stage are zero-filled before anything else can have them (13 R478). -/
def clearFrames (s : State) (x : Ctx) : State :=
  if x.isSealed then x.pages.foldl (fun s p => match p.frame with
    | some f => zeroRange s f p.size
    | none => s) s
  else s

/-- A context ends: its record goes with its address space, its engine is free, nothing waits for it. -/
def endContext (s : State) (c : Nat) : State :=
  let s := ((s.ctx c).map (clearFrames s)).getD s
  let s := dropBacking s (((s.ctx c).map (·.pages)).getD [])
  let s := match s.ctx c with
    | some x => (match x.st with
      | .running e => s.modEngine e (fun g => { g with work := .idle })
      | _ => s)
    | none => s
  { s.setCtx c none with eng.work := s.eng.work.filter (fun w => w.work ≠ .context c) }

def srcSched : Nat := 0x62
def evMaintTrap : Nat := 0x0010
def evMaintTrapVa : Nat := 0x0011

/-- Number of a unit in the trap record (11 Table 11.8). -/
def unitNum : OcUnit → Nat
  | .front => 0 | .vector => 1 | .matrix => 2 | .expansion => 3 | .lut => 4 | .selection => 5 | .reduction => 6 | .dma => 7

/-- The two records that report a trap of a MAINT program (11 R385, 12 Table 12.16). -/
def trapEvents (q c : Nat) (t : TrapRec) : List (BitVec 256) :=
  [eventBytes evMaintTrap srcSched q t.pc t.info (t.code + 256 * unitNum t.unit + 65536 * c),
   eventBytes evMaintTrapVa srcSched q t.va t.offset c]

/-- A context traps (11 R383-R385): a stage ends and its command completes with FAULT; a MAINT program is held as TRAPPED,
its engine is free, and its queue learns of it. -/
def trapCtx (s : State) (c : Nat) (x : Ctx) (t : TrapRec) : State :=
  let s := match x.st with
    | .running e => s.modEngine e (fun g => { g with fault := t.code })
    | _ => s
  match x.owner with
  | .stage cmd _ =>
    let s := endContext s c
    (match s.cmd cmd with
     | some k => dropCmd s k stFault
     | none => s)
  | .maint q =>
    let s := match x.st with
      | .running e => s.modEngine e (fun g => { g with work := .idle })
      | _ => s
    postQ (s.setCtx c (some { x with st := .trapped s.secs, trapRec := some t, saved := true, lastFault := t.code })) q (trapEvents q c t)

/-! ## One turn of the front end (R262, R263) -/

/-- What the front end does with the next instruction of an engine's context. -/
inductive Turn where
  | idle
  | trap (c : Nat) (x : Ctx) (code : Nat) (info : Nat)
  | go (c : Nat) (x : Ctx) (w : Iw)
  deriving DecidableEq, Repr

/-- Both hazard records emptied (R310). -/
def Ctx.noRecords (x : Ctx) : Ctx := { x with regHaz := [], sramHaz := [] }

/-- The record of ranges is full and the instruction touches SRAM: a full fence goes first (R228). -/
def fenceFirst (x : Ctx) (p : Plan) : Bool := decide (256 ≤ x.sramHaz.length) && !p.srams.isEmpty

/-- A unit takes no further instruction: its queue holds 64, or the DMA unit's store 1,024 in flight (R262). The DMA unit takes operations
from its queue in order, each once its wait set is satisfied (R223, R225). -/
def unitFull (x : Ctx) (u : OcUnit) : Bool :=
  let mine := x.ops.zipIdx.filter (fun e => e.1.unit = u)
  let flying := if u = .dma then ((mine.takeWhile (fun e => waitMet (x.ops.take e.2) e.1.word.toNat)).take 1024).length else 0
  decide (1024 ≤ flying) || decide (64 ≤ mine.length - flying)

/-- The s register that an operation writes; 0 for none (VEXT, PCNT, THRC, TOPK, AMO). -/
def Op.putsS (o : Op) : Nat :=
  let w := o.word.toNat
  match iOp w with
  | 0x56 => iFd w
  | 0x64 => iFd w
  | 0xA0 => iFc w
  | 0xA1 => iFb w
  | 0xD0 => if bit w 6 then 0 else iFd w
  | _ => 0

/-- An operation that is not complete writes an s register that the instruction reads at issue (R227): no early value is supplied. -/
def operandDue (x : Ctx) (p : Plan) : Bool :=
  p.regs.any (fun r => r.1 = .s && !r.2.2 && x.ops.any (fun o => o.putsS = r.2.1 && r.2.1 ≠ 0))

/-- The next instruction is not issued yet: a token's count stands at 63 (R224), its unit's queue is full (R262), a full fence
waits (R228), an operand of a unit's instruction is still to come (R227), or it is the front end's own and its wait set is not
satisfied (R225). -/
def stalled (x : Ctx) (u : OcUnit) (w : Iw) (p : Plan) : Bool :=
  (match iTok w with
   | some k => decide (63 ≤ x.tokenCount k)
   | none => false)
  || (fenceFirst x p && !x.ops.isEmpty)
  || (if u = .front then !waitMet x.ops w
      else operandDue x p || unitFull x u)

/-- The turn of engine `e` for an instruction with opcode `op`: idle where the next instruction is another. -/
def turn (s : State) (e op : Nat) (u : OcUnit) (plan : State → Ctx → Iw → Plan) : Turn :=
  match runningOn s e with
  | none => .idle
  | some (c, x) =>
    if x.spent then .idle
    else match x.wordAt x.pc with
      | none => .trap c x tcAddress 0
      | some b =>
        let w := b.toNat
        if !opKnown (iOp w) then .trap c x tcIllegal 0
        else if iOp w ≠ op then .idle
        else
          let p := plan s x w
          if stalled x u w p then .idle
          else
            let x := if fenceFirst x p then x.noRecords else x
            match p.trap x u w with
            | some code => .trap c x code 0
            | none => .go c x w

/-- An instruction trap: the trap record names the front end, which raises it. -/
def issueTrap (s : State) (c : Nat) (x : Ctx) (code info : Nat) : State :=
  trapCtx s c x ⟨x.pc, code, .front, info, 0, 0⟩

/-- An instruction has issued: it counts, the records it waited for are cleared, and the PC moves on. -/
def Ctx.issued' (x : Ctx) (w : Iw) (next : Nat) : Ctx :=
  { x.clearWaited w with count := x.count + 1, pc := next }

/-- A front-end instruction: its effect on the context, complete at issue. `eff` answers the context and the next PC. -/
def frontStep (s : State) (e op : Nat) (plan : State → Ctx → Iw → Plan) (eff : State → Ctx → Iw → State × Ctx × Nat) : State :=
  match turn s e op .front plan with
  | .idle => s
  | .trap c x code info => issueTrap s c x code info
  | .go c x w =>
    let (s, y, next) := eff s x w
    s.setCtx c (some (y.issued' w next))

/-- A front-end instruction on tile registers: their use is recorded for the other units (R227). -/
def frontTile (s : State) (e op : Nat) (plan : Ctx → Iw → Plan) (eff : Ctx → Iw → Ctx) : State :=
  match turn s e op .front (fun _ => plan) with
  | .idle => s
  | .trap c x code info => issueTrap s c x code info
  | .go c x w =>
    let p := plan x w
    let tiles : Plan := { p with regs := p.regs.filter (fun r => r.1 = .t) }
    s.setCtx c (some (((eff x w).issued' w (x.pc + 8)).recordUse .front w tiles))

/-- A front-end instruction that only changes the context. -/
def frontPure (s : State) (e op : Nat) (plan : Ctx → Iw → Plan) (eff : Ctx → Iw → Ctx) : State :=
  frontStep s e op (fun _ => plan) (fun s x w => (s, eff x w, x.pc + 8))

/-- The operation of an instruction with the operands read at issue (R227). -/
def capture (x : Ctx) (u : OcUnit) (w : Iw) : Op :=
  { seq := x.issued, unit := u, word := BitVec.ofNat 64 w, pc := x.pc, sa := x.sreg (iFa w), sb := x.sreg (iFb w),
    sc := x.sreg (iFc w), aa := x.areg (iFa w), ad := x.areg (iFd w), td := x.treg (iFd w), ta := x.treg (iFa w),
    tb := x.treg (iFb w), offset := 0 }

/-- An instruction is issued to the queue of its unit (R223), and its records are kept. `front` is what the front end itself
changes at issue. -/
def issueUnit (s : State) (e op : Nat) (u : OcUnit) (plan : State → Ctx → Iw → Plan) (front : Ctx → Iw → Ctx) : State :=
  match turn s e op u plan with
  | .idle => s
  | .trap c x code info => issueTrap s c x code info
  | .go c x w =>
    let y := { x.issued' w (x.pc + 8) with issued := x.issued + 1, ops := x.ops ++ [capture x u w] }
    s.setCtx c (some (front (y.recordUse u w (plan s x w)) w))

/-! ## Registers that an instruction names -/

/-- s0 is no register that holds anything (R221). -/
def useS (n : Nat) (w : Bool) : List RegUse := if n = 0 then [] else [(.s, n, w)]
def useA (n : Nat) (w : Bool) : RegUse := (.a, n, w)
def useV (n : Nat) (w : Bool) : RegUse := (.v, n, w)
def useP (n : Nat) (w : Bool) : RegUse := (.p, n, w)
def useT (n : Nat) : RegUse := (.t, n, false)

/-- Fields that an entry does not use are zero (R259). -/
def zeroF (fs : List Nat) : Bool := fs.all (· = 0)

end Sys2Proof.Machine
end

