-- ==== Sys2Proof/Machine/Vector.lean ====
section
/-! DEFINITION. The vector unit (08 R273-R280): the form of each instruction, and what its operation does when it
completes. -/

namespace Sys2Proof.Machine

/-! ## Elements of vector operands (R273) -/

/-- Elements of `ty` in a vector register. -/
def laneCount (ty : Nat) : Nat := 2048 / tyW ty

/-- The elements of a register, and a register of elements. -/
def vElems (ty : Nat) (v : BitVec 2048) : List Nat := chunksOf (tyW ty / 8) (laneCount ty) (leBytes 256 v.toNat)
def vPack (ty : Nat) (xs : List Nat) : BitVec 2048 := BitVec.ofNat 2048 (ofLe (xs.flatMap (leBytes (tyW ty / 8))))

/-- The lane bit that governs element `i` (07 R221). -/
def governs (p : BitVec 256) (ty i : Nat) : Bool := p.getLsbD (i * (tyW ty / 8))

/-- Element `i` is active under PE and PRED. -/
def activeAt (x : Ctx) (w : Iw) (i : Nat) : Bool := !iPe w || governs (x.preg (iPred w)) (iTy w) i

/-- Results of the active elements over the old elements. -/
def mergeActive (x : Ctx) (w : Iw) (new old : List Nat) : List Nat :=
  (new.zip old).zipIdx.map (fun (e, i) => if activeAt x w i then e.1 else e.2)

/-- Write v[FD] element by element: only active elements change, and only they raise flags. -/
def putV (x : Ctx) (w : Iw) (rs : List Res) : Ctx :=
  let ty := iTy w
  let live := (rs.zipIdx.filter (fun (_, i) => activeAt x w i)).map (·.1)
  (x.raiseAll live).setV (iFd w) (vPack ty (mergeActive x w (rs.map (·.bits)) (vElems ty (x.vreg (iFd w)))))

/-- A predicate register with the lane bits of chosen elements changed. -/
def putLanes (p : BitVec 256) (ty : Nat) (change : Nat → Option Bool) : BitVec 256 :=
  let n := tyW ty / 8
  BitVec.ofNat 256 (ofLe (chunkBits ((List.range 256).map (fun i =>
    (change (i / n)).getD (p.getLsbD i))) 32))
where
  /-- Bytes of a list of bits, the first lowest. -/
  chunkBits (bs : List Bool) : Nat → List Byte
    | 0 => []
    | k + 1 => BitVec.ofNat 8 (((bs.take 8).zipIdx.map (fun (b, i) => if b then 2 ^ i else 0)).foldl (· + ·) 0)
        :: chunkBits (bs.drop 8) k

/-! ## Forms -/

/-- A type that Table 7.2 marks not used is an illegal word; one that the vector unit does not take is a descriptor fault. -/
def tyUsed (t : Nat) : Bool := t ≤ 13
def vecType (t : Nat) : Bool := t ≤ 13 && t ≠ 5 && t ≠ 8 && t ≠ 9 && t ≠ 13

/-- An instruction of the vector group: its registers, beside the predicate that governs it. -/
def planVec (legal shape : Bool) (regs : List RegUse) (w : Iw) : Plan :=
  { Plan.front (tyUsed (iTy w) && legal) (regs ++ (if iPe w then [useP (iPred w) false] else []))
      with shape := vecType (iTy w) && shape }

/-- v[FD] from v[FA] and v[FB]; a function without a use for FB takes any there (log 119). -/
def planVvv (subOk : Bool) (w : Iw) : Plan :=
  planVec (iFc w = 0 && subOk) true [useV (iFd w) true, useV (iFa w) false, useV (iFb w) false] w

/-- FN without TYPE, or with TYPE alone. -/
def onlySub (w : Iw) : Bool := iTy w = 0 && iPred w = 0 && !iPe w
def onlyType (w : Iw) : Bool := iPred w = 0 && !iPe w && iSub w = 0

/-- A SUB that Table 8.7 gives a type. -/
def varithSub (t sub : Nat) : Bool :=
  if tyFloat t then decide (sub ≤ 8) else decide (sub ≤ 14) && sub ≠ 3 && sub ≠ 8

def planVarith (_ : State) (_ : Ctx) (w : Iw) : Plan := planVvv (varithSub (iTy w) (iSub w)) w
def planVcmp (_ : State) (_ : Ctx) (w : Iw) : Plan :=
  planVec (iFc w = 0 && iFd w < 8 && iSub w ≤ 5) true [useP (iFd w) true, useV (iFa w) false, useV (iFb w) false] w
def planVsel (_ : State) (_ : Ctx) (w : Iw) : Plan :=
  planVec (iFc w < 8 && iSub w = 0) true
    [useV (iFd w) true, useV (iFa w) false, useV (iFb w) false, useP (iFc w) false] w
def planVcvt (_ : State) (_ : Ctx) (w : Iw) : Plan :=
  planVec (iFc w = 0 && tyUsed (iFb w) && iSub w ≤ 1) (vecType (iFb w)) [useV (iFd w) true, useV (iFa w) false] w
def planVperm (_ : State) (_ : Ctx) (w : Iw) : Plan := planVvv (iSub w = 0) w
def planVbcast (_ : State) (_ : Ctx) (w : Iw) : Plan :=
  planVec (zeroF [iFb w, iFc w, iSub w]) true (useV (iFd w) true :: useS (iFa w) false) w
def planVext (_ : State) (_ : Ctx) (w : Iw) : Plan :=
  planVec (iFc w = 0 && onlyType w) true (useV (iFa w) false :: useS (iFd w) true ++ useS (iFb w) false) w
def planVsrnd (_ : State) (_ : Ctx) (w : Iw) : Plan :=
  planVec (iSub w = 0) (iTy w = 3 || iTy w = 4 || iTy w = 6 || iTy w = 7)
    (useV (iFd w) true :: useV (iFa w) false :: useS (iFb w) false ++ useS (iFc w) false) w

/-- The SRAM address s[FA] + s[FB] of VLD and VST. -/
def vAddr (x : Ctx) (w : Iw) : Nat := (x.sreg (iFa w) + x.sreg (iFb w)).toNat

/-- VLD and VST: 256 bytes at a 16-byte-aligned address. -/
def planVmem (x : Ctx) (w : Iw) (legal store : Bool) (regs : List RegUse) : Plan :=
  { Plan.front (iFc w = 0 && legal) (regs ++ useS (iFa w) false ++ useS (iFb w) false) with
    shape := vAddr x w % 16 = 0, srams := [(vAddr x w, 256, store)] }
def planVld (_ : State) (x : Ctx) (w : Iw) : Plan := planVmem x w (iFn w = 0) false [useV (iFd w) true]
def planVst (_ : State) (x : Ctx) (w : Iw) : Plan :=
  planVmem x w (iTy w = 0 && iSub w = 0) true
    (useV (iFd w) false :: (if iPe w then [useP (iPred w) false] else []))

/-- p[FD] from p[FA] and p[FB]; SUB 4 has no use for FB and takes any (log 119). -/
def planPlogic (_ : State) (_ : Ctx) (w : Iw) : Plan :=
  Plan.front (iFc w = 0 && onlySub w && iSub w ≤ 4 && iFd w < 8 && iFa w < 8 && iFb w < 8)
    [useP (iFd w) true, useP (iFa w) false, useP (iFb w) false]
def planPset (_ : State) (_ : Ctx) (w : Iw) : Plan :=
  planVec (zeroF [iFb w, iFc w] && onlyType w && iFd w < 8) true (useP (iFd w) true :: useS (iFa w) false) w
def planPcnt (_ : State) (_ : Ctx) (w : Iw) : Plan :=
  planVec (zeroF [iFb w, iFc w] && onlyType w && iFa w < 8) true (useP (iFa w) false :: useS (iFd w) true) w

/-! ## Operations -/

/-- VARITH (R273, Table 8.7). -/
def doVarith (x : Ctx) (o : Op) : Ctx :=
  let w := o.word.toNat
  let ty := iTy w
  putV x w (((vElems ty (x.vreg (iFa w))).zip (vElems ty (x.vreg (iFb w)))).map (fun e => varith ty (iSub w) e.1 e.2))

/-- VCMP (R274). -/
def doVcmp (x : Ctx) (o : Op) : Ctx :=
  let w := o.word.toNat
  let ty := iTy w
  let rs := ((vElems ty (x.vreg (iFa w))).zip (vElems ty (x.vreg (iFb w)))).map (fun e => vcmp ty (iSub w) e.1 e.2)
  x.setP (iFd w) (putLanes (x.preg (iFd w)) ty (fun i => if activeAt x w i then some (rs.getD i false) else none))

/-- VSEL (R274). -/
def doVsel (x : Ctx) (o : Op) : Ctx :=
  let w := o.word.toNat
  let ty := iTy w
  putV x w (((vElems ty (x.vreg (iFa w))).zip (vElems ty (x.vreg (iFb w)))).zipIdx.map (fun (e, i) =>
    Res.plain (if governs (x.preg (iFc w)) ty i then e.1 else e.2)))

/-- The low elements of v[FD] take results of type `to'`, and the bits above them are zero; an inactive element keeps its own
(R275). Elements are governed by TYPE. -/
def putNarrow (x : Ctx) (w : Iw) (to' n : Nat) (rs : List Res) : Ctx :=
  let old := (vElems to' (x.vreg (iFd w))).take n
  let live := (rs.zipIdx.filter (fun (_, i) => activeAt x w i)).map (·.1)
  (x.raiseAll live).setV (iFd w) (vPack to' (mergeActive x w (rs.map (·.bits)) old))

/-- VCVT (R275). -/
def doVcvt (x : Ctx) (o : Op) : Ctx :=
  let w := o.word.toNat
  let ty := iTy w
  let to' := iFb w
  let n := 2048 / max (tyW ty) (tyW to')
  putNarrow x w to' n (((vElems ty (x.vreg (iFa w))).take n).map (fun e => convert to' (bit w 0) (tyVal ty e)))

/-- VPERM (R276). -/
def doVperm (x : Ctx) (o : Op) : Ctx :=
  let w := o.word.toNat
  let ty := iTy w
  let src := vElems ty (x.vreg (iFa w))
  putV x w ((vElems ty (x.vreg (iFb w))).map (fun j => Res.plain (src.getD j 0)))

/-- VBCAST (R276). -/
def doVbcast (x : Ctx) (o : Op) : Ctx :=
  let w := o.word.toNat
  putV x w (List.replicate (laneCount (iTy w)) (Res.plain (o.sa.toNat % 2 ^ tyW (iTy w))))

/-- VEXT (R276). -/
def doVext (x : Ctx) (o : Op) : Ctx :=
  let w := o.word.toNat
  x.setS (iFd w) (BitVec.ofNat 64 ((vElems (iTy w) (x.vreg (iFa w))).getD o.sb.toNat 0))

/-- VSRND (R277). -/
def doVsrnd (x : Ctx) (o : Op) : Ctx :=
  let w := o.word.toNat
  let tile := bits o.sc.toNat 0 40
  let first := bits o.sc.toNat 40 24
  putNarrow x w (iTy w) 64 ((vElems 0 (x.vreg (iFa w))).zipIdx.map (fun (e, i) =>
    vsrnd (iTy w) (srbits o.sb.toNat tile ((first + i) % 2 ^ 24)) (fp32.dec e)))

/-- VLD (R278). -/
def doVld (x : Ctx) (o : Op) : Ctx :=
  x.setV (iFd o.word.toNat) (BitVec.ofNat 2048 (ofLe (x.sbytes (o.sa + o.sb).toNat 256)))

/-- VST stores the active byte lanes (R278). -/
def doVst (x : Ctx) (o : Op) : Ctx :=
  let w := o.word.toNat
  let a := (o.sa + o.sb).toNat
  x.setBytes a (((leBytes 256 (x.vreg (iFd w)).toNat).zip (x.sbytes a 256)).zipIdx.map (fun (e, i) =>
    if !iPe w || (x.preg (iPred w)).getLsbD i then e.1 else e.2))

/-- PLOGIC (R279). -/
def doPlogic (x : Ctx) (o : Op) : Ctx :=
  let w := o.word.toNat
  let a := x.preg (iFa w)
  let b := x.preg (iFb w)
  x.setP (iFd w) (match iSub w with
    | 0 => a &&& b
    | 1 => a ||| b
    | 2 => a ^^^ b
    | 3 => a &&& ~~~b
    | _ => ~~~a)

/-- PSET (R279). -/
def doPset (x : Ctx) (o : Op) : Ctx :=
  let w := o.word.toNat
  x.setP (iFd w) (putLanes 0 (iTy w) (fun i => some (decide (i < min o.sa.toNat (laneCount (iTy w))))))

/-- PCNT (R279). -/
def doPcnt (x : Ctx) (o : Op) : Ctx :=
  let w := o.word.toNat
  x.setS (iFd w) (BitVec.ofNat 64 ((List.range (laneCount (iTy w))).filter (governs (x.preg (iFa w)) (iTy w))).length)

/-! ## Issue -/

def same (x : Ctx) (_ : Iw) : Ctx := x

/-- 08 R273: VARITH issues. -/
def execVarith (e : EngineId) (s : State) : Host.Outcome State Fault Refusal := .next (issueUnit s e.val 0x50 .vector planVarith same)
/-- 08 R274: VCMP issues. -/
def execVcmp (e : EngineId) (s : State) : Host.Outcome State Fault Refusal := .next (issueUnit s e.val 0x51 .vector planVcmp same)
/-- 08 R274: VSEL issues. -/
def execVsel (e : EngineId) (s : State) : Host.Outcome State Fault Refusal := .next (issueUnit s e.val 0x52 .vector planVsel same)
/-- 08 R275: VCVT issues. -/
def execVcvt (e : EngineId) (s : State) : Host.Outcome State Fault Refusal := .next (issueUnit s e.val 0x53 .vector planVcvt same)
/-- 08 R276: VPERM issues. -/
def execVperm (e : EngineId) (s : State) : Host.Outcome State Fault Refusal := .next (issueUnit s e.val 0x54 .vector planVperm same)
/-- 08 R276: VBCAST issues. -/
def execVbcast (e : EngineId) (s : State) : Host.Outcome State Fault Refusal := .next (issueUnit s e.val 0x55 .vector planVbcast same)
/-- 08 R276: VEXT issues. -/
def execVext (e : EngineId) (s : State) : Host.Outcome State Fault Refusal := .next (issueUnit s e.val 0x56 .vector planVext same)
/-- 08 R277: VSRND issues. -/
def execVsrnd (e : EngineId) (s : State) : Host.Outcome State Fault Refusal := .next (issueUnit s e.val 0x57 .vector planVsrnd same)
/-- 08 R278: VLD issues. -/
def execVld (e : EngineId) (s : State) : Host.Outcome State Fault Refusal := .next (issueUnit s e.val 0x60 .vector planVld same)
/-- 08 R278: VST issues. -/
def execVst (e : EngineId) (s : State) : Host.Outcome State Fault Refusal := .next (issueUnit s e.val 0x61 .vector planVst same)
/-- 08 R279: PLOGIC issues. -/
def execPlogic (e : EngineId) (s : State) : Host.Outcome State Fault Refusal := .next (issueUnit s e.val 0x62 .vector planPlogic same)
/-- 08 R279: PSET issues. -/
def execPset (e : EngineId) (s : State) : Host.Outcome State Fault Refusal := .next (issueUnit s e.val 0x63 .vector planPset same)
/-- 08 R279: PCNT issues. -/
def execPcnt (e : EngineId) (s : State) : Host.Outcome State Fault Refusal := .next (issueUnit s e.val 0x64 .vector planPcnt same)

end Sys2Proof.Machine
end

