-- ==== Sys2Proof/Machine/Matrix.lean ====
section
/-! DEFINITION. The matrix array (08 R281-R288, 09 R314-R321, R332): the open tile as the front end tracks it at issue, the
forms of the matrix instructions, and their operations in STRICT and TILED order. -/

namespace Sys2Proof.Machine

/-! ## Tiles of an instruction -/

def Ctx.tileD (x : Ctx) (w : Iw) : Tile := Tile.of (x.treg (iFd w))
def Ctx.tileA (x : Ctx) (w : Iw) : Tile := Tile.of (x.treg (iFa w))
def Ctx.tileB (x : Ctx) (w : Iw) : Tile := Tile.of (x.treg (iFb w))

/-- The elements of a tile without its scales. -/
def dataUse (t : Tile) (write : Bool) : List SramUse := [(t.base, t.span, write)]

def Ctx.openMat (x : Ctx) : MatIssue := x.mat.getD ⟨0, 0, false, false, none, 0, none⟩

/-! ## MOPEN (R281) -/

/-- ZERO has no use for FA and takes any (log 119). -/
def planMopen (_ : State) (x : Ctx) (w : Iw) : Plan :=
  let d := x.tileD w
  let a := x.tileA w
  let pre := iFn w ≠ 0
  let types := if d.ty = 0 then [0, 1, 2] else [6, 10, 11]
  { legal := zeroF [iFb w, iFc w] && iFn w ≤ 2 && iFd w < 8 && iFa w < 8, addrs := [], addrOk := true
    tiles := if pre then [d, a] else [d], matOk := x.mat.isNone
    shape := decide (d.rows ≤ 128 ∧ d.cols ≤ 128) && (d.ty = 0 || d.ty = 11)
      && (!pre || (types.contains a.ty && a.cols = d.cols && a.rows = (if iFn w = 1 then 1 else d.rows)))
    modeOk := true
    regs := useT (iFd w) :: (if pre then [useT (iFa w)] else [])
    srams := if pre then dataUse a false else [] }

/-- The front end notes the open tile. -/
def openAt (x : Ctx) (w : Iw) : Ctx :=
  let d := x.tileD w
  { x with mat := some ⟨d.rows, d.cols, d.ty = 11, iFn w = 0, none, 0, none⟩ }

def Acc.zero : Acc := ⟨0, 0, 0, 0, 0, 0, GroupSum.zero, 0, 0⟩

/-- Preload values, row by row. -/
def preloadOf (x : Ctx) (fn : Nat) (d a : Tile) : List (List Nat) :=
  (List.range d.rows).map (fun r => if fn = 0 then List.replicate d.cols 0 else a.elems x (if fn = 1 then 0 else r))

/-- An INT32 accumulator within its range, which leaves -2^31 out (Table 9.1). A preload of -2^31
is held as -(2^31 - 1) (log 84). -/
def accRange (v : Int) : Int := clampI (-tyMax 11) (tyMax 11) v

/-- MOPEN: every accumulator takes its preload (R320). -/
def doMopen (x : Ctx) (o : Op) : Ctx :=
  let fn := iFn o.word.toNat
  let d := Tile.of o.td
  let a := Tile.of o.ta
  let isInt : Bool := d.ty = 11
  let acc (v : Nat) : Acc :=
    if fn = 0 then Acc.zero
    else if isInt then { Acc.zero with i := accRange (tyInt a.ty v) } else { Acc.zero with p := toF32 (tyVal a.ty v) }
  { x with tile := some { rows := d.rows, cols := d.cols, isInt := isInt, tiled := false, group := 0,
                          accs := (preloadOf x fn d a).flatMap (·.map acc), tsat := false, tinv := false,
                          scaleA := none, scaleB := none } }

/-! ## MMUL (R282-R284, R290, R316, R318) -/

def mmTiled (w : Iw) : Bool := bit w 0
def mmXb (w : Iw) : Bool := bit w 1
def mmBt (w : Iw) : Bool := bit w 2

/-- A float input type of the array. -/
def mmFloat (t : Nat) : Bool := t = 1 || t = 3 || t = 4 || t = 5

/-- Types of A and B for a tile. -/
def mmTypes (isInt xb : Bool) (a b : Tile) : Bool :=
  if xb then !isInt && a.ty = 1 && (((b.ty = 8 || b.ty = 9) && b.scale = 3) || ((b.ty = 3 || b.ty = 4) && b.scale ≠ 3))
  else if isInt then a.ty = 6 && b.ty = 6
  else mmFloat a.ty && mmFloat b.ty

/-- SCALE of A and B (R282, R284): E2M1 takes SCALE 2 along K with K a multiple of 32; SCALE 1 on B needs BT, and SCALE 3 XB. -/
def mmScales (xb bt : Bool) (a b : Tile) : Bool :=
  (a.scale ≠ 3) && (b.scale ≠ 3 || xb)
  && (a.ty ≠ 5 || (a.scale = 2 && a.cols % 32 = 0))
  && (b.ty ≠ 5 || (b.scale = 2 && bt && a.cols % 32 = 0))
  && (bt || b.scale ≠ 1)

/-- The scale addresses that an MMUL names, none for a side without SCALE 1. -/
def mmNames (a b : Tile) : Nat × Nat :=
  (if a.scale = 1 then a.scaleBase + 1 else 0, if b.scale = 1 then b.scaleBase + 1 else 0)

/-- One side names the address that earlier MMULs named, or either names none. -/
def sameName (old new : Nat) : Bool := old = 0 || new = 0 || old = new

def planMmul (_ : State) (x : Ctx) (w : Iw) : Plan :=
  let a := x.tileA w
  let b := x.tileB w
  let m := x.openMat
  let n := mmNames a b
  let old := m.scales.getD (0, 0)
  let k := a.cols
  { legal := zeroF [iFd w, iFc w] && iFn w ≤ 7 && iFa w < 8 && iFb w < 8, addrs := [], addrOk := true
    tiles := [a, b]
    matOk := x.mat.isSome && (m.isInt || decide (m.terms + k ≤ 16384)) && (m.order = none || m.order = some (mmTiled w))
    shape := a.rows = m.rows && (if mmBt w then b.rows = m.cols && b.cols = k else b.rows = k && b.cols = m.cols)
      && mmTypes m.isInt (mmXb w) a b && mmScales (mmXb w) (mmBt w) a b
      && (n = (0, 0) || (m.zeroLoad && sameName old.1 n.1 && sameName old.2 n.2))
    modeOk := !(x.isStage && mmTiled w)
    regs := [useT (iFa w), useT (iFb w)]
    srams := tileUse a false ++ tileUse b false }

def noteMmul (x : Ctx) (w : Iw) : Ctx :=
  let a := x.tileA w
  let n := mmNames a (x.tileB w)
  { x with mat := x.mat.map (fun m =>
      let old := m.scales.getD (0, 0)
      let new := (max old.1 n.1, max old.2 n.2)
      { m with order := some (mmTiled w), terms := m.terms + a.cols, scales := if new = (0, 0) then none else some new }) }

/-- The exact values of row `r` of an operand, block scales applied. -/
def mmRow (x : Ctx) (t : Tile) (r : Nat) : List FVal :=
  (t.elems x r).zipIdx.map (fun (v, i) =>
    if t.scale = 2 then (tyVal t.ty v).mul (t.blockScale x r (i / 32)) else tyVal t.ty v)

/-- Row `r` of B through the expansion unit (R289 rule 6, R290). -/
def xbRow (x : Ctx) (t : Tile) (r : Nat) : List FVal :=
  if t.scale = 3 then
    let sz := t.rowSz x r
    (t.elems x r).map (fun v =>
      bf16.dec (bf16.rne (FVal.mul (.ofInt (tyInt t.ty v - (if t.ty = 9 then sz.2 else 0))) sz.1)))
  else mmRow x t r

/-- B by output column. -/
def mmCols (x : Ctx) (w : Iw) (t : Tile) : List (List FVal) :=
  let rows := (List.range t.rows).map (fun r => if mmXb w then xbRow x t r else mmRow x t r)
  if mmBt w then rows else (List.range t.cols).map (fun c => rows.map (fun r => r.getD c .nan))

def accNan (a : Acc) : Bool := (f32 a.p).isNan || (f32 a.s).isNan || (f32 a.c).isNan || (f32 a.l1).isNan
  || (f32 a.l2).isNan || (f32 a.l3).isNan

/-- fold() of R314. -/
def Acc.fold (a : Acc) : Acc :=
  if a.n ≤ 4096 then { a with s := a.p }
  else
    let u := f32Add a.s a.p
    let v := f32Sub u a.s
    let e := f32Add (f32Sub a.s (f32Sub u v)) (f32Sub a.p v)
    { a with s := u, c := f32Add a.c e }

/-- A segment of 4,096 terms is full: it is folded before the next term (R314). -/
def Acc.segment (a : Acc) : Acc := if a.n ≠ 0 ∧ a.n % 4096 = 0 then { a.fold with p := 0 } else a

/-- add_term() of R314, with a product rounded to FP32. -/
def Acc.strict (a : Acc) (t : FVal) : Acc :=
  let a := a.segment
  { a with p := f32Add a.p (toF32 t), n := a.n + 1 }

/-- A term joins the exact sum of its group (R317). -/
def GroupSum.add (g : GroupSum) : FVal → GroupSum
  | .nan => { g with nan := true }
  | .inf false => { g with pinf := true }
  | .inf true => { g with ninf := true }
  | .num n m e =>
    let q := min g.e e
    { g with m := g.m * 2 ^ (g.e - q).toNat + FVal.scaled n m e q, e := q }

/-- The value of a group sum. -/
def GroupSum.val (g : GroupSum) : FVal :=
  if g.nan || (g.pinf && g.ninf) then .nan
  else if g.pinf then .inf false
  else if g.ninf then .inf true
  else .num (g.m < 0) g.m.natAbs g.e

/-- Lanes of a tile's shape (Table 9.2). -/
def OpenTile.lanes (t : OpenTile) : Nat := if 64 < t.rows ∧ 64 < t.cols then 1 else if t.rows ≤ 64 ∧ t.cols ≤ 64 then 4 else 2

/-- A group's sum, rounded once, is added to its lane. -/
def Acc.toLane (a : Acc) (lane : Nat) : Acc :=
  let g := toF32 a.grp.val
  let a := { a with grp := GroupSum.zero }
  match lane with
  | 0 => { a with p := f32Add a.p g }
  | 1 => { a with l1 := f32Add a.l1 g }
  | 2 => { a with l2 := f32Add a.l2 g }
  | _ => { a with l3 := f32Add a.l3 g }

/-- The lanes of an accumulator. -/
def Acc.laneVals (a : Acc) : List FVal := [f32 a.p, f32 a.l1, f32 a.l2, f32 a.l3]

/-- A term in TILED order (R317). -/
def Acc.tiled (a : Acc) (g l : Nat) (t : FVal) : Acc :=
  let a := { a with grp := a.grp.add t, n := a.n + 1 }
  if a.n % g = 0 then a.toLane ((a.n / g - 1) % l) else a

/-- One term of an FP32 tile; true where an accumulator or a group sum turns NaN from terms that are not (R321). -/
def Acc.term (t : OpenTile) (a : Acc) (v : FVal) : Acc × Bool :=
  let b := if t.tiled then a.tiled t.group t.lanes v else a.strict v
  let g := a.grp.add v
  (b, if t.tiled then
      (g.pinf && g.ninf && !g.nan && !(a.grp.pinf && a.grp.ninf))
        || (!g.val.isNan && (b.laneVals.zip a.laneVals).any (fun e => e.1.isNan && !e.2.isNan))
    else accNan a.segment && !accNan a || accNan b && !accNan a.segment && !v.isNan)

/-- One term of an INT32 tile; true where it saturates. -/
def Acc.intTerm (a : Acc) (v : Int) : Acc × Bool :=
  let r := a.i + v
  ({ a with i := accRange r, n := min (2 ^ 32 - 1) (a.n + 1) }, decide (accRange r ≠ r))

/-- What an INT32 accumulator adds for a product: the product, or, where block scales leave no integer, a value that no rule gives
(log 108). -/
def FVal.intTerm (v : FVal) : Int :=
  match v with
  | .num n m e => if 0 ≤ e ∨ m % 2 ^ e.natAbs = 0 then truncFin n m e else Config.blockTerm (truncFin n m 0) e.natAbs
  | .inf n => Config.blockTerm (b2n n) 0
  | .nan => Config.blockTerm 2 0

/-- The K terms of one accumulator. -/
def OpenTile.accumulate (t : OpenTile) (a : Acc) (xs ys : List FVal) : Acc × Bool :=
  (xs.zip ys).foldl (fun (r : Acc × Bool) e =>
    let q := if t.isInt then r.1.intTerm (e.1.mul e.2).intTerm else r.1.term t (e.1.mul e.2)
    (q.1, r.2 || q.2)) (a, false)

/-- Terms of a group by the input types of the first MMUL (Table 9.2): two types multiply as the wider. -/
def groupLen (a b : Nat) (xb : Bool) : Nat := if xb || a = 1 || b = 1 then 16 else 32

/-- MMUL: every product is added, in ascending K. -/
def doMmul (x : Ctx) (o : Op) : Ctx :=
  let w := o.word.toNat
  let a := Tile.of o.ta
  let b := Tile.of o.tb
  match x.tile with
  | none => x
  | some t =>
    let t := if t.group = 0 then { t with tiled := mmTiled w && !t.isInt, group := groupLen a.ty b.ty (mmXb w) } else t
    let rows := (List.range a.rows).map (mmRow x a)
    let cols := mmCols x w b
    let rs := (t.accs.zip (rows.flatMap (fun r => cols.map (fun c => (r, c))))).map (fun e =>
      t.accumulate e.1 e.2.1 e.2.2)
    let bad := rs.any (·.2)
    { x with tile := some { t with
        accs := rs.map (·.1), tsat := t.tsat || (t.isInt && bad), tinv := t.tinv || (!t.isInt && bad),
        scaleA := if a.scale = 1 then some o.ta else t.scaleA,
        scaleB := if b.scale = 1 then some o.tb else t.scaleB } }

/-! ## MCLOSE, MDROP, MACC (R285, R286, R321, R332) -/

/-- Ranges of the scales that MCLOSE reads. -/
def scaleReads (m : MatIssue) : List SramUse :=
  let n := m.scales.getD (0, 0)
  (if n.1 = 0 then [] else [(n.1 - 1, 4 * m.rows, false)]) ++ (if n.2 = 0 then [] else [(n.2 - 1, 4 * m.cols, false)])

def planMclose (_ : State) (x : Ctx) (w : Iw) : Plan :=
  let d := x.tileD w
  let m := x.openMat
  { legal := zeroF [iFa w, iFb w, iFc w, iFn w] && iFd w < 8, addrs := [], addrOk := true, tiles := [d]
    matOk := x.mat.isSome
    shape := d.rows = m.rows && d.cols = m.cols
      && (if m.isInt && m.scales.isNone then [6, 10, 11].contains d.ty else [0, 1, 2].contains d.ty)
    modeOk := true, regs := [useT (iFd w)], srams := dataUse d true ++ scaleReads m }

def closeAt (x : Ctx) (_ : Iw) : Ctx := { x with mat := none }

/-- close() of R314, or the lanes combined (R317). -/
def Acc.close (t : OpenTile) (a : Acc) : W32 :=
  if t.tiled then
    let a := if a.n % t.group = 0 then a else a.toLane (a.n / t.group % t.lanes)
    match t.lanes with
    | 1 => a.p
    | 2 => f32Add a.p a.l1
    | _ => f32Add (f32Add a.p a.l1) (f32Add a.l2 a.l3)
  else
    let a := a.fold
    f32Add a.s a.c

/-- The accumulator of an INT32 tile as FP32, or the closed FP32 accumulator. -/
def Acc.closed (t : OpenTile) (a : Acc) : W32 := if t.isInt then toF32 (.ofInt a.i) else a.close t

/-- (acc × sa) × sb for the scales that the tile carries (R284). -/
def OpenTile.scaled (x : Ctx) (t : OpenTile) (r c : Nat) (v : W32) : W32 :=
  let v := match t.scaleA with
    | some d => f32Mul v ((Tile.of d).rowScale x r)
    | none => v
  match t.scaleB with
  | some d => f32Mul v ((Tile.of d).rowScale x c)
  | none => v

/-- The stored value of one accumulator: bits, whether its conversion saturated, whether a NaN arose. -/
def storedAcc (x : Ctx) (t : OpenTile) (ty r c : Nat) (a : Acc) : Res :=
  if t.isInt && t.scaleA.isNone && t.scaleB.isNone then satTo ty a.i
  else
    let v := t.scaled x r c (a.closed t)
    let b := match tyFmt ty with
      | some f => f.rne (f32 v)
      | none => 0
    let scales := (t.scaleA.map (fun d => f32 ((Tile.of d).rowScale x r))).toList
      ++ (t.scaleB.map (fun d => f32 ((Tile.of d).rowScale x c))).toList
    let whole := (f32 (a.closed t)).isNan
    ⟨b, false, whole && !accNan a && !a.grp.nan || (f32 v).isNan && !whole && !(scales.any FVal.isNan)⟩

/-- MCLOSE: the tile is stored, and its flags are set (R285, R321). -/
def doMclose (x : Ctx) (o : Op) : Ctx :=
  match x.tile with
  | none => x
  | some t =>
    let d := Tile.of o.td
    let rs := t.accs.zipIdx.map (fun (a, i) => storedAcc x t d.ty (i / t.cols) (i % t.cols) a)
    let y := d.setRows x 0 (groupsOf t.cols t.rows (rs.map (·.bits)))
    { (y.flag 1 (t.tsat || rs.any (·.sat))).flag 3 (t.tinv || rs.any (·.inv)) with tile := none }

def planMdrop (_ : State) (x : Ctx) (w : Iw) : Plan :=
  { Plan.front (bits w 0 35 = 0) [] with matOk := x.mat.isSome }

def doMdrop (x : Ctx) (_ : Op) : Ctx := { x with tile := none }

def planMacc (s : State) (x : Ctx) (w : Iw) : Plan :=
  let d := x.tileD w
  let m := x.openMat
  { legal := zeroF [iFa w, iFb w, iFc w, iFn w] && iFd w < 8, addrs := [], addrOk := true, tiles := [d]
    matOk := x.mat.isSome, shape := d.ty = 7 && d.rows = m.rows && d.cols = 32 * m.cols
    modeOk := s.warden.debugOpen, regs := [useT (iFd w)], srams := dataUse d true }

/-- The 32 bytes of one accumulator (Table 9.4). -/
def Acc.record (t : OpenTile) (a : Acc) : List Byte :=
  let w4 (v : W32) : List Byte := leBytes 4 v.toNat
  if t.isInt then leBytes 4 (ofSigned 32 a.i) ++ zeros 20 ++ leBytes 4 a.n ++ leBytes 1 (b2n t.tsat) ++ zeros 3
  else
    let flags := b2n t.tsat + 2 * b2n t.tinv
    if t.tiled then
      w4 a.p ++ w4 a.l1 ++ w4 a.l2 ++ w4 a.l3 ++ leBytes 8 (fp64.rne a.grp.val) ++ leBytes 4 a.n
        ++ leBytes 1 (flags + 4 + 8 * (t.lanes - 1)) ++ zeros 3
    else w4 a.p ++ w4 a.s ++ w4 a.c ++ zeros 12 ++ leBytes 4 a.n ++ leBytes 1 flags ++ zeros 3

/-- MACC: the open tile's state goes to SRAM (R332). -/
def doMacc (x : Ctx) (o : Op) : Ctx :=
  match x.tile with
  | none => x
  | some t =>
    (Tile.of o.td).setRows x 0 (groupsOf (32 * t.cols) t.rows ((t.accs.flatMap (Acc.record t)).map (·.toNat)))

/-! ## Issue -/

/-- 08 R281: MOPEN issues. -/
def execMopen (e : EngineId) (s : State) : Host.Outcome State Fault Refusal := .next (issueUnit s e.val 0x70 .matrix planMopen openAt)
/-- 08 R282: MMUL issues. -/
def execMmul (e : EngineId) (s : State) : Host.Outcome State Fault Refusal := .next (issueUnit s e.val 0x71 .matrix planMmul noteMmul)
/-- 08 R285: MCLOSE issues. -/
def execMclose (e : EngineId) (s : State) : Host.Outcome State Fault Refusal := .next (issueUnit s e.val 0x72 .matrix planMclose closeAt)
/-- 08 R286: MDROP issues. -/
def execMdrop (e : EngineId) (s : State) : Host.Outcome State Fault Refusal := .next (issueUnit s e.val 0x73 .matrix planMdrop closeAt)
/-- 08 R286: MACC issues. -/
def execMacc (e : EngineId) (s : State) : Host.Outcome State Fault Refusal := .next (issueUnit s e.val 0x74 .matrix planMacc same)

end Sys2Proof.Machine
end

