-- ==== Sys2Proof/Machine/Pages.lean ====
section
/-! DEFINITION. Page tables (11 R371, R372, Tables 11.1 and 11.2): the four levels of a walk, and the entries as they stand in the MMU's
reserve. A space is built from its pages: the leaf of each stands at the level of its size, and tables above it. -/

namespace Sys2Proof.Machine

/-- Levels 1 to 4: the lowest bit of the virtual address that indexes each, and the size of the page that a leaf there maps. A level 1
entry is never a leaf (R372). -/
def pageLevels : List (Nat × Option Nat) := [(39, none), (30, some 0x40000000), (21, some 0x200000), (16, some 0x10000)]

/-- An entry of a page table: not valid, one that points to the next table, or a leaf. -/
inductive Pte where
  | invalid
  | next
  | leaf (p : Page)
  deriving DecidableEq, Repr

/-- The entry of a space at one level for a virtual address. -/
def Ctx.pte (x : Ctx) (va shift : Nat) (size : Option Nat) : Pte :=
  let here (p : Page) : Bool := p.va / 2 ^ shift = va / 2 ^ shift
  match x.pages.find? (fun p => here p && size = some p.size) with
  | some p => .leaf p
  | none => if x.pages.any (fun p => here p && decide (p.size < 2 ^ shift)) then .next else .invalid

/-- A walk: entries of the levels in turn, down to a leaf or to one that is not valid. -/
def Ctx.walk (x : Ctx) (va : Nat) : List (Nat × Option Nat) → Option Page
  | [] => none
  | (shift, size) :: rest =>
    match x.pte va shift size with
    | .invalid => none
    | .leaf p => some p
    | .next => x.walk va rest

/-- The page that maps a virtual address. -/
def Ctx.pageOf (x : Ctx) (va : Nat) : Option Page := x.walk va pageLevels

/-- The table at a level that holds the entry of a virtual address, in context `c`'s space: 8 KiB aligned to itself, at level 4 512 bytes.
Where the MMU puts it in its reserve no rule says (log 94). -/
def tableDpa (c level va : Nat) : Nat := (if level = 4 then 512 else 8192) * Config.pageTable c level (va / 2 ^ (57 - 9 * level))

/-- The 16 bytes of an entry of level `level` (Tables 11.1 and 11.2). -/
def Pte.words (e : Pte) (c level va : Nat) : BitVec 128 :=
  match e with
  | .invalid => 0
  | .next => BitVec.ofNat 128 (1 + field (tableDpa c (level + 1) va / 512) 9 40)
  | .leaf p => BitVec.ofNat 128 (1 + 2 + field (b2n (p.kind ≠ 0 || p.res)) 2 1 + field (b2n p.w) 3 1 + field (b2n p.d) 4 1 + field (b2n p.a) 5 1
      + field (b2n p.pin) 6 1 + field p.kind 8 2 + field (4 - level) 10 2 + field (p.frame.getD 0 / 0x10000) 16 33
      + (if p.kind = 0 then field p.fla.toNat 64 40 + field (b2n p.backed) 104 1 else 0))

/-- The index of a virtual address in its table of a level: 512 entries, at level 4 32. -/
def tableIndex (level va : Nat) : Nat := if level = 4 then bits va 16 5 else bits va (48 - 9 * level) 9

/-- The entry of a level for a virtual address, as the MMU's reserve holds it: its DPA and its 16 bytes. -/
def Ctx.entryAt (x : Ctx) (c level va : Nat) : Nat × BitVec 128 :=
  let (shift, size) := pageLevels.getD (level - 1) (16, none)
  (tableDpa c level va + 16 * tableIndex level va, (x.pte va shift size).words c level va)

end Sys2Proof.Machine
end

