-- ==== Sys2Proof/Machine/Dma.lean ====
section
/-! DEFINITION. The DMA unit (08 R301-R308, R311, 11 R372-R383): the forms of its instructions, translation, and how far an
operation runs before it is done, meets a page that is not resident, or faults. -/

namespace Sys2Proof.Machine

/-! ## Translation (11 R371-R373) -/

/-- The page holds its bytes in memory. -/
def Page.here (p : Page) : Bool := p.kind ≠ 0 || p.res

/-- DPA of a virtual address in a resident page. -/
def Page.dpa (p : Page) (va : Nat) : Nat := p.frame.getD 0 + (va - p.va)

/-- The DPA of a mapped and resident address. -/
def Ctx.dpaOf (x : Ctx) (va : Nat) : Option Nat := ((x.pageOf va).filter Page.here).map (fun p => p.dpa va)

/-- The MMU sets A, and on a write D, of the page of an access (Table 11.1). -/
def Ctx.touch (x : Ctx) (va : Nat) (write : Bool) : Ctx :=
  { x with pages := x.pages.map (fun p =>
      if p.kind = 0 && decide (p.va ≤ va) && decide (va < p.va + p.size) then { p with a := true, d := p.d || write } else p) }

/-- Why an operation stops: a page to bring in, a fault (Table 11.7), or an answer still to come. -/
inductive Stop where
  | page (va : Nat) (write : Bool)
  | fault (code va : Nat)
  | wait
  deriving DecidableEq, Repr

def fcUncorrectable : Nat := 0x0A
def fcUnmapped : Nat := 0x10
def fcWriteProtect : Nat := 0x11
def fcAccess : Nat := 0x12
def fcBackingLost : Nat := 0x13
def fcBudget : Nat := 0x20

/-- What keeps an access to one address from going on. -/
def obstacle (x : Ctx) (va : Nat) (write : Bool) : Option Stop :=
  match x.pageOf va with
  | none => some (.fault fcUnmapped va)
  | some p =>
    if write && !p.w then some (.fault fcWriteProtect va)
    else if p.here then none else some (.page va write)

/-- The first obstacle of a list of addresses. -/
def firstObstacle (x : Ctx) (write : Bool) (vas : List Nat) : Option Stop := vas.findSome? (fun va => obstacle x va write)

/-- What an engine's access at a DPA finds: a frame of a sealed stage answers no other context, whatever mapping it goes through
(13 R478, log 109). -/
def engineFind (s : State) (x : Ctx) (a : Nat) : Found :=
  if !x.isSealed && sealedFrame s a then .error (some (stackOf a)) a true else find s 1 a

/-- The first address whose controller answers with an access error, which it counts (10 R336). -/
def deniedAt (s : State) (x : Ctx) (vas : List Nat) : Option (State × Stop) :=
  vas.findSome? (fun va => match x.dpaOf va with
    | none => none
    | some a => match engineFind s x a with
      | .error c p h => some (accessError s 1 c p h, .fault fcAccess va)
      | _ => none)

/-- Runs of consecutive addresses: first, length. -/
def runsOf : List Nat → List (Nat × Nat)
  | [] => []
  | a :: t =>
    match runsOf t with
    | [] => [(a, 1)]
    | (b, n) :: r => if b = a + 1 then (a, n + 1) :: r else (a, 1) :: (b, n) :: r

/-- Read runs; none on an uncorrectable read. -/
def readRuns (s : State) : List (Nat × Nat) → State × Option (List Byte)
  | [] => (s, some [])
  | (a, n) :: t =>
    match busRead s 1 a n .clean with
    | (s, none) => (s, none)
    | (s, some bs) =>
      match readRuns s t with
      | (s, none) => (s, none)
      | (s, some rest) => (s, some (bs ++ rest))

/-- Write runs. -/
def writeRuns (s : State) : List (Nat × Nat) → List Byte → State
  | [], _ => s
  | (a, n) :: t, bs => writeRuns (busWrite s 1 a (bs.take n) .clean).1 t (bs.drop n)

/-- One end of a transfer: virtual memory or SRAM. -/
inductive Side where
  | mem (va : Nat)
  | sram (a : Nat)
  deriving DecidableEq, Repr

def Side.va : Side → Option Nat
  | .mem a => some a
  | .sram _ => none

/-- Where an operation stands: state, context, progress offset, and why it stopped (none: it is done). -/
structure Run where
  s : State
  x : Ctx
  off : Nat
  stop : Option Stop
  deriving DecidableEq, Repr

/-- One chunk moves: every source byte read, then every destination byte written (R380). -/
def moveChunk (s : State) (x : Ctx) (off : Nat) (pairs : List (Side × Side)) : Run :=
  let srcs := pairs.filterMap (fun p => p.1.va)
  let dsts := pairs.filterMap (fun p => p.2.va)
  match (firstObstacle x false srcs).orElse (fun _ => firstObstacle x true dsts) with
  | some st => ⟨s, x, off, some st⟩
  | none =>
    match deniedAt s x (srcs ++ dsts) with
    | some (s, st) => ⟨s, x, off, some st⟩
    | none =>
      let x := (srcs.foldl (fun x a => x.touch a false) x)
      let (s, mem) := readRuns s (runsOf (srcs.filterMap x.dpaOf))
      match mem with
      | none => ⟨s, x, off, some (.fault fcUncorrectable 0)⟩
      | some bs =>
        let data := if srcs.isEmpty then pairs.filterMap (fun p => match p.1 with
            | .sram a => some (x.sb a)
            | .mem _ => none)
          else bs
        let x := (dsts.foldl (fun x a => x.touch a true) x)
        let s := writeRuns s (runsOf (dsts.filterMap x.dpaOf)) data
        let x := (pairs.zip data).foldl (fun x p => match p.1.2 with
          | .sram a => x.setBytes a [p.2]
          | .mem _ => x) x
        ⟨s, x, off + pairs.length, none⟩

/-- Chunks of 256 bytes of the destination, from the progress offset on (Table 11.6). -/
def moveFrom (total : Nat) (ends : Nat → Side × Side) : Nat → State → Ctx → Nat → Run
  | 0, s, x, off => ⟨s, x, off, none⟩
  | k + 1, s, x, off =>
    if total ≤ off then ⟨s, x, off, none⟩
    else
      let n := min (256 - off % 256) (total - off)
      let r := moveChunk s x off ((List.range n).map (fun i => ends (off + i)))
      match r.stop with
      | some _ => r
      | none => moveFrom total ends k r.s r.x r.off

def move (s : State) (x : Ctx) (o : Op) (total : Nat) (ends : Nat → Side × Side) : Run :=
  moveFrom total ends (total / 256 + 1) s x o.offset

/-! ## The operations -/

/-- Row pitch of DLD and DST: s[FB], or the tile's row bytes (R301). -/
def pitch (o : Op) (t : Tile) : Nat := if o.sb = 0 then t.rowBytes else o.sb.toNat

/-- The memory and SRAM places of byte `i` of a tile transfer. -/
def tileEnds (o : Op) (i : Nat) : Nat × Nat :=
  let t := Tile.of o.td
  let r := i / t.rowBytes
  let j := i % t.rowBytes
  ((o.aa.toNat + r * pitch o t + j) % 2 ^ 64, t.base + r * 16 * t.stride + j)

def tileTotal (o : Op) : Nat := (Tile.of o.td).rows * (Tile.of o.td).rowBytes

def runDld (s : State) (x : Ctx) (o : Op) : Run :=
  move s x o (tileTotal o) (fun i => (.mem (tileEnds o i).1, .sram (tileEnds o i).2))
def runDst (s : State) (x : Ctx) (o : Op) : Run :=
  move s x o (tileTotal o) (fun i => (.sram (tileEnds o i).2, .mem (tileEnds o i).1))
def runDcpy (s : State) (x : Ctx) (o : Op) : Run :=
  move s x o o.sb.toNat (fun i => (.mem (o.aa.toNat + i), .mem (o.ad.toNat + i)))

/-- One atomic at a virtual address: state, context, and the old value or why it stops. -/
def vaAtomic (s : State) (x : Ctx) (va ty op v cmp : Nat) : State × Ctx × Except Stop Res :=
  match obstacle x va true with
  | some st => (s, x, .error st)
  | none =>
    match x.dpaOf va with
    | none => (s, x, .error (.fault fcUnmapped va))
    | some a =>
      match engineFind s x a with
      | .error c p h => (accessError s 1 c p h, x.touch va true, .error (.fault fcAccess va))
      | .window p _ => (accessError s 1 (some (stackOf p)) a false, x.touch va true, .error (.fault fcAccess va))
      | .data _ _ _ => match busAtomic s 1 a ty op v cmp with
        | (s, some r) => (s, x.touch va true, .ok r)
        | (s, none) => (s, x.touch va true, .error (.fault fcUncorrectable 0))

/-- Fields of AMO's FN. -/
def amoTyOf (w : Iw) : Nat := bits w 0 2
def amoOpOf (w : Iw) : Nat := bits w 2 4
def amoNr (w : Iw) : Bool := bit w 6

/-- The old value as a register takes it: INT32 sign-extended, a float as its bits (R304). -/
def amoResult (ty old : Nat) : W64 := if ty = 0 then BitVec.ofInt 64 (toSigned 32 old) else BitVec.ofNat 64 old

def runAmo (s : State) (x : Ctx) (o : Op) : Run :=
  let w := o.word.toNat
  match vaAtomic s x o.aa.toNat (amoTyOf w) (amoOpOf w) o.sb.toNat o.sc.toNat with
  | (s, x, .error st) => ⟨s, x, 0, some st⟩
  | (s, x, .ok r) =>
    let x := if amoNr w then x else (x.setS (iFd w) (amoResult (amoTyOf w) r.bits)).flag 0 r.sat
    let x := x.flag 3 r.inv
    ⟨s, x, 1, none⟩

/-- AMO's type of a tile's element type. -/
def addTy : Nat → Nat
  | 11 => 0
  | 12 => 1
  | 0 => 2
  | _ => 3

/-- Elements from number `off` on, each one atomic ADD. -/
def addFrom (o : Op) (t : Tile) : Nat → State → Ctx → Nat → Run
  | 0, s, x, off => ⟨s, x, off, none⟩
  | k + 1, s, x, off =>
    let r := off / t.cols
    let c := off % t.cols
    let v := (t.elems x r).getD c 0
    match vaAtomic s x ((o.aa.toNat + r * o.sb.toNat + c * (tyW t.ty / 8)) % 2 ^ 64) (addTy t.ty) 0 v 0 with
    | (s, x, .error st) => ⟨s, x, off, some st⟩
    | (s, x, .ok v) => addFrom o t k s (x.flag 3 v.inv) (off + 1)

def runAaddt (s : State) (x : Ctx) (o : Op) : Run :=
  let t := Tile.of o.td
  addFrom o t (t.rows * t.cols - o.offset) s x o.offset

/-- One read or write of a window by its virtual address. -/
def vaRead (s : State) (x : Ctx) (va n : Nat) : State × Except Stop (List Byte) :=
  match obstacle x va false, x.dpaOf va with
  | some st, _ => (s, .error st)
  | none, none => (s, .error (.fault fcUnmapped va))
  | none, some a => match busRead s 1 a n .clean with
    | (s', some bs) => (s', .ok bs)
    | (s', none) => (s', .error (if (firstError s 1 a n).isSome then .fault fcAccess va else .fault fcUncorrectable 0))
def vaWrite (s : State) (x : Ctx) (va : Nat) (bs : List Byte) : State × Option Stop :=
  match obstacle x va true, x.dpaOf va with
  | some st, _ => (s, some st)
  | none, none => (s, some (.fault fcUnmapped va))
  | none, some a => match busWrite s 1 a bs .clean with
    | (s, true) => (s, none)
    | (s, false) => (s, some (.fault fcAccess va))

/-- The engine's SCAN_FENCE for the controller that holds a DPA is issued (10 R361). -/
def issueFence (s : State) (e a : Nat) : State :=
  s.modCtl (stackOf a) (fun c => { c with engFence := Tab.mod 0#32 c.engFence e (fun v => v ||| (1#32 <<< pcOf a)) })

/-- It is not complete yet. -/
def fencePending (s : State) (e a : Nat) : Bool := (Tab.get 0#32 (s.ctl (stackOf a)).engFence e) &&& (1#32 <<< pcOf a) != 0

/-- A step of WVX that begins with SCAN_FENCE: the fence is issued, and the step goes on once it is complete, wherever the context runs by
then (11 R381). Progress 16 (e + 1) + k stands for k steps done and the fence of the next issued by engine e. -/
def fencedStep (s : State) (x : Ctx) (o : Op) (go : Run) : Run :=
  match x.st, x.dpaOf o.aa.toNat with
  | .running e, some a =>
    if o.offset < 16 then ⟨issueFence s e a, x, o.offset + 16 * (e + 1), some .wait⟩
    else if fencePending s (o.offset / 16 - 1) a then ⟨s, x, o.offset, some .wait⟩
    else go
  | _, _ => go

/-- A step of WVX that reads: `f` answers the context, the progress, and whether the instruction is complete. -/
def wvxRead (s : State) (x : Ctx) (off va n : Nat) (f : List Byte → Ctx × Nat × Bool) : Run :=
  match vaRead s x va n with
  | (s, .error st) => ⟨s, x, off, some st⟩
  | (s, .ok bs) => ⟨s, (f bs).1, (f bs).2.1, if (f bs).2.2 then none else some .wait⟩

/-- A step of WVX that writes. -/
def wvxWrite (s : State) (x : Ctx) (off va : Nat) (bs : List Byte) : Run :=
  match vaWrite s x va bs with
  | (s, some st) => ⟨s, x, off, some st⟩
  | (s, none) => ⟨s, x, off + 1, some .wait⟩

/-- WVX (R306): the next of its six steps. Between two steps it can be suspended, and another engine can write (R308). -/
def runWvx (s : State) (x : Ctx) (o : Op) : Run :=
  let cmd := o.aa.toNat + 64 * o.sb.toNat
  let resp := cmd + winResp
  let buf := o.sc.toNat
  let k := o.offset % 16
  match k with
  | 0 => fencedStep s x o (wvxRead s x 0 cmd 8 (fun h => (x, if byteAt h 0 = 0 then 1 else o.offset, false)))
  | 1 => wvxWrite s x 1 (cmd + 8) (x.sbytes (buf + 8) 56)
  | 2 => fencedStep s x o ⟨s, x, 3, some .wait⟩
  | 3 => wvxWrite s x 3 cmd (x.sbytes buf 8)
  | 4 => fencedStep s x o (wvxRead s x 4 resp 8 (fun h =>
      (x, if bit (byteAt h 3) 7 && byteAt h 1 = (x.sb (buf + 1)).toNat then 5 else o.offset, false)))
  | _ => fencedStep s x o (wvxRead s x 5 resp 64 (fun bs => (x.setBytes buf bs, 6, true)))

/-- SFENCE (R307): the fence is issued, and the instruction is complete once it has completed; its progress is the number of the engine that
issued it, plus 1. -/
def runSfence (s : State) (x : Ctx) (o : Op) : Run :=
  match x.st, x.dpaOf o.aa.toNat with
  | .running e, some a =>
    if o.offset = 0 then ⟨issueFence s e a, x, e + 1, some .wait⟩
    else if fencePending s (o.offset - 1) a then ⟨s, x, o.offset, some .wait⟩
    else ⟨s, x, o.offset, none⟩
  | _, _ => ⟨s, x, o.offset, none⟩

/-- The windows of WINDEC's mask. -/
def windowMask (v : W64) : BitVec 48 := v.truncate 48
def windecLive (w : Iw) : Bool := bit w 0

/-- WINDEC: a dead declaration zero-fills its windows. -/
def runWindec (s : State) (x : Ctx) (o : Op) : Run :=
  ⟨s, if windecLive o.word.toNat then x else x.zeroWindows (windowMask o.sa), 0, none⟩

/-- A DMA operation runs on from its offset, as far as it gets. -/
def dmaRun (s : State) (x : Ctx) (o : Op) : Run :=
  match iOp o.word.toNat with
  | 0xC0 => runDld s x o
  | 0xC1 => runDst s x o
  | 0xC2 => runDcpy s x o
  | 0xD0 => runAmo s x o
  | 0xD1 => runAaddt s x o
  | 0xE0 => runWvx s x o
  | 0xE1 => runSfence s x o
  | _ => runWindec s x o

/-! ## Forms -/

/-- A transfer between t[FD] and memory at a[FA]. -/
def planTile (x : Ctx) (w : Iw) (legal load : Bool) : Plan :=
  let d := x.tileD w
  { legal := iFc w = 0 && legal && iFd w < 8 && iFa w < 16, addrs := [x.areg (iFa w)], addrOk := true, tiles := [d]
    matOk := true, shape := true, modeOk := true
    regs := useT (iFd w) :: useA (iFa w) false :: useS (iFb w) false, srams := dataUse d load }
def planDld (_ : State) (x : Ctx) (w : Iw) : Plan := planTile x w (iFn w ≤ 1) true
def planDst (_ : State) (x : Ctx) (w : Iw) : Plan := planTile x w (iFn w = 0) false

/-- The two ranges of a DCPY share a byte. -/
def copyOverlap (a d n : Nat) : Bool := decide (a < d + n) && decide (d < a + n)

def planDcpy (_ : State) (x : Ctx) (w : Iw) : Plan :=
  let a := x.areg (iFa w)
  let d := x.areg (iFd w)
  let n := (x.sreg (iFb w)).toNat
  { Plan.front (zeroF [iFc w, iFn w] && iFd w < 16 && iFa w < 16)
      (useA (iFa w) false :: useA (iFd w) false :: useS (iFb w) false) with
    addrs := [a, d], addrOk := decide (n ≤ 2 ^ 30), shape := !copyOverlap a.toNat d.toNat n }

/-- A float add. -/
def floatAdd (ty op : Nat) : Bool := decide (2 ≤ ty) && op = 0

def planAmo (_ : State) (x : Ctx) (w : Iw) : Plan :=
  let ty := amoTyOf w
  let a := x.areg (iFa w)
  { Plan.front (amoOk ty (amoOpOf w) && bits w 7 8 = 0 && iFa w < 16 && (!amoNr w || iFd w = 0))
      (useA (iFa w) false :: useS (iFb w) false ++ useS (iFc w) false ++ useS (iFd w) true) with
    addrs := [a], addrOk := a.toNat % amoBytes ty = 0, modeOk := !(x.isStage && floatAdd ty (amoOpOf w)) }

def planAaddt (_ : State) (x : Ctx) (w : Iw) : Plan :=
  let t := Tile.of (x.treg (iFc w))
  let a := x.areg (iFa w)
  let n := tyW t.ty / 8
  { Plan.front (zeroF [iFd w, iFn w] && iFa w < 16 && iFc w < 8)
      (useA (iFa w) false :: useT (iFc w) :: useS (iFb w) false) with
    addrs := [a], tiles := [t], shape := [0, 1, 11, 12].contains t.ty
    addrOk := !([0, 1, 11, 12].contains t.ty) || (a.toNat % n = 0 && (t.rows = 1 || (x.sreg (iFb w)).toNat % n = 0))
    modeOk := !(x.isStage && (t.ty = 0 || t.ty = 1)), srams := dataUse t false }

/-- The WINDOW page that maps an address. -/
def Ctx.windowPage (x : Ctx) (a : W64) : Option Nat :=
  ((x.pageOf a.toNat).filter (fun p => p.kind = 2)).map (fun p => p.dpa a.toNat)

def planWvx (_ : State) (x : Ctx) (w : Iw) : Plan :=
  let a := x.areg (iFa w)
  let area := (x.sreg (iFc w)).toNat
  { Plan.front (zeroF [iFd w, iFn w] && iFa w < 16) (useA (iFa w) false :: useS (iFb w) false ++ useS (iFc w) false) with
    addrs := [a], addrOk := (x.windowPage a).any (fun d => offOf d = windowOff) && decide ((x.sreg (iFb w)).toNat ≤ 1023)
    shape := area % 16 = 0, srams := [(area, 64, true)] }

def planSfence (_ : State) (x : Ctx) (w : Iw) : Plan :=
  let a := x.areg (iFa w)
  { Plan.front (zeroF [iFd w, iFb w, iFc w, iFn w] && iFa w < 16) [useA (iFa w) false] with
    addrs := [a], addrOk := (x.windowPage a).isSome }

/-- WINDEC touches every selected window; a declaration is no write that a dead window refuses (R311). -/
def planWindec (_ : State) (x : Ctx) (w : Iw) : Plan :=
  let m := windowMask (x.sreg (iFa w))
  { Plan.front (zeroF [iFd w, iFb w, iFc w] && iFn w ≤ 1) (useS (iFa w) false) with
    srams := ((List.range 48).filter (m.getLsbD ·)).map (fun i => (i * windowSize, windowSize, false)) }

/-- The front end marks windows live or dead when the declaration is issued, and records a write of each (R311). -/
def markWindows (x : Ctx) (w : Iw) : Ctx :=
  let m := windowMask (x.sreg (iFa w))
  let n := x.sramHaz.length - ((List.range 48).filter (m.getLsbD ·)).length
  { x with sramHaz := x.sramHaz.take n ++ (x.sramHaz.drop n).map (fun h => { h with write := true }),
           live := if windecLive w then x.live ||| m else x.live &&& ~~~m }

/-- The operation just issued is complete at once: it leaves no entry in its unit's queue. -/
def atOnce (c : Ctx → Iw → Bool) (f : Ctx → Iw → Ctx) (x : Ctx) (w : Iw) : Ctx :=
  let y := f x w
  if c x w && waitMet x.ops.dropLast w then { y with ops := x.ops.dropLast } else y

/-! ## Issue -/

/-- 08 R301: DLD issues. -/
def execDld (e : EngineId) (s : State) : Host.Outcome State Fault Refusal := .next (issueUnit s e.val 0xC0 .dma planDld same)
/-- 08 R301: DST issues. -/
def execDst (e : EngineId) (s : State) : Host.Outcome State Fault Refusal := .next (issueUnit s e.val 0xC1 .dma planDst same)
/-- 08 R302: DCPY issues; a length of 0 completes at once. -/
def execDcpy (e : EngineId) (s : State) : Host.Outcome State Fault Refusal :=
  .next (issueUnit s e.val 0xC2 .dma planDcpy (atOnce (fun x w => x.sreg (iFb w) = 0) same))
/-- 08 R304: AMO issues. -/
def execAmo (e : EngineId) (s : State) : Host.Outcome State Fault Refusal := .next (issueUnit s e.val 0xD0 .dma planAmo same)
/-- 08 R305: AADDT issues; its tile is t[FC]. -/
def execAaddt (e : EngineId) (s : State) : Host.Outcome State Fault Refusal :=
  .next (issueUnit s e.val 0xD1 .dma planAaddt (fun x w =>
    { x with ops := x.ops.dropLast ++ (x.ops.getLast?.map (fun o => { o with td := x.treg (iFc w) })).toList }))
/-- 08 R306: WVX issues. -/
def execWvx (e : EngineId) (s : State) : Host.Outcome State Fault Refusal := .next (issueUnit s e.val 0xE0 .dma planWvx same)
/-- 08 R307: SFENCE issues. -/
def execSfence (e : EngineId) (s : State) : Host.Outcome State Fault Refusal := .next (issueUnit s e.val 0xE1 .dma planSfence same)
/-- 08 R311: WINDEC issues; a live declaration is complete at once. -/
def execWindec (e : EngineId) (s : State) : Host.Outcome State Fault Refusal :=
  .next (issueUnit s e.val 0xF2 .dma planWindec (atOnce (fun _ w => windecLive w) markWindows))

end Sys2Proof.Machine
end

