-- ==== Sys2Proof/Machine/Pool.lean ====
section
/-! DEFINITION. The frame pool and the pages of engine address spaces (11 R370-R379, 10 R566): frames free and taken, page-in,
eviction. -/

namespace Sys2Proof.Machine

/-! ## The pool (10 R566, 11 after R376) -/

def frame64k : Nat := 0x10000
def frame2m : Nat := 0x200000

/-- Bytes of a page of a SIZE code (Table 11.1). -/
def pageBytes : Nat → Nat
  | 0 => 0x10000
  | 1 => 0x200000
  | _ => 0x40000000

/-- The contexts held. -/
def contexts (s : State) : List (Nat × Ctx) := s.eng.ctxs.filterMap (fun e => e.2.map (fun x => (e.1, x)))

/-- Frames that pages hold: DPA and size. -/
def framesOf (ps : List Page) : List (Nat × Nat) :=
  ps.filterMap (fun p => if p.kind = 0 then p.frame.map (fun f => (f, p.size)) else none)
def framesHeld (s : State) : List (Nat × Nat) := (contexts s).flatMap (fun c => framesOf c.2.pages)

/-- Free 64 KiB frames of the pool. -/
def freeFrames (s : State) : Nat :=
  poolBytes s / frame64k - (((framesHeld s).map (fun f => f.2 / frame64k)).foldl (· + ·) 0)

/-- The frames that sealed stages hold, which MMU_STAT.FREE counts as free: it reveals nothing about them (R376, 13 R478). -/
def sealedFrames (s : State) : Nat :=
  (((contexts s).filter (fun c => c.2.isSealed)).flatMap (fun c => (framesOf c.2.pages).map (fun f => f.2 / frame64k))).foldl (· + ·) 0

/-- The lowest place from `a` on, in steps of `size`, that shares no byte with a frame held. -/
def freeAt (used : List (Nat × Nat)) (size hi : Nat) : Nat → Nat → Option Nat
  | 0, _ => none
  | n + 1, a =>
    if hi < a + size then none
    else if used.any (fun f => decide (f.1 < a + size) && decide (a < f.1 + f.2)) then freeAt used size hi n (a + size)
    else some a

/-- A free frame for a page of a size, beside `more` frames already chosen. -/
def findFrame (s : State) (more : List (Nat × Nat)) (size : Nat) : Option Nat :=
  let used := framesHeld s ++ more
  let steps := (used.map (fun f => f.2 / size + 2)).foldl (· + ·) 1
  (poolRegions s).findSome? (fun g => freeAt used size (g.aperture + g.size) steps
    (ceilDiv g.aperture size * size))

/-! ## The bytes of a frame -/

/-- A frame is filled: the bytes, then zeros. -/
def fillFrame (s : State) (f size : Nat) (bs : List Byte) : State :=
  let s := zeroRange s f size
  if bs.isEmpty then s else (s.write 1 f (bs.take size) .clean).1

/-! ## New pages -/

/-- A PAGED page with no frame. -/
def newPage (va size : Nat) (w pin : Bool) : Page := ⟨va, size, 0, w, pin, false, false, false, none, 0, false, false, false⟩

/-- PINned pages from `va` on, `n` of them, that hold `bs`, each resident in a frame of its own; none where the pool is short. -/
def pinnedPages (size : Nat) (w : Bool) : Nat → State → List Page → Nat → List Byte → Option (State × List Page)
  | 0, s, ps, _, _ => some (s, ps)
  | n + 1, s, ps, va, bs =>
    match findFrame s (framesOf ps) size with
    | none => none
    | some f =>
      pinnedPages size w n (fillFrame s f size (bs.take size))
        (ps ++ [{ newPage va size w true with res := true, frame := some f }]) (va + size) (bs.drop size)

/-! ## Page-in (Table 11.4) -/

def Ctx.setPage (x : Ctx) (va : Nat) (f : Page → Page) : Ctx :=
  { x with pages := x.pages.map (fun p => if p.va = va then f p else p) }

/-- The DMA operation of a context that may run: the first, once the operations that it waits for are complete (R262). -/
def frontDma (x : Ctx) : Option Op :=
  match x.ops.findIdx (·.unit = .dma) with
  | i => (x.ops[i]?).filter (fun o => waitMet (x.ops.take i) o.word.toNat)

/-- The page that the front DMA operation of a context needs, with the run up to it. -/
def missingPage (s : State) (x : Ctx) : Option (Op × Run × Nat × Bool) :=
  (frontDma x).bind (fun o =>
    let r := dmaRun s x o
    match r.stop with
    | some (.page va w) => some (o, r, va, w)
    | _ => none)

/-- An operation's progress is kept. -/
def Ctx.progress (x : Ctx) (o : Op) (off : Nat) : Ctx :=
  { x with ops := x.ops.map (fun p => if p.seq = o.seq then { p with offset := off } else p) }

def evFrameShort : Nat := 0x40
def srcMmu : Nat := 0x60

/-- Some page can be evicted, or is being written out. -/
def anyEvictable (s : State) : Bool :=
  (contexts s).any (fun c => c.2.pages.any (fun p => p.kind = 0 && !p.pin && p.frame.isSome && (p.res || p.writing)))

/-- The bytes that a page-in brings: its backing copy, or zeros. -/
def pageData (s : State) (p : Page) : List Byte := if p.backed then Tab.get [] s.flash.backing p.fla.toNat else []

/-- A page is mapped in the frame that holds it (Table 11.4 step 4), and a context that waited for it can run (R379). -/
def remapPage (s : State) (c : Nat) (x : Ctx) (p : Page) (w : Bool) : State :=
  let waiting := (x.pageAt.bind x.pageOf).any (fun q => q.va = p.va)
  let x := x.setPage p.va (fun p => { p with res := true, a := true, d := p.d || w, wanted := false })
  let x := if waiting then { x with pageAt := none, st := match x.st with
    | .pageWait => .saved
    | y => y } else x
  { s.setCtx c (some x) with eng.pageins := satAdd 16 s.eng.pageins 1 }

/-- A page becomes resident in the frame that it holds. -/
def mapPage (s : State) (c : Nat) (x : Ctx) (p : Page) (f : Nat) (w : Bool) : State :=
  remapPage (fillFrame s f p.size (pageData s p)) c x p w

/-- 11 R379, Table 11.4 steps 1 and 2: a DMA operation of the context on engine `e` meets a page that is not resident; it is
suspended at its offset, and a frame is taken, or waited for. -/
def execPageIn (e : EngineId) (s : State) : Host.Outcome State Fault Refusal :=
  if unitStopped s 4 then .next s else
  .next (match (s.engine e.val).work with
    | .context c =>
      (match s.ctx c with
       | none => s
       | some x =>
         match missingPage s x with
         | none => s
         | some (o, r, va, _) =>
           match r.x.pageOf va with
           | none => s
           | some p =>
             let y := { (r.x.progress o r.off) with pageAt := some p.va }
             if p.frame.isSome then r.s.setCtx c (some y)
             else match findFrame r.s [] p.size with
               | some f => r.s.setCtx c (some (y.setPage p.va (fun p => { p with frame := some f })))
               | none =>
                 let s := r.s.setCtx c (some y)
                 if !anyEvictable s then postM s evFrameShort srcMmu noQueue 0 0 0 else s)
    | _ => s)

/-- The backing units of a page are read, each as any other read of the block's own (06 R201, R205, R214). -/
def readBacking (s : State) (isSealed : Bool) (p : Page) : State :=
  if !p.backed then s else ownRead s (unitsOfRun s p.fla.toNat (p.size / 4096)) isSealed

/-- Flash has lost a unit of the page's backing copy (06 R206): no page-in brings it back, and its context faults (Table 11.7). -/
def backingGone (s : State) (p : Page) : Bool := p.backed && (Tab.get [] s.flash.backing p.fla.toNat).isEmpty

/-- 11 R380, Table 11.4 steps 3 to 5: the frame holds the page, and the suspended operation may go on. A page-in that still waits at
step 2 takes a frame that has come free, whether its context is on an engine or saved (R379, R390). A backing unit that cannot be
rebuilt brings no page: EXECUTION_FAULT follows. -/
def execPageInDone (c : ContextId) (s : State) : Host.Outcome State Fault Refusal :=
  if unitStopped s 4 then .next s else
  .next (match s.ctx c.val with
    | none => s
    | some x =>
      match x.pageAt.bind x.pageOf with
      | none => s
      | some p =>
        match p.frame.orElse (fun _ => findFrame s [] p.size) with
        | none => s
        | some f =>
          let t := readBacking s x.isSealed p
          if p.res || p.writing then s
          else if backingGone t p then t
          else mapPage t c.val (x.setPage p.va (fun p => { p with frame := some f })) p f
            ((missingPage s x).any (fun m => m.2.2.2)))

/-- 11 R379, R389: a page-in that outlasts PREEMPT_US pre-empts its program; it goes on while the context is saved. -/
def execPageinPreempt (c : ContextId) (s : State) : Host.Outcome State Fault Refusal :=
  if unitStopped s 4 then .next s else
  .next (match s.ctx c.val with
    | none => s
    | some x =>
      match x.st, x.pageAt with
      | .running e, some _ => saveContext (waitSave s) e
      | _, _ => s)

/-! ## Eviction (R378) -/

/-- The MMU has to free frames: fewer than FREEMIN are free, or a page-in waits for one. -/
def framesWanted (s : State) : Bool :=
  decide (freeFrames s < s.eng.freeMin)
    || (contexts s).any (fun c => (c.2.pageAt.bind c.2.pageOf).any (fun p => p.frame.isNone)
      || c.2.pages.any (fun p => p.wanted && p.frame.isNone))

/-- 11 R378: the sweep passes a page: A is cleared; with A clear already, a clean page is released and a dirty one is written
out. -/
def execEviction (c : ContextId) (va : BitVec 48) (s : State) : Host.Outcome State Fault Refusal :=
  if unitStopped s 4 then .next s else
  .next (match s.ctx c.val with
    | none => s
    | some x =>
      match x.pageOf va.toNat with
      | none => s
      | some p =>
        if p.kind ≠ 0 || !p.res || p.pin || !framesWanted s then s
        else if p.a then s.setCtx c.val (some (x.setPage p.va (fun p => { p with a := false })))
        else if p.d then s.setCtx c.val (some (x.setPage p.va (fun p => { p with res := false, d := false, writing := true })))
        else s.setCtx c.val (some (x.setPage p.va (fun p => { p with res := false, frame := none }))))

/-- The backing store has room for `n` bytes more (06 R185). -/
def backingRoom (s : State) (n : Nat) : Bool := decide (s.flash.backingBytes + n ≤ s.flash.engback * 256000000000)

/-- Bytes of a frame. -/
def frameBytes (s : State) (f n : Nat) : List Byte :=
  match regionOf s f with
  | none => []
  | some (g, x) => (List.range n).map (fun i => s.byte (locate g (x + i)))

/-- 11 R378: the program of a dirty page completes, appended to open rows (06 R183): FLA and BACKED are written, and its frame is released, unless a page-in
of the page waits for it: that maps the frame again without reading flash. -/
def execEvictionWriteDone (c : ContextId) (va : BitVec 48) (fla : BitVec 40) (s : State) : Host.Outcome State Fault Refusal :=
  if unitStopped s 4 then .next s else
  .next (match s.ctx c.val with
    | none => s
    | some x =>
      match x.pageOf va.toNat with
      | none => s
      | some p =>
        match p.frame with
        | none => s
        | some f =>
          if !p.writing || !(p.backed || backingRoom s p.size) || !runFree s fla.toNat (p.size / 4096) then s
          else
            let waits := decide (x.pageAt = some p.va) || p.wanted
            let old := if p.backed then Tab.set [] s.flash.backing p.fla.toNat [] else s.flash.backing
            let s := claimRows s fla.toNat (p.size / 4096)
            let t := { s with flash.backing := Tab.set [] old fla.toNat (frameBytes s f p.size),
                              flash.backingBytes := if p.backed then s.flash.backingBytes else s.flash.backingBytes + p.size,
                              eng.evicts := satAdd 16 s.eng.evicts 1 }
            let y := x.setPage p.va (fun p => { p with
              writing := false, wanted := false, backed := true, fla := fla, frame := if waits then p.frame else none })
            if waits then remapPage t c.val y p ((missingPage s x).any (fun m => m.2.2.2)) else t.setCtx c.val (some y))

end Sys2Proof.Machine
end

