-- ==== Sys2Proof/Machine/Units.lean ====
section
/-! DEFINITION. The expansion, LUT, selection and reduction units (08 R289-R300). -/

namespace Sys2Proof.Machine

/-! ## Expansion (R289) -/

/-- The coding parameters of a vector part alone: REFINE_ENC and D. -/
def encParams (enc d : Nat) : Params := ⟨0, d, false, 16, 0, 0, [], 0, enc⟩

def planXpnd (_ : State) (x : Ctx) (w : Iw) : Plan :=
  let d := x.tileD w
  let a := x.tileA w
  let fn := iFn w
  { legal := zeroF [iFb w, iFc w] && fn ≤ 7 && iFd w < 8 && iFa w < 8, addrs := [], addrOk := true, tiles := [d, a]
    matOk := true
    shape := d.ty = 1 && d.rows = a.rows
      && (if fn ≤ 5 then a.ty = 7 && a.cols = (encParams fn d.cols).vecBytes
          else if fn = 6 then (a.ty = 8 || a.ty = 9) && a.scale = 3 && a.cols = d.cols
          else a.ty = 5 && a.scale = 2 && a.cols = d.cols)
    modeOk := true, regs := [useT (iFd w), useT (iFa w)]
    srams := dataUse d true ++ (if fn ≤ 5 then dataUse a false else tileUse a false) }

/-- One row, expanded to BF16. -/
def expandRow (x : Ctx) (fn d : Nat) (a : Tile) (r : Nat) : List Nat :=
  if fn ≤ 5 then (expandRefine (encParams fn d) (a.row x r)).map (·.toNat)
  else (if fn = 6 then xbRow x a r else mmRow x a r).map bf16.rne

def doXpnd (x : Ctx) (o : Op) : Ctx :=
  let d := Tile.of o.td
  let a := Tile.of o.ta
  d.setRows x 0 ((List.range a.rows).map (expandRow x (iFn o.word.toNat) d.cols a))

/-! ## LUT-distance (R291-R294) -/

/-- M of a CODE and M code; 0 where it is not defined. -/
def mOf (pq8 : Bool) (code : Nat) : Nat :=
  if pq8 then (match code with | 0 => 8 | 1 => 16 | _ => 0)
  else match code with | 0 => 16 | 1 => 32 | 2 => 64 | 3 => 128 | _ => 0

/-- CODE, M, FORMAT, OUT_N and METRIC of FN as coding parameters. -/
def lutParams (w : Iw) : Params :=
  ⟨bits w 10 2, 0, bit w 0, mOf (bit w 0) (bits w 1 3), bits w 4 2, bits w 6 4, [], 0, 0⟩

/-- The scoring set in 32 bytes (R82). -/
def setOfBytes (bs : List Byte) : GenSet :=
  ⟨bs.getD 0 0, byteAt bs 1, le bs 2 2, BitVec.ofNat 32 (le bs 4 4), BitVec.ofNat 32 (le bs 8 4),
    (chunksOf 2 8 (bs.drop 16)).map (BitVec.ofNat 16)⟩

/-- A scoring set that LDIST takes (R293). -/
def setOk (bs : List Byte) : Bool := decide (byteAt bs 1 ≤ 31) && le bs 2 2 ≠ 0 && zeroAt bs 12 4

def lutArea : Nat := 4128

def planLdist (_ : State) (x : Ctx) (w : Iw) : Plan :=
  let d := x.tileD w
  let a := x.tileA w
  let p := lutParams w
  let l := (x.sreg (iFb w)).toNat
  { legal := iFc w = 0 && bits w 13 2 = 0 && p.m ≠ 0 && p.format ≤ 2 && p.metric ≤ 2 && iFd w < 8 && iFa w < 8
    addrs := [], addrOk := true, tiles := [d, a], matOk := true
    shape := decide (a.rows ≤ 256) && a.ty = 7 && a.cols = p.recBytes
      && (if bit w 12 then d.ty = 7 && d.rows = a.rows && d.cols = 16 else d.ty = 11 && d.rows = 1 && d.cols = a.rows)
      && (p.format = 2 || p.outN = 0) && decide (p.outN ≤ 8) && l % 16 = 0
      && (decide (sramSize < l + lutArea) || setOk (x.sbytes (l + 4096) 32))
    modeOk := true, regs := useT (iFd w) :: useT (iFa w) :: useS (iFb w) false
    srams := dataUse d true ++ dataUse a false ++ [(l, lutArea, false)] }

/-- LDIST: scores by R84; a clamp sets EF.CLIP, a new NaN EF.INV. -/
def doLdist (x : Ctx) (o : Op) : Ctx :=
  let w := o.word.toNat
  let d := Tile.of o.td
  let a := Tile.of o.ta
  let p := lutParams w
  let l := o.sb.toNat
  let g : GenCtx := ⟨setOfBytes (x.sbytes (l + 4096) 32), x.sbytes l 4096, []⟩
  let recs := (List.range a.rows).map (fun r => ScanRec.ofBytes p.c p.format (a.row x r))
  let rs := recs.map (scoreOf p.metric p.format p.outN p.m p.pq8 g)
  let y := if bit w 12 then
      rs.zipIdx.foldl (fun y (v, r) => y.setBytes (d.base + r * 16 * d.stride + 8) (leBytes 4 (ofSigned 32 v.1))) x
    else d.setRows x 0 [rs.map (fun v => ofSigned 32 v.1)]
  (y.flag 2 (rs.any (·.2))).flag 3 (recs.any (preloadInv p.metric p.format p.outN g.set))

def boundBytes (p : Params) : Nat := 4 * (p.groups + 1)

def planLbound (_ : State) (x : Ctx) (w : Iw) : Plan :=
  let p := lutParams w
  { Plan.front (zeroF [iFd w, iFc w] && bits w 4 11 = 0 && p.m ≠ 0) (useS (iFa w) false ++ useS (iFb w) false) with
    srams := [((x.sreg (iFa w)).toNat, 4096, false), ((x.sreg (iFb w)).toNat, boundBytes p, true)] }

/-- LBOUND: the bound table of R119. -/
def doLbound (x : Ctx) (o : Op) : Ctx :=
  let p := lutParams o.word.toNat
  x.setBytes o.sb.toNat ((boundsOf p (x.sbytes o.sa.toNat 4096)).flatMap (fun v => leBytes 4 (ofSigned 32 v)))

/-! ## Selection (R295-R297) -/

def planThrc (_ : State) (x : Ctx) (w : Iw) : Plan :=
  let d := x.tileD w
  let a := x.tileA w
  { legal := iFn w = 0 && iFd w < 8 && iFa w < 8, addrs := [], addrOk := true, tiles := [d, a], matOk := true
    shape := a.rows = 1 && d.rows = 1 && (a.ty = 0 || a.ty = 11) && d.ty = 11, modeOk := true
    regs := useT (iFd w) :: useT (iFa w) :: useS (iFb w) false ++ useS (iFc w) true
    srams := dataUse d true ++ dataUse a false }

/-- THRC: the indices at or above the threshold, ascending, and their count. -/
def doThrc (x : Ctx) (o : Op) : Ctx :=
  let d := Tile.of o.td
  let a := Tile.of o.ta
  let hits := ((a.elems x 0).zipIdx.filter (fun (v, _) => vcmp a.ty 5 v (o.sb.toNat % 2 ^ 32))).map (·.2)
  let y := x.setBytes d.base (packRow 32 (hits.take d.cols))
  y.setS (iFc o.word.toNat) (BitVec.ofNat 64 hits.length)

/-- An entry of a selection tile: its 16 bytes. -/
abbrev SelEnt := List Byte

def entVid (e : SelEnt) : Nat := le e 0 8
def entKey (e : SelEnt) : Nat := le e 8 4
def entVersion (e : SelEnt) : Nat := le e 12 3 % 2 ^ 20
def entSide (e : SelEnt) : Bool := bit (le e 12 3) 20
def entPad (e : SelEnt) : Bool := entVid e = ones64
def padEnt : SelEnt := leBytes 8 ones64 ++ leBytes 4 0x80000000 ++ zeros 4

/-- Key a ranks above, level with, or below key b: 1, 0, -1. FPL puts non-finite keys below every finite one. -/
def keyCmp (order a b : Nat) : Int :=
  if order = 0 then
    let x := toSigned 32 a
    let y := toSigned 32 b
    if x < y then -1 else if y < x then 1 else 0
  else
    let x := fp32.dec a
    let y := fp32.dec b
    match x.isFinite, y.isFinite with
    | true, true => (x.cmp y).getD 0
    | true, false => 1
    | false, true => -1
    | false, false => 0

/-- Two keys are equal as numbers (R297): a NaN equals none. -/
def keyEq (order a b : Nat) : Bool :=
  if order = 0 then a = b else (fp32.dec a).cmp (fp32.dec b) = some 0

/-- Order of selection: padding last, then key, then VID. Where both agree, the bytes of the entry decide, lower first, since the
result is not to depend on the order of rows (R297, log 85). -/
def entBefore (order : Nat) (a b : SelEnt) : Bool :=
  if entPad a || entPad b then !entPad a && entPad b
  else
    let c := keyCmp order (entKey a) (entKey b)
    decide (0 < c) || (c = 0 && (decide (entVid a < entVid b) || (entVid a = entVid b && decide (ofLe a < ofLe b))))

/-- R160 for two entries of one VID. -/
def entDup (order : Nat) (d e : SelEnt) : SelEnt × Bool :=
  if newer (entVersion d) (entVersion e) then (d, false)
  else if newer (entVersion e) (entVersion d) then (e, false)
  else (if entSide d != entSide e then (if entSide d then e else d)
    else if entBefore order e d then e else d, true)

/-- Entries with one copy for each VID, and whether a pair had no newer version. -/
def dedup (order : Nat) (es : List SelEnt) : List SelEnt × Bool :=
  es.foldl (fun (a : List SelEnt × Bool) e =>
    if entPad e then (a.1 ++ [e], a.2)
    else match takeFirst (fun d => entVid d = entVid e) a.1 with
      | none => (a.1 ++ [e], a.2)
      | some (d, rest) =>
        let r := entDup order d e
        (rest ++ [r.1], a.2 || r.2)) ([], false)

/-- Two tiles have a byte in common. -/
def Tile.meets (d a : Tile) : Bool :=
  decide (d.base < a.base + a.span) && decide (a.base < d.base + d.span)
  && (List.range d.rows).any (fun i => (List.range a.rows).any (fun j =>
      decide (d.base + i * 16 * d.stride < a.base + j * 16 * a.stride + a.rowBytes)
      && decide (a.base + j * 16 * a.stride < d.base + i * 16 * d.stride + d.rowBytes)))

def planTopk (_ : State) (x : Ctx) (w : Iw) : Plan :=
  let d := x.tileD w
  let a := x.tileA w
  { legal := iFc w = 0 && iFn w ≤ 7 && iFn w % 4 ≠ 3 && iFd w < 8 && iFa w < 8, addrs := [], addrOk := true
    tiles := [d, a], matOk := true
    shape := d.ty = 7 && a.ty = 7 && d.cols = 16 && a.cols = 16 && !d.meets a
    modeOk := true, regs := useT (iFd w) :: useT (iFa w) :: useS (iFb w) true
    srams := dataUse d true ++ dataUse a false }

/-- TOPK: the selected entries in order, padding after them, and the summary. -/
def doTopk (x : Ctx) (o : Op) : Ctx :=
  let w := o.word.toNat
  let order := iFn w % 4
  let d := Tile.of o.td
  let a := Tile.of o.ta
  let es := sortBy (fun p q => decide (ofLe p < ofLe q)) ((List.range a.rows).map (fun r => a.row x r))
  let (es, inc) := if bit w 2 then dedup order es else (es, false)
  let real := es.filter (fun e => !entPad e)
  let out := if order = 1 then real.filter (fun e => !(fp32.dec (entKey e)).isFinite) else []
  let kept := if order = 1 then real.filter (fun e => (fp32.dec (entKey e)).isFinite) else real
  let ranked := sortBy (entBefore order) kept
  let top := ranked.take d.rows
  let ties := if top.length < d.rows then 0
    else match top.getLast? with
      | none => 0
      | some l => ((ranked.drop d.rows).filter (fun e => keyEq order (entKey e) (entKey l))).length
  let rows := (top ++ List.replicate (d.rows - top.length) padEnt).map (fun e => e.map (·.toNat))
  let sum := field top.length 0 13 + field ties 16 13 + field out.length 32 13 + field (b2n inc) 48 1
  ((d.setRows x 0 rows).flag 4 (!out.isEmpty)).setS (iFb w) (BitVec.ofNat 64 sum)

/-! ## Reductions (R298-R300) -/

def redFloat (t : Nat) : Bool := t ≤ 2
def redInt (t : Nat) : Bool := t = 6 || t = 10 || t = 11

/-- A reduction of t[FA] into t[FD] with `cols` columns of a type. -/
def planRed (fnMax cols : Nat) (inOk : Nat → Bool) (outTy : Nat → Nat) (x : Ctx) (w : Iw) : Plan :=
  let d := x.tileD w
  let a := x.tileA w
  { legal := zeroF [iFb w, iFc w] && iFn w ≤ fnMax && iFd w < 8 && iFa w < 8, addrs := [], addrOk := true
    tiles := [d, a], matOk := true, shape := d.rows = a.rows && d.cols = cols && inOk a.ty && d.ty = outTy a.ty
    modeOk := true, regs := [useT (iFd w), useT (iFa w)], srams := dataUse d true ++ dataUse a false }

def planRsum (_ : State) (x : Ctx) (w : Iw) : Plan :=
  planRed 1 1 (fun t => redFloat t || redInt t) (fun t => if redFloat t then 0 else 12) x w
def planRmv (_ : State) (x : Ctx) (w : Iw) : Plan := planRed 0 2 (fun t => redFloat t || redInt t) (fun _ => 13) x w
def planRmaxsum (_ : State) (x : Ctx) (w : Iw) : Plan := planRed 1 2 redFloat (fun _ => 0) x w

/-- The FP32 sum in ascending order, from +0. -/
def sum32 (xs : List W32) : W32 := xs.foldl f32Add 0

/-- A reduction meets a NaN that comes from operands that are none: before the first NaN of the row, if it has one. -/
def newNan (xs : List FVal) (f : List FVal → FVal) : Bool :=
  let pre := xs.takeWhile (fun v => !v.isNan)
  !pre.isEmpty && (f pre).isNan

/-- RSUM of one row. -/
def rsumRow (ty : Nat) (sq : Bool) (es : List Nat) : Res :=
  let vs := es.map (tyVal ty)
  if redFloat ty then
    let sum (vs : List FVal) : W32 :=
      let xs := vs.map toF32
      sum32 (if sq then xs.map (fun v => f32Mul v v) else xs)
    ⟨(sum vs).toNat, false, newNan vs (fun vs => f32 (sum vs))⟩
  else
    let xs := es.map (tyInt ty)
    satTo 12 (xs.foldl (fun a v => a + (if sq then v * v else v)) 0)

def f64r (v : FVal) : FVal := fp64.dec (fp64.rne v)

/-- The FP64 pass of R299. -/
def meanVar (vs : List FVal) : FVal × FVal :=
  let r := vs.zipIdx.foldl (fun (a : FVal × FVal) (v, i) =>
    let d := f64r (v.sub a.1)
    let mean := f64r (a.1.add (f64r (d.div (.ofInt (i + 1 : Nat)))))
    (mean, f64r (a.2.add (f64r (d.mul (f64r (v.sub mean))))))) (.zero, .zero)
  (r.1, f64r (r.2.div (.ofInt vs.length)))

/-- RMV of one row: mean and population variance. -/
def rmvRow (ty : Nat) (es : List Nat) : List Res :=
  if redFloat ty then
    let vs := es.map (tyVal ty)
    let r := meanVar vs
    [⟨fp64.rne r.1, false, newNan vs (fun vs => (meanVar vs).1)⟩, ⟨fp64.rne r.2, false, newNan vs (fun vs => (meanVar vs).2)⟩]
  else
    let xs := es.map (tyInt ty)
    let sum := xs.foldl (· + ·) 0
    let sq := xs.foldl (fun a v => a + (v * v).natAbs) 0
    [Res.plain (meanOf sum xs.length), Res.plain (varOf sum sq xs.length)]

/-- e^(-a / 2^149) in units of 2^-320. A power series of the 2^16th part, squared 16 times; the error stays below 2^-130 of it. -/
def expFix (a : Nat) : Nat :=
  if 128 * 2 ^ 149 ≤ a then 0
  else
    let u : Int := ((a * 2 ^ 155 : Nat) : Int)
    let t := (List.range 40).foldl (fun (p : Int × Int) i =>
      let n : Int := -(p.1 * u) / 2 ^ 320 / ((i : Int) + 1)
      (n, p.2 + n)) ((2 ^ 320 : Int), (2 ^ 320 : Int))
    (List.range 16).foldl (fun y _ => y * y / 2 ^ 320) t.2.toNat

/-- FP32 values nearer than 1 ulp to `y` units of 2^-320. -/
def ulpOf (y : Nat) : List Nat :=
  let lo := fp32.magBits truncShift y (-320)
  let q := max (-149 : Int) ((Nat.log2 y : Int) - 343)
  ((List.range 4).map (fun i => lo + i - 1)).dedup.filter (fun b =>
    match fp32.dec b with
    | .num n m e => decide ((FVal.scaled n m e (-320) - y).natAbs < 2 ^ (q + 320).toNat)
    | _ => false)

/-- The engine's FP32 exponential of a value that is not above 0, with an error below 1 ulp (R300): which of the values that this
allows it gives is free (log 7). -/
def f32Exp (d : W32) : W32 :=
  match f32 d with
  | .num _ m e =>
    let y := expFix (m * 2 ^ (e + 149).toNat)
    let cs := if y = 0 then [0, 1] else ulpOf y
    BitVec.ofNat 32 (cs.getD (Config.exp32Pick d % cs.length) 0)
  | .inf _ => 0
  | .nan => d

/-- RMAXSUM of one row: the maximum, then the sum, or the sum of exponentials of the differences. -/
def rmaxRow (ty : Nat) (isExp : Bool) (es : List Nat) : List Res :=
  let vs := es.map (tyVal ty)
  if vs.any FVal.isNan then [Res.plain fp32.nanBits, Res.plain fp32.nanBits]
  else
    let m := vs.tail.foldl fMax (vs.headD .zero)
    let terms := vs.map (fun v =>
      if isExp then
        f32Exp (toF32 (v.sub m))
      else toF32 v)
    let r := sum32 terms
    [Res.plain (fp32.rne m), ⟨r.toNat, false, (f32 r).isNan⟩]

/-- Output rows of a reduction, with its flags. -/
def putRed (x : Ctx) (d : Tile) (rows : List (List Res)) : Ctx :=
  (d.setRows x 0 (rows.map (·.map (·.bits)))).raiseAll (rows.flatMap id)

def redRows (x : Ctx) (o : Op) (f : Nat → List Nat → List Res) : Ctx :=
  let a := Tile.of o.ta
  putRed x (Tile.of o.td) ((List.range a.rows).map (fun r => f a.ty (a.elems x r)))

def doRsum (x : Ctx) (o : Op) : Ctx := redRows x o (fun ty es => [rsumRow ty (bit o.word.toNat 0) es])
def doRmv (x : Ctx) (o : Op) : Ctx := redRows x o rmvRow
def doRmaxsum (x : Ctx) (o : Op) : Ctx := redRows x o (fun ty es => rmaxRow ty (bit o.word.toNat 0) es)

/-! ## Issue -/

/-- 08 R289: XPND issues. -/
def execXpnd (e : EngineId) (s : State) : Host.Outcome State Fault Refusal := .next (issueUnit s e.val 0x80 .expansion planXpnd same)

/-- The bytes that LDIST checks at issue (R293) stand: every operation under a token of its wait set is complete (R225). -/
def lutSettled (s : State) (e : Nat) : Bool :=
  match runningOn s e with
  | none => true
  | some (_, x) => (x.wordAt x.pc).all (fun b => waitMet x.ops b.toNat)

/-- 08 R291: LDIST issues. -/
def execLdist (e : EngineId) (s : State) : Host.Outcome State Fault Refusal :=
  .next (if lutSettled s e.val then issueUnit s e.val 0x90 .lut planLdist same else s)
/-- 08 R294: LBOUND issues. -/
def execLbound (e : EngineId) (s : State) : Host.Outcome State Fault Refusal := .next (issueUnit s e.val 0x91 .lut planLbound same)
/-- 08 R295: THRC issues. -/
def execThrc (e : EngineId) (s : State) : Host.Outcome State Fault Refusal := .next (issueUnit s e.val 0xA0 .selection planThrc same)
/-- 08 R296: TOPK issues. -/
def execTopk (e : EngineId) (s : State) : Host.Outcome State Fault Refusal := .next (issueUnit s e.val 0xA1 .selection planTopk same)
/-- 08 R298: RSUM issues. -/
def execRsum (e : EngineId) (s : State) : Host.Outcome State Fault Refusal := .next (issueUnit s e.val 0xB0 .reduction planRsum same)
/-- 08 R299: RMV issues. -/
def execRmv (e : EngineId) (s : State) : Host.Outcome State Fault Refusal := .next (issueUnit s e.val 0xB1 .reduction planRmv same)
/-- 08 R300: RMAXSUM issues. -/
def execRmaxsum (e : EngineId) (s : State) : Host.Outcome State Fault Refusal := .next (issueUnit s e.val 0xB2 .reduction planRmaxsum same)

end Sys2Proof.Machine
end

