-- ==== Sys2Proof/Machine/Context.lean ====
section
/-! DEFINITION. What happens to contexts (07 R226, R239, 11 R380-R398): operations complete or fault, programs are stopped,
pre-empted, restored and timed out. -/

namespace Sys2Proof.Machine

/-! ## Completion of operations (07 R226) -/

/-- The operation of Table 8.3 with an opcode, for every unit but the DMA unit. -/
def doOp (x : Ctx) (o : Op) : Ctx :=
  match iOp o.word.toNat with
  | 0x50 => doVarith x o
  | 0x51 => doVcmp x o
  | 0x52 => doVsel x o
  | 0x53 => doVcvt x o
  | 0x54 => doVperm x o
  | 0x55 => doVbcast x o
  | 0x56 => doVext x o
  | 0x57 => doVsrnd x o
  | 0x60 => doVld x o
  | 0x61 => doVst x o
  | 0x62 => doPlogic x o
  | 0x63 => doPset x o
  | 0x64 => doPcnt x o
  | 0x70 => doMopen x o
  | 0x71 => doMmul x o
  | 0x72 => doMclose x o
  | 0x73 => doMdrop x o
  | 0x74 => doMacc x o
  | 0x80 => doXpnd x o
  | 0x90 => doLdist x o
  | 0x91 => doLbound x o
  | 0xA0 => doThrc x o
  | 0xA1 => doTopk x o
  | 0xB0 => doRsum x o
  | 0xB1 => doRmv x o
  | 0xB2 => doRmaxsum x o
  | _ => x

/-- The context on engine `e` whose operations go on: also after END, until all are complete (R272). -/
def activeOn (s : State) (e : Nat) : Option (Nat × Ctx) :=
  match (s.engine e).work with
  | .context c =>
    if s.pwr.state ≠ 0 then none else (s.ctx c).bind (fun x => if x.st = .running e && x.trapRec.isNone then some (c, x) else none)
  | _ => none

/-- The first operation of a unit, once every operation that it waits for is complete (R225, R262). -/
def frontOp (x : Ctx) (u : OcUnit) : Option Op :=
  let i := x.ops.findIdx (fun o => o.unit = u)
  (x.ops[i]?).filter (fun o => waitMet (x.ops.take i) o.word.toNat)

/-- An operation leaves its unit: its token's count falls (R224). -/
def Ctx.done (x : Ctx) (o : Op) : Ctx := { x with ops := x.ops.filter (fun p => p.seq ≠ o.seq) }

/-- An operation is over with what follows from it. -/
def completeOp (s : State) (c : Nat) (x : Ctx) (o : Op) : State :=
  if o.unit = .dma then
    let r := dmaRun s x o
    match r.stop with
    | none => r.s.setCtx c (some (r.x.done o))
    | some .wait => r.s.setCtx c (some (r.x.progress o r.off))
    | some _ => s
  else s.setCtx c (some ((doOp x o).done o))

/-- 07 R226: the first operation of a unit completes, and the count of its token falls. A DMA operation that meets a page
or a fault does not (PAGE_IN, EXECUTION_FAULT). -/
def execOpComplete (e : EngineId) (u : OcUnit) (s : State) : Host.Outcome State Fault Refusal :=
  .next (match activeOn s e.val with
    | none => s
    | some (c, x) => match frontOp x u with
      | none => s
      | some o => completeOp s c x o)

/-! ## Execution faults (11 R383, Tables 11.7, 11.8) -/

/-- DMA descriptor number that INFO of an execution fault gives: no rule numbers them (log 5). -/
def descriptor (s : State) : Nat × State := ((s.draw).1 % 1024, (s.draw).2)

/-- The context traps at an operation: its progress is kept. -/
def faultAt (s : State) (c : Nat) (x : Ctx) (o : Op) (off code va : Nat) : State :=
  let (n, s) := descriptor s
  let shown := decide (0x10 ≤ code) && decide (code ≤ 0x13)
  trapCtx s c (x.progress o off) ⟨o.pc, code, o.unit, n, if shown then va else 0, off⟩

/-- The first memory address that a DMA operation reads from its progress on. -/
def sourceVa (o : Op) : Option Nat :=
  match iOp o.word.toNat with
  | 0xC0 => some (tileEnds o o.offset).1
  | 0xC2 => some (o.aa.toNat + o.offset)
  | 0xD0 => some o.aa.toNat
  | 0xD1 =>
    let t := Tile.of o.td
    some ((o.aa.toNat + o.offset / t.cols * o.sb.toNat + o.offset % t.cols * (tyW t.ty / 8)) % 2 ^ 64)
  | _ => none

/-- An uncorrectable read of a DMA operation is counted and logged by its controller (10 R344). Which outcome of Table 10.4 it is no
operand says (log 5). -/
def logUncorrectable (s : State) (x : Ctx) (o : Op) : State :=
  match ((sourceVa o).bind x.dpaOf).map (find s 1) with
  | some (.data pl tag hide) =>
    let (k, s) := s.draw
    let f : Finding := if tag.isNone then .dieUncorrectable else match k % 3 with
      | 0 => .twoSymbols
      | 1 => .tagMismatch
      | _ => .dieUncorrectable
    (readFinding s 1 pl tag hide f).1
  | _ => s

/-- 07 R239: the context on an engine has reached its budget and is stopped. -/
def execBudgetReached (e : EngineId) (s : State) : Host.Outcome State Fault Refusal :=
  .next (match runningOn s e.val with
    | none => s
    | some (c, x) => if x.spent then trapCtx s c x ⟨x.pc, fcBudget, .front, 0, 0, 0⟩ else s)

/-! ## Engine work and where it may start (11 R392, R394-R397) -/

/-- Engines that run the standard LUT stage. -/
def stdStages (s : State) : Nat := (s.eng.engines.filter (fun e => match e.2.work with
  | .lutStd _ => true
  | _ => false)).length

/-- The contexts that hold search stages, 32 at most (R370); a standard LUT stage takes one while it runs. -/
def stageContexts (s : State) : Nat := ((contexts s).filter (fun c => c.2.isStage)).length + stdStages s

/-- The work waits for an engine: not a context that waits for a page, nor a test that is paused. -/
def Work.waits (w : Work) (s : State) : Bool :=
  match w.work with
  | .context c => (s.ctx c).any (fun x => x.st = .saved)
  | .test n => s.maint.claims.any (fun e => e.2.any (fun c => c.cmd = n && c.act.isTest && c.pausedBy.isEmpty))
  | _ => true

/-- The work can start on some engine that suits it: a stage needs a context, and waits without one as if no engine were free (R370). -/
def ready (s : State) (w : Work) : Bool :=
  w.waits s && (match w.work with
    | .stage _ => decide (stageContexts s < 32)
    | .lutStd _ => decide (stageContexts s < 32)
    | _ => true)

/-- A microcode update replaces version `v` (14 R492). -/
def outgoing (s : State) (v : W16) : Bool :=
  s.maint.claims.any (fun e => e.2.any (fun c => c.begun && (match c.act with
    | .update 1 _ _ image _ => (Config.imageVersion image).truncate 16 ≠ v
    | _ => false)))

/-- A context saved under an outgoing version, which is restored ahead of other work (14 R492). -/
def outgoingWork (s : State) (w : Work) : Bool :=
  match w.work with
  | .context c => (s.ctx c).any (fun x => x.saved && outgoing s x.ucode)
  | _ => false

/-- The work of class `k` whose turn it is: the first requested of those that wait (R397), a context of an outgoing version before
any other (14 R492). -/
def nextWork (s : State) (k : Nat) : Option Work :=
  (s.eng.work.find? (fun w => w.cls = k && w.waits s && outgoingWork s w)).orElse
    (fun _ => s.eng.work.find? (fun w => w.cls = k && w.waits s))

/-- The engine suits the work (R392): the microcode under which a context was saved, or the engine that is tested. -/
def suits (s : State) (w : Work) (e : Nat) : Bool :=
  match w.work with
  | .context c => (s.ctx c).any (fun x => !x.saved || x.ucode = (s.engine e).ucode)
  | .test n => s.maint.claims.any (fun c => c.2.any (fun k => k.cmd = n && (match k.act with
    | .selftest 3 i _ => i = e
    | _ => false)))
  | _ => true

/-- The work may start on an engine now: in Run, and none of classes 2 and 3 while the power cap withholds them (15 R513). -/
def mayStart (s : State) (w : Work) (e : Nat) : Bool :=
  s.pwr.state = 0 && !(s.pwr.withheld && decide (2 ≤ w.cls)) && ready s w && (s.engine e).free && suits s w e && (w.cls = 0 || reserveHolds s e [])

/-! ## Pre-emption (R394, R396) -/

/-- Engines that run a program, or an insert encoding, which the work may pre-empt (Table 11.11). -/
def preemptible (s : State) (w : Work) (e : Nat) : Bool :=
  let g := s.engine e
  !g.drain && suits s w e && (match g.work with
    | .context c => (s.ctx c).any (fun x => decide (w.cls < x.cls) && x.trapRec.isNone)
    | .encode _ => w.cls = 0
    | .test _ => decide (w.cls < 3)
    | _ => false)

/-- The most urgent work that needs an engine, finds none free to it and has one to pre-empt: of each class the work whose turn it is
(R396, R397). -/
def starved (s : State) : Option Work :=
  ((List.range 4).filterMap (nextWork s)).find? (fun w =>
    s.pwr.state = 0 && !(s.pwr.withheld && decide (2 ≤ w.cls)) && ready s w && !(List.range 48).any (mayStart s w)
      && (List.range 48).any (preemptible s w))

/-- 11 R387, R396: the scheduler pre-empts what runs on engine `e` for work of a lower class number that finds no engine. -/
def execPreempt (e : EngineId) (s : State) : Host.Outcome State Fault Refusal :=
  if unitStopped s 3 then .next s else
  .next (match starved s with
    | none => s
    | some w =>
      if (victims s ((List.range 48).filter (preemptible s w))).head? = some e.val then saveEncode (waitSave s) e.val else s)

/-! ## Trapped contexts (R385, R386) -/

def evContextEnded : Nat := 0x0012

/-- A MAINT context ends, and its queue learns why: 1 KILL, 2 timeout. -/
def endMaint (s : State) (c q why : Nat) : State :=
  postQ (endContext s c) q [eventBytes evContextEnded srcSched q c why 0]

/-- 11 R386: a context left TRAPPED for 10 s ends. -/
def execContextTimeout (c : ContextId) (s : State) : Host.Outcome State Fault Refusal :=
  if unitStopped s 3 then .next s else
  .next (match s.ctx c.val with
    | none => s
    | some x =>
      match x.st, x.owner with
      | .trapped since, .maint q => if since + 10 ≤ s.secs then endMaint s c.val q 2 else s
      | _, _ => s)

end Sys2Proof.Machine
end

