-- ==== Sys2Proof/Machine/Stage.lean ====
section
/-! DEFINITION. Search stages, insert encoding and the start and end of engine work (07 R235-R244, 11 R370, R376, R397, 03
R72). -/

namespace Sys2Proof.Machine

/-! ## What a stage is given (07 R237, Table 7.5) -/

def Stage.kind : Stage → Nat
  | .encode => 1
  | .lut => 2
  | .rerank => 3

def SearchJob.handle (j : SearchJob) : Stage → Nat
  | .encode => j.encodeProg.toNat
  | .lut => j.lutProg.toNat
  | .rerank => j.rerankProg.toNat

def SearchJob.budgetOf (j : SearchJob) : Stage → Nat
  | .encode => j.encodeBudget
  | .lut => 16
  | .rerank => j.rerankBudget

/-- The BF16 query (R78); a query that R78 refuses has none. -/
def SearchJob.bf (j : SearchJob) : List W16 := (prepareQuery j.ctx.params.metric j.queryF).getD []

/-- The candidates of the rerank stage: the first RW of R144 order (R242). -/
def SearchJob.toRerank (j : SearchJob) : List (Cand × W32) := (refinedOrder j).take j.rw

/-- The candidate block (R242): entries, BF16 query, the encode output where a program encoded, payloads. -/
def candidateBlock (s : State) (j : SearchJob) : List Byte :=
  let es := j.toRerank
  let pays := if j.withPayload then es.map (payloadOf s j.ctx.cid.toNat) else es.map (fun _ => [])
  let q := j.bf.flatMap (fun x => leBytes 2 x.toNat)
    ++ (if j.encodeProg = 0 then [] else j.queryF.flatMap (fun x => leBytes 4 x.toNat))
  let start := 32 * es.length + q.length
  let r := (es.zip pays).foldl (fun (a : Nat × List Byte) e =>
    let n := e.2.length
    (a.1 + n, a.2 ++ leBytes 8 e.1.1.vid.toNat ++ leBytes 4 e.1.1.version.toNat ++ leBytes 4 e.1.2.toNat
      ++ leBytes 4 (if n = 0 then 0 else a.1) ++ leBytes 4 n ++ zeros 8)) (start, [])
  r.2 ++ q ++ pays.flatten

/-- A stage's input. -/
def stageInput (s : State) (j : SearchJob) : Stage → List Byte
  | .encode => j.input
  | .lut => (j.bf.flatMap (fun x => leBytes 4 (bfToF32 x).toNat)) ++ Config.genSetBlock (j.gens.map (·.tag))
  | .rerank => candidateBlock s j

/-- Bytes of a stage's output (R240-R242). -/
def outputBytes (j : SearchJob) : Stage → Nat
  | .encode => 4 * j.ctx.params.dim
  | .lut => lutArea * j.gens.length + 8
  | .rerank => 4 * j.rw

/-- The collection parameter block; the LUT stage's goes on with the codebooks (Table 7.5). -/
def paramArea (j : SearchJob) (st : Stage) : List Byte :=
  let p := j.ctx.params
  Config.paramBlock
    ([p.metric, p.dim, b2n p.pq8, p.m, p.format, p.outN] ++ p.outIdx ++ [p.biasUnit.toNat, p.refineEnc])
    (if st = .lut then j.gens.flatMap (fun g => g.book.flatMap (fun x => leBytes 2 x.toNat)) else [])

/-- The fourth scalar of Table 7.5. -/
def SearchJob.s4 (j : SearchJob) : Stage → Nat
  | .encode => 0
  | .lut => j.cr
  | .rerank => j.rw

/-- The pages of one area: PINned, resident, at its place in the address space. -/
def area (s : State) (ps : List Page) (role : Nat) (w : Bool) (n : Nat) (bs : List Byte) : Option (State × List Page) :=
  pinnedPages frame2m w (max 1 (ceilDiv n frame2m)) s ps (stageAt role) bs

/-- The address space of R237, every page resident (R376). -/
def stageSpace (s : State) (j : SearchJob) (st : Stage) (image : List W64) : Option (State × List Page) :=
  let input := stageInput s j st
  let param := paramArea j st
  let code := image.flatMap (fun x => leBytes 8 x.toNat)
  (area s [] 0 false code.length code).bind (fun (s, ps) =>
    (area s ps 1 false input.length input).bind (fun (s, ps) =>
      (area s ps 2 true (outputBytes j st) []).bind (fun (s, ps) =>
        (area s ps 3 true 67108864 []).bind (fun (s, ps) => area s ps 4 false param.length param))))

/-- A context as a program starts (R231, R237): registers zero, tokens idle, windows dead. -/
def freshCtx (o : Owner) (cls : Nat) (prog : BitVec 24) (isSealed : Bool) (image : List W64) (pc budget : Nat) (pages : List Page) :
    Ctx :=
  { owner := o, cls := cls, st := .saved, prog := prog, isSealed := isSealed, ucode := 0, image := image, pc := pc, ef := 0,
    count := 0, budget := budget, s := [], a := [], v := [], p := [], t := [], issued := 0, ops := [], regHaz := [],
    sramHaz := [], mat := none, tile := none, live := 0, sram := [], pages := pages, maps := 0, pageAt := none,
    trapRec := none, ended := false, saved := false, lastFault := 0 }

/-- The registers of Table 7.5. -/
def entryRegs (s : State) (j : SearchJob) (st : Stage) (x : Ctx) : Ctx :=
  let a (x : Ctx) (n role : Nat) : Ctx := x.setA n (BitVec.ofNat 64 (stageAt role))
  let r (x : Ctx) (n v : Nat) : Ctx := x.setS n (BitVec.ofNat 64 v)
  let x := a (a (a (a x 0 1) 1 2) 2 3) 3 4
  r (r (r (r (r x 1 (stageInput s j st).length) 2 (outputBytes j st)) 3 j.ctx.params.dim) 4 (j.s4 st)) 5 j.ctx.params.metric

/-- Low 24 bits of a measurement. -/
def progOf (meas : BitVec 256) : BitVec 24 := meas.truncate 24

/-! ## The start of work (R397) -/

def Cmd.stageOf (c : Cmd) : Stage :=
  match c.phase with
  | .waitEngine st => st
  | .inStage st => st
  | _ => .lut

/-- An engine takes its work; FAULT says what this program has met. -/
def onEngine (s : State) (e : Nat) (w : EngWork) (r : Nat) : State :=
  s.modEngine e (fun g => { g with work := w, fault := 0, req := r })

/-- A stage program starts on an engine: none while frames for its pages are short. A program that was
not approved as the command was admitted is DENIED (R236, 13 R446). -/
def startStage (s : State) (e r : Nat) (c : Cmd) (j : SearchJob) : Option State :=
  let st := c.stageOf
  match approvedIn j.approvals (j.handle st) st.kind c.isSealed with
  | none => some (dropCmd s c stDenied)
  | some a =>
    let image := Config.stageImage a.meas
    (stageSpace s j st image).map (fun (s', ps) =>
      let n := freeFrom 0 s.eng.ctxs
      let x := freshCtx (.stage c.seq st) (if st = .lut then 0 else 1) (progOf a.meas) c.isSealed image (stageAt 0) (j.budgetOf st) ps
      let x := { entryRegs s j st x with st := .running e, ucode := (s.engine e).ucode }
      (onEngine (s'.setCtx n (some x)) e (.context n) r).setCmd { c with phase := .inStage st })

/-- A saved or newly launched context goes on an engine (R392), whose FAULT is the program's most recent trap (R382). -/
def restore (s : State) (e n r : Nat) (x : Ctx) : State :=
  (onEngine (s.setCtx n (some { x with st := .running e, ucode := (s.engine e).ucode })) e (.context n) r).modEngine e (fun g =>
    { g with fault := x.lastFault })

/-- Work starts on an engine; none where it has to wait. -/
def beginWork (s : State) (w : Work) (e : Nat) : Option State :=
  match w.work with
  | .context n => (s.ctx n).map (restore s e n w.req)
  | .lutStd n => some (match s.cmd n with
      | some c => (onEngine s e w.work w.req).setCmd { c with phase := .inStage .lut }
      | none => s)
  | .encode n => some (match s.cmd n with
      | some c => (onEngine s e w.work w.req).setCmd { c with phase := .encoding }
      | none => s)
  | .stage n => (match s.cmd n with
      | some c => (match c.job with
        | .search j => startStage s e w.req c j
        | _ => some s)
      | none => some s)
  | .test n => some (markTest (onEngine s e w.work w.req) n false)
  | _ => some s

/-- The work is taken off the waiting list and starts on an engine. -/
def startWork (s : State) (w : Work) (e : Nat) : State :=
  match takeFirst (· = w) s.eng.work with
  | none => s
  | some (_, rest) => (beginWork { s with eng.work := rest } w e).getD s

/-- Nothing that could start on the engine goes before the work: a context of an outgoing version (14 R492), or work of a lower class
number (Table 11.11). -/
def urgentFirst (s : State) (w : Work) (e : Nat) : Bool :=
  outgoingWork s w || !(s.eng.work.any (fun v => outgoingWork s v && mayStart s v e)
    || (List.range w.cls).any (fun i => (nextWork s i).any (fun v => mayStart s v e)))

/-- 11 R397: the engine work of class `k` that was requested first starts on a free engine. -/
def execWorkStart (k : Fin 4) (e : EngineId) (s : State) : Host.Outcome State Fault Refusal :=
  if unitStopped s 3 then .next s else
  .next (match nextWork s k.val with
    | none => s
    | some w => if mayStart s w e.val && urgentFirst s w e.val then startWork s w e.val else s)

/-- 11 R392: a saved context is restored on an engine that does not drain and has its microcode version. -/
def execContextRestore (c : ContextId) (e : EngineId) (s : State) : Host.Outcome State Fault Refusal :=
  if unitStopped s 3 then .next s else
  .next (match s.eng.work.find? (fun w => w.work = .context c.val) with
    | none => s
    | some w =>
      if nextWork s w.cls = some w && mayStart s w e.val && urgentFirst s w e.val then startWork s w e.val else s)

/-! ## The end of a stage (R238-R243) -/

/-- Bytes of a stage's output area; none on an uncorrectable read. -/
def readArea (s : State) (x : Ctx) (role n : Nat) : State × Option (List Byte) :=
  readRuns s (runsOf ((List.range n).filterMap (fun i => x.dpaOf (stageAt role + i))))

/-- Units of 2^20 instructions, rounded up. -/
def unitsUsed (x : Ctx) : Nat := ceilDiv x.count (2 ^ 20)

/-- The encode stage's vector is the query (R240). -/
def endEncode (s : State) (c : Cmd) (j : SearchJob) (bs : List Byte) : State :=
  let j := { j with queryF := (chunksOf 4 j.ctx.params.dim bs).map (BitVec.ofNat 32) }
  match prepareQuery j.ctx.params.metric j.queryF with
  | none => dropCmd s c stBadCmd
  | some _ => askLut s c j

/-- One generation's area of a LUT stage's output, if it passes R241. -/
def lutAreaOf (p : Params) (tag : Byte) (bs : List Byte) : Option GenCtx :=
  let lut := bs.take 4096
  let g := setOfBytes (bs.drop 4096)
  if g.tag = tag ∧ g.sh ≤ 31 ∧ 1 ≤ g.mul ∧ lut.all (· ≠ 0x80#8) ∧ allZero (lut.drop (p.m * p.k)) then
    some ⟨g, lut.take (p.m * p.k), boundsOf p (lut.take (p.m * p.k))⟩
  else none

/-- Every generation's area, in the order of the admitted set. -/
def lutAreas (p : Params) : List Byte → List Byte → Option (List GenCtx)
  | [], _ => some []
  | t :: ts, bs => (lutAreaOf p t bs).bind (fun g => (lutAreas p ts (bs.drop lutArea)).map (g :: ·))

/-- The LUT stage's output is checked and loaded (R241). -/
def endLut (s : State) (c : Cmd) (j : SearchJob) (bs : List Byte) : State :=
  match lutAreas j.ctx.params (j.gens.map (·.tag)) bs with
  | none => dropCmd s c stFault
  | some gs =>
    let tail := bs.drop (lutArea * j.gens.length)
    lutReady s c { j with ctx.gens := gs, ctx.query := j.bf, clipN := le tail 0 4, clipD := le tail 4 4 }

/-- The reranked candidates are ordered, and the first k are the result (R243). -/
def endRerank (s : State) (c : Cmd) (j : SearchJob) (bs : List Byte) : State :=
  let es := j.toRerank
  let scores := (chunksOf 4 es.length bs).map (BitVec.ofNat 32)
  let (top, ties) := topRanked j.ctx.k (sortBy rankBefore ((es.map (·.1)).zip scores))
  afterRank s c j top ties

/-- A stage program has ended with status 0. -/
def stageDone (s : State) (c : Cmd) (j : SearchJob) (st : Stage) (units : Nat) (bs : List Byte) : State :=
  match st with
  | .encode => endEncode s c { j with encUnits := units } bs
  | .lut => endLut s c j bs
  | .rerank => endRerank s c { j with rrUnits := units } bs

/-- A program that has executed END is over once all its operations are (R272): its engine zero-fills what it used and is
free; a stage's status in s1 decides how its command goes on (R238). -/
def endProgram (s : State) (n : Nat) (x : Ctx) : State :=
  match x.owner with
  | .maint _ => endContext s n
  | .stage k st =>
    match s.cmd k with
    | none => endContext s n
    | some c =>
      match c.job with
      | .search j =>
        if x.sreg 1 = 1 then dropCmd (endContext s n) c stBadCmd
        else if x.sreg 1 ≠ 0 then dropCmd (endContext s n) c stFault
        else
          let (s, out) := readArea s x 2 (outputBytes j st)
          let s := endContext s n
          (match out with
           | none => dropCmd s c stFault
           | some bs => stageDone s c j st (unitsUsed x) bs)
      | _ => endContext s n

/-- The standard LUT program ends (R78-R83, R236). -/
def endStdLut (s : State) (c : Cmd) (j : SearchJob) : State :=
  match prepareQuery j.ctx.params.metric j.queryF with
  | none => dropCmd s c stBadCmd
  | some q => match standardLut j.ctx.params j.cr q j.gens with
    | none => dropCmd s c stBadCmd
    | some (gs, n, d) => lutReady s c { j with ctx.gens := gs, ctx.query := q, clipN := n, clipD := d }

/-- A batch's records are encoded (03 R72): a vector that R72 rejects ends the batch. -/
def endInsertEncode (s : State) (c : Cmd) (j : BatchJob) : State :=
  let bad := (s.coll j.cid.toNat).any (fun k => j.recs.any (fun r => (prepared k.params r.vec).isNone))
  if bad then fail (unstage s j) c stBadCmd else s.setCmd { c with phase := .staging }

/-- 07 R238: a program or stage ends. -/
def execStageEnd (e : EngineId) (s : State) : Host.Outcome State Fault Refusal :=
  let idle := s.modEngine e.val (fun g => { g with work := .idle })
  .next (match (s.engine e.val).work with
    | .context n => (match s.ctx n with
      | some x => if x.st = .running e.val && x.ended && x.ops.isEmpty then endProgram s n x else s
      | none => s)
    | .lutStd k => (match s.cmd k with
      | some c => (match c.job with
        | .search j => endStdLut idle c j
        | _ => idle)
      | none => idle)
    | .encode k => (match s.cmd k with
      | some c => (match c.job with
        | .batch j => endInsertEncode idle c j
        | _ => idle)
      | none => idle)
    | _ => s)

end Sys2Proof.Machine
end

