-- ==== Sys2Proof/Machine/Abort.lean ====
section
/-! DEFINITION. Aborts (12 R430) and the faults that end what an engine runs (11 R383). -/

namespace Sys2Proof.Machine

/-- The engine, or the context, that runs a stage of a command stops. -/
def stopStage (s : State) (n : Nat) : State :=
  let s := (contexts s).foldl (fun s c => match c.2.owner with
    | .stage k _ => if k = n then endContext s c.1 else s
    | .maint _ => s) s
  { s with eng.engines := Tab.mapAll Engine.initial (fun g =>
      if g.work = .lutStd n || g.work = .encode n || g.work = .test n then { g with work := .idle } else g) s.eng.engines }

/-- A batch is given up before its staging. -/
def dropBatch (s : State) (c : Cmd) (j : BatchJob) (st : Nat) : State := dropCmd (unstage (stopStage s c.seq) j) c st

/-- The command is aborted according to the state it is in (R430). -/
def abortCmd (s : State) (c : Cmd) : State :=
  match c.phase, c.job with
  | .fenceHeld, _ => fail s c stAborted
  | .fetched, _ => if [opInsert, opDelete, opUpsert].contains c.opcode then fail s c stAborted else s
  | .powerHeld, _ => fail s c stAborted
  | .waitEngine _, _ => dropCmd s c stAborted
  | .inStage _, _ => dropCmd (stopStage s c.seq) c stAborted
  | .waitSlot, _ => dropCmd s c stAborted
  | .inSlot, _ => dropCmd s c stAborted
  | .refining, .search j => s.setCmd { c with job := .search { j with aborted := true } }
  | .payload, .search j => s.setCmd { c with job := .search { j with aborted := true } }
  | .waitEncode, .batch j => dropBatch s c j stAborted
  | .encoding, .batch j => dropBatch s c j stAborted
  | .selftest n, _ => dropCmd (stopStage (endClaim s n 0) c.seq) c stAborted
  | .activity n, _ => if (s.claim n).any (fun k => k.state = 0 && !k.begun) then fail (s.setClaim n none) c stAborted else s
  | _, _ => s

/-- 12 R430: QAU_ABORT names a queue and a tag. -/
def execQauAbort (v : W64) (s : State) : Host.Outcome State Fault Refusal :=
  .next (if blockOff s 0x01 then s
    else match s.cmdAt (bits v.toNat 0 10) (bits v.toNat 10 5) with
      | none => s
      | some c => abortCmd s c)

/-! ## Execution faults (07 R217, 11 R383) -/

/-- A double-bit error while an engine works for commands without a context of theirs: it traps, and the command whose LUTs it builds,
whose batch it encodes or whose test it runs completes with FAULT, in a lap the command of every slot of its group (07 R217, 02 R36;
log 102). -/
def commandFault (s : State) (e : Nat) : State :=
  let idle := s.modEngine e (fun g => { g with work := .idle, fault := fcUncorrectable })
  if s.pwr.state ≠ 0 then s
  else match (s.engine e).work with
    | .lutStd n => (match s.cmd n with
      | some c => dropCmd idle c stFault
      | none => idle)
    | .encode n => (match s.cmd n with
      | some c => (match c.job with
        | .batch j => fail (unstage idle j) c stFault
        | _ => idle)
      | none => idle)
    | .test n => (match s.cmd n with
      | some c => (match c.phase with
        | .selftest k => dropCmd (stopStage (endClaim idle k 0) n) c stFault
        | _ => idle)
      | none => idle)
    | .lap id =>
      ((s.eng.groups.filter (·.id = id)).flatMap (·.slots)).foldl slotFault
        (s.modEngine e (fun g => { g with fault := fcUncorrectable }))
    | _ => s

/-- 11 R383: a fault met in execution. -/
def execExecutionFault (e : EngineId) (k : ExecCause) (s : State) : Host.Outcome State Fault Refusal :=
  .next (match activeOn s e.val with
    | none => (match k with
      | .uncorrectable _ => commandFault s e.val
      | _ => s)
    | some (c, x) =>
      match k with
      | .transfer =>
        (match frontDma x with
         | none => s
         | some o =>
           let r := dmaRun s x o
           match r.stop with
           | some (.fault code va) => faultAt r.s c r.x o r.off code va
           | _ => s)
      | .uncorrectable u =>
        if u = .front then (if x.ended then s else trapCtx s c x ⟨x.pc, fcUncorrectable, .front, 0, 0, 0⟩)
        else (match frontOp x u with
          | none => s
          | some o => faultAt (if u = .dma then logUncorrectable s x o else s) c x o o.offset fcUncorrectable 0)
      | .backingLost =>
        (match x.pageAt.bind x.pageOf, frontDma x with
         | some p, some o =>
           if p.backed && !p.res && !p.writing then
             faultAt s c ({ x with pageAt := none }.setPage p.va (fun p => { p with frame := none })) o o.offset fcBackingLost
               (((missingPage s x).map (fun m => m.2.2.1)).getD p.va)
           else s
         | _, _ => s))

end Sys2Proof.Machine
end

