-- ==== Sys2Proof/Machine/Hbm.lean ====
section
/-! DEFINITION. The HBM controllers (10): accesses of every requester, the write buffer, refresh, patrol scrub, bank modes and
SCAN_FENCE. -/

namespace Sys2Proof.Machine

/-! ## Accesses (R336, R343-R347, R351, R357) -/

/-- An access to a CSR (Table 10.1) is the row CSR_WRITE or REGISTER_READ_CLEAR. -/
def isCsr (a : Nat) : Bool := decide (0x10000000000 ≤ a ∧ a < 0x10010000000)

/-- A SCAN_FENCE of core `c` is pending at the pseudo-channel of a DPA. -/
def fencedAt (s : State) (c a : Nat) : Bool :=
  let due (pl : Nat) : Bool := (Tab.get 0#32 (s.ctl (stackOf pl)).pending c).getLsbD (pcOf pl)
  match find s 0 a with
  | .data pl _ _ => due pl
  | .window pl _ => due pl
  | .error _ _ _ => false

/-- An access gets as far as the controllers: one to a CSR is another row, a host's needs the endpoint (16 R550), and a core's to a
pseudo-channel where a fence of its own is pending is not performed yet (R361). -/
def reaches (s : State) (r : Origin) (a n : Nat) : Bool :=
  !isCsr a && bar2Ok s r.cls.val a n && !(r.cls = 0 && (List.range n).any (fun i => fencedAt s r.core.val (a + i)))

/-- 10 R343: a pseudo-channel controller serves a read. -/
def execMemoryRead (r : Origin) (a : Dpa) (n : Nat) (f : Finding) (s : State) : Host.Outcome State Fault Refusal :=
  .next (if !reaches s r a.toNat n then s
    else match busRead s r.cls.val a.toNat n f with
      | (s, none) => { s with rsp := .denied }
      | (s, some bs) => { s with rsp := .bytes bs })

/-- 10 R345: a pseudo-channel controller accepts a write. -/
def execMemoryWrite (r : Origin) (a : Dpa) (bs : List Byte) (f : Finding) (s : State) : Host.Outcome State Fault Refusal :=
  .next (if !reaches s r a.toNat bs.length then s
    else match busWrite s r.cls.val a.toNat bs f with
      | (s, false) => { s with rsp := .denied }
      | (s, true) => { s with rsp := .none })

/-- 09 R328: a controller applies an atomic to its naturally aligned word and returns the old value. -/
def execMemoryAtomic (r : Origin) (a : Dpa) (ty : Fin 4) (op : Fin 8) (x cmp : W64) (s : State) :
    Host.Outcome State Fault Refusal :=
  .next (if !reaches s r a.toNat (amoBytes ty.val) || a.toNat % amoBytes ty.val ≠ 0 || !amoOk ty.val op.val then s
    else match busAtomic s r.cls.val a.toNat ty.val op.val x.toNat cmp.toNat with
      | (s, none) => { s with rsp := .denied }
      | (s, some v) => { s with rsp := .value (BitVec.ofNat 64 v.bits) })

/-! ## Write buffer, refresh, scrub -/

/-- 10 R351: a batch of at least 32 buffered line writes is drained; the bytes stand in memory already. -/
def execWriteBufferDrain (p : PchId) (s : State) : Host.Outcome State Fault Refusal :=
  .next (if 32 ≤ (s.pch p.val).wbuf then s.modPch p.val (fun c => { c with wbuf := 0 }) else s)

/-- 10 R363: refresh falls due; a scan-mode burst is postponed, up to 4 of them, or the postponed ones are caught up. -/
def execRefresh (p : PchId) (postpone : Bool) (s : State) : Host.Outcome State Fault Refusal :=
  let c := s.pch p.val
  .next (s.modPch p.val (fun x => { x with
    postponed := if postpone && c.scan && decide (c.postponed < 4) then c.postponed + 1 else 0 }))

/-- The PROT sector that a DPA names, its TAG, and whether the log hides it: data of a region, or a physical place in the fixed
reserves, whose tag is that of the entry that holds it, or the one that stands there (R566). -/
def protSector (s : State) (a : Nat) : Option (Nat × Byte × Bool) :=
  match regionOf s a with
  | some (g, x) => if g.raw then none else some (locate g x, g.tag, g.warden)
  | none =>
    if fixedReserve a then
      some (match (entriesOf s).find? (fun g => (g.inverse a).isSome) with
        | some g => (a, g.tag, g.warden)
        | none => (a, Tab.get 0#8 s.hbm.tags (a / 32), false))
    else none

/-- 10 R346: patrol scrub reads a PROT sector. No rule gives the class under which the log names it (log 5). -/
def execPatrolScrub (a : Dpa) (f : Finding) (s : State) : Host.Outcome State Fault Refusal :=
  .next (match protSector s a.toNat with
    | none => s
    | some (pl, tag, hide) =>
      if (s.ctl (stackOf pl)).retired || !(s.ctl (stackOf pl)).answering then s
      else
        let (c, t) := s.draw
        let (u, ok) := readFinding t (c % 16) pl (some tag) hide f
        if ok then (readFinding s 0 pl (some tag) hide f).1 else u)

/-! ## Bank modes (R352-R356) -/

/-- Banks that are scan-mode banks in every scan-mode pseudo-channel. -/
def fixedBanks : BitVec 48 := 0x800000000003#48

/-- A region extent lies in a bank of a mask. -/
def regionIn (s : State) (p : Nat) (m : BitVec 48) : Bool :=
  s.hbm.regions.any (fun e => e.2.any (fun g =>
    g.extents ≠ 0 && g.stackList.contains (p / 32) && (g.interleave ≠ 2 || g.pc = p % 32)
      && (List.range 48).any (fun b => m.getLsbD b
        && decide (g.first * extentBytes < (b + 1) * 0x1800000) && decide (b * 0x1800000 < (g.first + g.extents) * extentBytes))))

/-- A LIVE header's block lies in a bank of a mask. -/
def blockIn (s : State) (p : Nat) (m : BitVec 48) : Bool :=
  (ring s p).any (fun e =>
    let lo := 1024 * hRow e.2.hdr
    (List.range 48).any (fun b => m.getLsbD b && decide (lo < (b + 1) * 0x1800000)
      && decide (b * 0x1800000 < lo + hBlockBytes e.2.hdr)))

/-- A repair copy or a pending-exclusion list of a pseudo-channel's blocks stands in banks 0, 1 and 47. -/
def reservedUse (s : State) (p : Nat) : Bool :=
  s.corpus.blocks.any (fun e => keyWeevil e.1 = p && e.2.any (fun b => decide (0x46C80000 / 1024 ≤ hRow b.hdr)))
  || s.corpus.excl.any (fun e => e.1 / 8192 = p)

/-- Step 1 of Table 10.7 finds nothing against the change, and it stays so to the end: the mask is one that a scan stack's pseudo-channel
can have, its live bytes keep R130's limit for that mask, a pseudo-channel that enters scan mode empty keeps R130's balance, and nothing
refers to the banks that change (R355). -/
def modeChangeOk (s : State) (p : Nat) (m : BitVec 48) : Bool :=
  let old := (s.pch p).banks
  decide (p < 256) && (m = 0 || m &&& fixedBanks = fixedBanks) && !regionIn s p (m &&& ~~~old) && !blockIn s p (old &&& ~~~m)
    && (m = 0 || decide (liveBytes s p ≤ limitFor m)) && (old ≠ 0 || m = 0 || emptyFits s)
    && (m ≠ 0 || ((ring s p).isEmpty && !reservedUse s p))

/-- Zero-fill the banks of a mask. -/
def zeroBanks (s : State) (p : Nat) (m : BitVec 48) : State :=
  let inside (a : Nat) : Bool := pchOf a = p && m.getLsbD (bankOf (offOf a))
  { s with hbm.mem := s.hbm.mem.filter (fun e => !inside e.1),
           hbm.poisoned := s.hbm.poisoned.filter (fun x => !inside (32 * x)),
           hbm.tags := s.hbm.tags.filter (fun e => !inside (32 * e.1)) }

/-- The headers of blocks whose rows lie in a bank of a mask, or in a header area of it, stand no more once those banks are
zero-filled; banks 0 and 1 hold the headers. -/
def dropZeroed (s : State) (p : Nat) (m : BitVec 48) : State :=
  let hit (h : Nat) (b : Block) : Bool :=
    let rows (lo n : Nat) : Bool := (List.range 48).any (fun k => m.getLsbD k && decide (lo < (k + 1) * 0x1800000)
      && decide (k * 0x1800000 < lo + n))
    rows (128 * h) 128 || rows (1024 * hRow b.hdr) (hBlockBytes b.hdr)
  { s with corpus.blocks := s.corpus.blocks.filter (fun e => keyWeevil e.1 ≠ p || !(e.2.any (hit (keyIndex e.1)))) }

/-- Steps 3 and 4 of Table 10.7: accesses to the banks stop, and they are zero-filled. -/
def zeroChanging (s : State) (p : Nat) : State :=
  let m := (s.pch p).changing
  (dropZeroed (zeroBanks s p m) p m).modPch p (fun c => { c with zeroing := true })

/-- Every slot leaves the Weevil (R106, R355). -/
def leaveAll (s : State) (p : Nat) : State :=
  ((slotsIn (s.weevil p).wslots 1) ++ (slotsIn (s.weevil p).wslots 2)).foldl (fun s n => leaveWeevil s p n) s

/-- Banks of a pseudo-channel take their new mask: steps 5 to 7, the window opening or closing with them. -/
def takeBanks (s : State) (p : Nat) : State :=
  s.modPch p (fun c => { c with banks := c.nextBanks, scan := c.nextBanks ≠ 0, pendingChange := false, zeroing := false })

/-- 10 R354: the allocator moves banks between the modes by Table 10.7, of which one command takes a part (log 30): steps 1 and 2, then 3
and 4, then 5 to 7, which wait until every accepted window command is complete where scan mode is left (R355). -/
def execBankModeChange (p : PchId) (part : ModeStep) (s : State) : Host.Outcome State Fault Refusal :=
  let c := s.pch p.val
  .next (match part with
    | .confirm m =>
      if !c.pendingChange && modeChangeOk s p.val m then
        (let t := s.modPch p.val (fun c => { c with pendingChange := true, nextBanks := m })
         fitScan (outOrder t) t)
      else s
    | .zero => if c.pendingChange && !c.zeroing && modeChangeOk s p.val c.nextBanks then zeroChanging s p.val else s
    | .finish =>
      if c.pendingChange && c.zeroing && modeChangeOk s p.val c.nextBanks
          && (c.nextBanks ≠ 0 || (s.weevil p.val).accepted.isEmpty)
      then refitColls (takeBanks (if c.nextBanks = 0 then leaveAll s p.val else s) p.val)
      else s)

/-! ## SCAN_FENCE (R360-R362) -/

/-- 10 R362: a core's write of HBMC_SFENCE issues a SCAN_FENCE for one pseudo-channel. -/
def execHbmcSfence (c : CoreId) (st : StackId) (v : W64) (s : State) : Host.Outcome State Fault Refusal :=
  .next (if blockOff s (0x10 + st.val) then s
    else s.modCtl st.val (fun x => { x with
      pending := Tab.mod 0#32 x.pending c.val (fun m => m ||| (1#32 <<< (v.toNat % 32))) }))

/-- 10 R361: a SCAN_FENCE completes and its pending bit clears. -/
def execScanFenceDone (r : Fencer) (p : PchId) (s : State) : Host.Outcome State Fault Refusal :=
  let clear (m : BitVec 32) : BitVec 32 := m &&& ~~~(1#32 <<< (p.val % 32))
  .next (match r with
    | .core c => s.modCtl (p.val / 32) (fun x => { x with pending := Tab.mod 0#32 x.pending c.val clear })
    | .engine e => s.modCtl (p.val / 32) (fun x => { x with engFence := Tab.mod 0#32 x.engFence e.val clear }))

end Sys2Proof.Machine
end

