-- ==== Sys2Proof/Machine/Objects.lean ====
section
/-! DEFINITION. What the page store holds and how it moves (06 R181-R183, R191, R192): block extents, staging slots and backing
pages, each found through its descriptor. -/

namespace Sys2Proof.Machine

/-! ## Objects and where they lie -/

/-- Runs of units that a corpus's descriptors name: first FLA and length. -/
def corpusObjects (s : State) (c : Corpus) : List (Nat × Nat) :=
  c.sides.flatMap (fun e => match e.2 with
    | none => []
    | some x => [(saFla x.slot, max 1 (slotUnits (64 * bits x.slot.toNat 46 10) 1))])
  ++ c.blocks.flatMap (fun e => match e.2 with
    | none => []
    | some b =>
      let n := hCount b.hdr
      let p := payloadUnits s b.extent n
      [(b.extent.toNat % 2 ^ 40, slotUnits (64 * bits b.extent.toNat 40 10) n)]
        ++ (if p = 0 then [] else [(bits b.extent.toNat 50 40, p)])
        ++ (b.img.toList.filter (fun f => (Tab.get none s.flash.imgs f).isSome)).map (fun f => (f, imageUnits b.hdr)))

/-- Backing pages written out. -/
def pageObjects (s : State) : List (Nat × Nat) :=
  (contexts s).flatMap (fun c => c.2.pages.filterMap (fun p => if p.backed then some (p.fla.toNat, p.size / 4096) else none))

/-- Runs that the journal and the last checkpoint hold. -/
def logObjects (s : State) : List (Nat × Nat) := s.flash.journalRuns.map (fun r => (r.1, r.2.1)) ++ s.flash.ckptRun.toList

def objects (s : State) : List (Nat × Nat) :=
  (corpusObjects s s.corpus ++ corpusObjects s s.flash.map ++ pageObjects s ++ logObjects s).filter (fun o => o.2 ≠ 0)

/-- The object that holds a unit. -/
def objectAt (s : State) (fla : Nat) : Option (Nat × Nat) :=
  (objects s).find? (fun o => decide (o.1 ≤ fla ∧ fla < runEnd s o.1 o.2))

/-- `n` units from `lo` on are free, and their rows can take them. -/
def freeRun (s : State) (lo n : Nat) : Bool :=
  let hi := runEnd s lo n
  !unitMissing s lo && inStore hi
  && (objects s).all (fun o => decide (runEnd s o.1 o.2 ≤ lo ∨ hi ≤ o.1))
  && (List.range (flaRow (hi - 1) + 1 - flaRow lo)).all (fun i => rowOpen s (flaRow lo + i))

/-! ## Moving objects -/

/-- Where a unit stands after the run of `n` units at `lo` moves to `fresh`: unit i of the one run becomes unit i of the other. -/
def shiftFla (s : State) (lo n fresh x : Nat) : Nat :=
  if lo ≤ x ∧ x < runEnd s lo n then nthUnit s ((unitsOfRun s lo n).idxOf x) fresh else x

def shiftExtent (f : Nat → Nat) (x : BitVec 128) : BitVec 128 :=
  let y := setBits x.toNat 0 40 (f (x.toNat % 2 ^ 40))
  BitVec.ofNat 128 (setBits y 50 40 (f (bits y 50 40)))

/-- The descriptors of a corpus are rewritten. -/
def Corpus.shift (f : Nat → Nat) (c : Corpus) : Corpus :=
  { c with
    sides := Tab.mapAll none (fun e => e.map (fun x => { x with
      slot := BitVec.ofNat 64 (setBits x.slot.toNat 0 40 (f (saFla x.slot))) })) c.sides
    blocks := Tab.mapAll none (fun e => e.map (fun b => { b with extent := shiftExtent f b.extent, img := b.img.map f })) c.blocks }

/-- Values of a table whose numbers move, in units of `k`. -/
def shiftTab {α : Type} [DecidableEq α] (d : α) (k : Nat) (f : Nat → Nat) (t : Tab α) : Tab α :=
  t.foldl (fun u e => Tab.set d u (k * f (e.1 / k) + e.1 % k) e.2) []

/-- The units of a run are read and move to a free one, as ciphertext, and every descriptor that names them is rewritten (R181, R192). -/
def moveRun (s : State) (lo n fresh : Nat) : State :=
  let f := shiftFla s lo n fresh
  let s := ownRead s (unitsOfRun s lo n) false
  let t := claimRows s fresh n
  { t with
    flash.slots := shiftTab none 4096 f s.flash.slots
    flash.backing := shiftTab [] 1 f s.flash.backing
    flash.imgs := shiftTab none 1 f s.flash.imgs
    flash.journalRuns := s.flash.journalRuns.map (fun r => (f r.1, r.2))
    flash.ckptRun := s.flash.ckptRun.map (fun r => (f r.1, r.2))
    flash.map := s.flash.map.shift f
    corpus := s.corpus.shift f
    eng.ctxs := Tab.mapAll none (fun c => c.map (fun x => { x with
      pages := x.pages.map (fun p => if p.backed then
        { p with fla := BitVec.ofNat 40 (f p.fla.toNat) } else p) })) s.eng.ctxs }

/-- A command in flight may hold the slot address of a copy, which stays valid for its life (R191): no object moves meanwhile. -/
def addressHeld (s : State) : Bool := s.qau.cmds.any (fun c => match c.job with
  | .search _ => true
  | .batch _ => true
  | _ => false)

/-- The first run of `n` units that can be written from unit `u` on, in no superblock that `bad` picks; the first number bounds the
search. -/
def openRunBut (s : State) (bad : Nat → Bool) (n : Nat) : Nat → Nat → Nat
  | 0, u => u
  | k + 1, u =>
    if !bad (superOf u) && !bad (superOf (runEnd s u n - 1)) && runFree s u n then u
    else openRunBut s bad n k (if bad (superOf u) then (superOf u + 1) * (120 * Config.superRows) else u + 1)

/-- An object moves to the next run that can be written, outside the superblocks that `bad` picks, which are given up. -/
def moveOutBut (bad : Nat → Bool) (s : State) (o : Nat × Nat) : State :=
  let f := openRunBut s bad o.2 (runBound s o.2) s.flash.slotCursor
  { moveRun s o.1 o.2 f with flash.slotCursor := max s.flash.slotCursor (runEnd s f o.2) }

def moveOut (s : State) (o : Nat × Nat) : State := moveOutBut (fun _ => false) s o

/-- Objects with a unit that `p` picks. -/
def objectsWith (s : State) (p : Nat → Bool) : List (Nat × Nat) :=
  ((objects s).filter (fun o => (unitsOfRun s o.1 o.2).any p)).eraseDups

/-- The live data of a superblock moves out (R207). -/
def emptySuper (s : State) (sb : Nat) : State := (objectsWith s (fun u => superOf u = sb)).foldl (moveOutBut (· = sb)) s

end Sys2Proof.Machine
end

