-- ==== Sys2Proof/Machine/Regions.lean ====
section
/-! DEFINITION. The region table (10 R338-R342, R566): descriptors as bytes, the rules between regions, the standard table. -/

namespace Sys2Proof.Machine

/-! ## Descriptors (Table 10.2) -/

/-- The 32 bytes of a descriptor. -/
def Region.bytes (g : Region) : List Byte :=
  leBytes 8 g.aperture ++ leBytes 1 g.extents ++ leBytes 1 g.first
    ++ leBytes 1 (b2n g.raw + 2 * g.interleave + 8 * b2n g.warden + 16 * b2n g.dscan) ++ leBytes 1 g.pc
    ++ leBytes 2 g.inStacks.toNat ++ [g.tag, 0] ++ leBytes 2 g.access.toNat ++ zeros 14

/-- The region of a descriptor's 32 bytes; none for a free entry. -/
def Region.ofBytes (bs : List Byte) : Option Region :=
  let c := byteAt bs 10
  if byteAt bs 8 = 0 then none
  else some
    { aperture := le bs 0 8 % 2 ^ 49, extents := byteAt bs 8, first := byteAt bs 9, raw := bit c 0, interleave := bits c 1 2,
      warden := bit c 3, dscan := bit c 4, pc := byteAt bs 11, inStacks := BitVec.ofNat 12 (le bs 12 2),
      tag := bs.getD 14 0, access := BitVec.ofNat 16 (le bs 16 2) }

/-- A descriptor's fields stand in their ranges. -/
def Region.formed (g : Region) : Bool :=
  decide (1 ≤ g.extents ∧ g.first + g.extents ≤ 128) && decide (g.interleave ≤ 2) && g.aperture % 2097152 = 0
  && (if g.interleave = 0 then decide (1 ≤ g.stackList.length) else g.stackList.length = 1)
  && (if g.interleave = 2 then decide (g.pc < 32)
      else g.pc = 0 && decide (0xC000000000 ≤ g.aperture ∧ g.aperture + g.size ≤ 0x10000000000))
  && (if g.raw then g.tag = 0 else decide (g.tag ≠ 0))

/-! ## Rules between regions (R342) -/

/-- A region extent lies in a scan-mode bank. -/
def inScanBank (s : State) (g : Region) : Bool :=
  g.stackList.any (fun i => decide (i < 8) && (List.range 32).any (fun p =>
    let c := s.pch (32 * i + p)
    (g.interleave ≠ 2 || g.pc = p) && (List.range 48).any (fun b => c.scanSoon.getLsbD b
      && decide (g.first * extentBytes < (b + 1) * 0x1800000) && decide (b * 0x1800000 < (g.first + g.extents) * extentBytes))))

/-- A region's extent takes in a retired row that no extent of the table held before: none is placed on it again (14 R498). -/
def onRetiredRow (s : State) (g : Region) : Bool :=
  s.alloc.retiredRows.any (fun id =>
    let at' := placeOf (id / 2 ^ 26) (id / 2 ^ 21 % 32) (id % 2 ^ 21 * 1024)
    g.covers at' && !s.hbm.regions.any (fun e => e.2.any (fun h => h.covers at')))

/-- A region reaches into the fixed reserves, extents 0-103 of the plain stacks (R566). -/
def inReserves (g : Region) : Bool := g.stackList.any (fun i => decide (8 ≤ i)) && decide (g.first < 104)

/-- Each region of a list agrees with every later one. -/
def apart : List Region → Bool
  | [] => true
  | g :: gs => gs.all (fun h => !shareExtents g h && !shareAperture g h) && apart gs

/-- The entries that a region list takes: 0 and 1, which it replaces, then those that the allocator has not taken (R566; log 89). -/
def entryPlaces : List Nat := 0 :: 1 :: (List.range 256).filter (fun r => decide (2 ≤ r) && (reserveEntry r).isNone)

/-- The allocator's entries share no aperture byte with a region: they stand from 0xC6_0000_0000 on. -/
def clearOfReserves (g : Region) : Bool :=
  g.interleave = 2 || decide (g.aperture + g.size ≤ 0xC600000000)
    || (List.range 256).all (fun r => (reserveEntry r).all (fun h => !shareAperture g h))

/-- A region list that R342 and Table 10.2 allow, beside the allocator's entries. -/
def regionsOk (s : State) (gs : List Region) : Bool :=
  apart gs && gs.all (fun g => g.formed && !inScanBank s g && !onRetiredRow s g && !inReserves g && clearOfReserves g)
    && (decide (gs.length ≤ 2) || decide (gs.length ≤ entryPlaces.length))

/-! ## The table (R566, Table 10.11) -/

/-- The extents of regions that a new table no longer holds are zero-filled before any region reuses them (R342). -/
def zeroReleased (s : State) (new : Tab (Option Region)) : State :=
  let gone := s.hbm.regions.filterMap (fun e => e.2.filter (fun g => !new.any (fun n => n.2 = some g)))
  let inside (a : Nat) : Bool := gone.any (fun g => g.covers a)
  { s with hbm.mem := s.hbm.mem.filter (fun e => !inside e.1),
           hbm.poisoned := s.hbm.poisoned.filter (fun x => !inside (32 * x)),
           hbm.tags := s.hbm.tags.filter (fun e => !inside (32 * e.1)) }

def standardRegions : List Region :=
  [ { aperture := 0xC000000000, extents := 12, first := 104, raw := false, interleave := 0, warden := false, dscan := false,
      pc := 0, inStacks := 0xF00#12, tag := 1, access := 0x0167#16 },
    { aperture := 0xC300000000, extents := 12, first := 116, raw := false, interleave := 0, warden := false, dscan := false,
      pc := 0, inStacks := 0xF00#12, tag := 2, access := 0x0003#16 } ]

/-- The region table of a boot: the policy's list, or the standard one, beside the allocator's entries. -/
def bootRegions (p : Option Policy) : Tab (Option Region) :=
  let gs := (p.map (·.regions)).getD []
  (entryPlaces.zip (if gs.isEmpty then standardRegions else gs)).map (fun e => (e.1, some e.2))

/-- An entry of the table as the controllers present it. -/
def regionBytes (s : State) (r : Nat) : List Byte := (((s.region r).orElse (fun _ => reserveEntry r)).map Region.bytes).getD (zeros 32)

end Sys2Proof.Machine
end

