-- ==== Sys2Proof/Machine/Plain.lean ====
section
/-! DEFINITION. What leaves a plain stack as it is retired (14 R502, Table 14.6): region extents and the allocator's reserves move to the
other plain stacks, the frame pool shrinks by a quarter, identity lines go to the half's other stack. -/

namespace Sys2Proof.Machine

/-! ## Where regions go -/

/-- A region at another first extent; a PC-LOCAL region's aperture is the DPA of its first byte (10 R340). -/
def Region.atExtent (g : Region) (e : Nat) : Region :=
  { g with first := e, aperture := if g.interleave = 2 then placeOf (g.stackList.headD 0) g.pc (e * extentBytes) else g.aperture }

/-- A region without stack `st`: over the stacks that it keeps, with as many more extents there unless it is the frame pool's; one of that
stack alone on another of them, the half's own first. -/
def Region.without (g : Region) (st : Nat) (left : List Nat) : List Region :=
  let keep := g.inStacks &&& ~~~(1#12 <<< st)
  let n := g.stackList.length
  if keep = 0 then
    (left.filter (fun t => decide (t < 10) == decide (st < 10)) ++ left).map (fun t => { g with inStacks := 1#12 <<< t })
  else [{ g with inStacks := keep, extents := if isPool g then g.extents else ceilDiv (g.extents * n) (n - 1) }]

/-- The region moves: its own extents where they serve, else the highest run that no other region has (log 111). -/
def movedRegion (st : Nat) (left : List Nat) (others : List Region) (g : Region) : Region :=
  if !g.stackList.contains st then g
  else
    (((g.without st left).flatMap (fun h => (h.first :: (List.range 128).reverse).map h.atExtent)).find? (fun h =>
      decide (h.first + h.extents ≤ 128) && others.all (fun o => !shareExtents o h && !shareAperture o h))).getD g

/-- Every entry leaves stack `st`, one after the other. -/
def moveOff (st : Nat) (left : List Nat) : List (Nat × Region) → List (Nat × Region) → List (Nat × Region)
  | new, [] => new
  | new, (r, g) :: old => moveOff st left (new ++ [(r, movedRegion st left (new.map (·.2) ++ old.map (·.2)) g)]) old

/-- The entries of a boot's table with the allocator's own (Table 10.11). -/
def baseEntries (p : Option Policy) : List (Nat × Region) :=
  (bootRegions p).filterMap (fun e => e.2.map (fun g => (e.1, g))) ++ reserveTable

/-- The table of a boot with the plain stacks `gone` retired. -/
def regionsFor (p : Option Policy) (gone : List Nat) : Tab (Option Region) :=
  if gone.isEmpty then bootRegions p
  else (gone.foldl (fun l st => moveOff st ([8, 9, 10, 11].filter (fun t => !gone.contains t)) [] l) (baseEntries p)).foldl
    (fun t e => Tab.set none t e.1 (some e.2)) []

/-- The entries presented now, by number. -/
def entriesNow (s : State) : List (Nat × Region) :=
  (List.range 256).filterMap (fun r => ((s.region r).orElse (fun _ => reserveEntry r)).map (fun g => (r, g)))

/-! ## What they hold -/

/-- Frames of the pool that its new size leaves out, each with a free frame that takes its page; none where one finds no room. -/
def frameMoves (pool : List Region) : List (Nat × Nat) → List (Nat × Nat) → Option (List (Nat × Nat × Nat))
  | _, [] => some []
  | used, (f, n) :: rest =>
    if pool.any (fun g => decide (g.aperture ≤ f ∧ f + n ≤ g.aperture + g.size)) then frameMoves pool used rest
    else
      let steps := (used.map (fun u => u.2 / n + 2)).foldl (· + ·) 1
      (pool.findSome? (fun g => freeAt used n (g.aperture + g.size) steps (ceilDiv g.aperture n * n))).bind (fun f' =>
        (frameMoves pool (used ++ [(f', n)]) rest).map (fun l => (f, f', n) :: l))

/-- A DPA after the move: that of the frame that took its page's place, or of the same byte of its region. -/
def dpaAfter (fs : List (Nat × Nat × Nat)) (ms : List (Region × Region)) (a : Nat) : Nat :=
  match fs.find? (fun f => decide (f.1 ≤ a ∧ a < f.1 + f.2.2)) with
  | some f => a - f.1 + f.2.1
  | none => (ms.findSome? (fun m => (m.1.offsetOf a).map (fun x =>
      if m.1.interleave = 2 then locate m.2 x else m.2.aperture + x))).getD a

/-- A physical place after the move; none for a byte that its region no longer has. -/
def placeAfter (fs : List (Nat × Nat × Nat)) (ms : List (Region × Region)) (p : Nat) : Option Nat :=
  match ms.findSome? (fun m => (m.1.inverse p).map (fun x => if m.1.interleave = 2 then p else m.1.aperture + x)) with
  | none => some p
  | some a =>
    let a := dpaAfter fs ms a
    ms.findSome? (fun m => (m.2.offsetOf a).map (locate m.2))

/-- A place lies in an extent that the move empties or fills. -/
def touched (ms : List (Region × Region)) (p : Nat) : Bool := ms.any (fun m => m.1 ≠ m.2 && (m.1.covers p || m.2.covers p))

/-- The bytes of regions that move, with their sectors' tags and poison. -/
def moveBytes (s : State) (fs : List (Nat × Nat × Nat)) (ms : List (Region × Region)) : State :=
  let dest (p : Nat) : Option Nat := if ms.any (fun m => m.1.covers p) then placeAfter fs ms p else none
  { s with
    hbm.mem := (s.hbm.mem.filter (fun e => touched ms e.1)).foldl (fun t e => match dest e.1 with
      | none => t
      | some q => Tab.set 0 t q e.2) (s.hbm.mem.filter (fun e => !touched ms e.1))
    hbm.tags := (s.hbm.tags.filter (fun e => touched ms (32 * e.1))).foldl (fun t e => match dest (32 * e.1) with
      | none => t
      | some q => Tab.set 0 t (q / 32) e.2) (s.hbm.tags.filter (fun e => !touched ms (32 * e.1)))
    hbm.poisoned := s.hbm.poisoned.filterMap (fun k => if touched ms (32 * k) then (dest (32 * k)).map (· / 32) else some k) }

/-- Pages keep their frames under the DPAs that these have after the move. -/
def moveFrames (s : State) (fs : List (Nat × Nat × Nat)) (ms : List (Region × Region)) : State :=
  (contexts s).foldl (fun s c => s.setCtx c.1 (some { c.2 with
    pages := c.2.pages.map (fun p => { p with frame := p.frame.map (dpaAfter fs ms) }) })) s

/-- Identity lines on the stack, or where a region has come to lie, go to another place of their half (04 R101). -/
def moveLines (s : State) (st : Nat) (ms : List (Region × Region)) : State :=
  (s.corpus.blocks.filterMap (fun e => e.2.map (fun b => (e.1, b)))).foldl (fun s e =>
    let a := hIdent e.2.hdr
    if isPlace a && (stackOf a = st || ms.any (fun m => m.2.covers a)) then
      match freeIdent s (keyWeevil e.1) (hSealed e.2.hdr) with
      | none => s
      | some a' => s.setBlock e.1 (some { e.2 with hdr := hSign (hset e.2.hdr 44 8 a') })
    else s) s

/-- Everything in a plain stack but side-list chunks moves to the others; none while a frame or a region finds no place there. -/
def emptyPlain (s : State) (st : Nat) : Option State :=
  let old := entriesNow s
  let new := moveOff st ([8, 9, 10, 11].filter (fun t => t ≠ st && !(s.ctl t).retired)) [] old
  let ms := (old.map (·.2)).zip (new.map (·.2))
  if new.any (fun e => e.2.stackList.contains st) then none
  else (frameMoves ((new.map (·.2)).filter isPool) (framesHeld s) (framesHeld s)).map (fun fs =>
    let s := moveFrames (moveBytes s fs ms) fs ms
    let changed := (old.zip new).filterMap (fun e => if e.1.2 = e.2.2 then none else some e.2)
    let s := { s with hbm.regions := changed.foldl (fun t e => Tab.set none t e.1 (some e.2)) s.hbm.regions,
                      alloc.plainGone := s.alloc.plainGone ++ [st] }
    moveLines s st ms)

end Sys2Proof.Machine
end

