-- ==== Sys2Proof/Machine/Repair.lean ====
section
/-! DEFINITION. Where maintenance activities lead (14 R488-R506): the defined end of each, and what it changes. -/

namespace Sys2Proof.Machine

/-! ## Firmware images (R488-R496) -/

/-- The version that a part's factory image carries. -/
def factoryVersion : Nat → W32
  | 1 => Config.engineUcode.zeroExtend 32
  | 2 => Config.weevilUcode.zeroExtend 32
  | 3 => Config.borerFw.zeroExtend 32
  | _ => Config.imageVersion []

/-- The current image of a part in the firmware store; none is listed for the factory's. -/
def imageOf (s : State) (part : Nat) : List Byte := Tab.get [] s.flash.images part
def partVersion (s : State) (part : Nat) : W32 :=
  if (imageOf s part).isEmpty then factoryVersion part else Config.imageVersion (imageOf s part)

/-- Units of a part (Table 14.7). -/
def unitsOf : Nat → List Nat
  | 1 => List.range 48
  | 2 => List.range 256
  | 3 => List.range 32
  | 4 => [0]
  | 5 => List.range 5
  | 6 => [5, 6]
  | 7 => List.range 3
  | _ => []

/-- The directory's entry of a unit: the version that it runs (R488). -/
def dirKey (part unit : Nat) : Nat := part * 1024 + unit
def unitVersion (s : State) (part unit : Nat) : W32 :=
  let v := Tab.get 0 s.flash.directory (dirKey part unit)
  if v = 0 then partVersion s part else v

/-- The number under which a stopped unit stands in MOD's list: CONTROL units by their own, ports from 16, the cores 24. -/
def stoppedId (part unit : Nat) : Nat := if part = 7 then 16 + unit else if part = 8 then 24 else unit

/-- A unit runs an image of a version. -/
def runVersion (s : State) (part unit : Nat) (v : W32) : State :=
  match part with
  | 1 => s.modEngine unit (fun g => { g with
      ucode := v.truncate 16, drain := false, isDrained := false, updating := false, permanent := false })
  | 2 =>
    let out := (s.pch unit).retired || (s.ctl (unit / 32)).retired
    s.modWeevil unit (fun w => { w with ucode := v.truncate 16, staged := none, passThrough := w.passThrough && out })
  | 3 => rejoinChannel (s.modChannel unit (fun c => { c with fw := v.truncate 16 })) unit
  | 4 => { s with warden.handover := false, warden.romOnly := false }
  | 8 => if s.mod.stoppedUnits.contains 24 then { s with mod.coreFw := v, mod.stoppedUnits := s.mod.stoppedUnits.filter (· ≠ 24) } else s
  | p => { s with mod.stoppedUnits := s.mod.stoppedUnits.filter (· ≠ stoppedId p unit) }

/-- A unit whose new image failed its check (R492, R496): an engine is drained for good, a Borer stays bypassed, the others run
their outgoing image. -/
def keepOld (s : State) (part unit : Nat) : State :=
  match part with
  | 1 => s.modEngine unit (fun g => { g with drain := true, isDrained := true, updating := false, permanent := true })
  | 2 => s.modWeevil unit (fun w => { w with staged := none })
  | 4 => { s with warden.handover := false }
  | _ => s

/-- The unit's claim can come to its end: an engine is UPDATING, a Borer has no read in flight, the hand-over of Syeno has begun. -/
def unitReady (s : State) (part unit : Nat) : Bool :=
  match part with
  | 1 => (s.engine unit).updating
  | 3 => (s.channel unit).jobs.isEmpty && !payloadsDue s
  | 4 => s.warden.handover
  | _ => true

/-- MR14 takes part, unit and the image's digest, and the audit log an entry (13 R449). -/
def measureUnit (s : State) (part unit : Nat) (image : List Byte) : State :=
  addAuditFree (extendMr s 14 (Config.shake256 (leBytes 1 part ++ leBytes 2 unit ++ leBytes 32 (Config.shake256 image).toNat)))

/-- An UPDATE of the part with this image has a claim, or waits for one. -/
def imageGoing (s : State) (part : Nat) (image : List Byte) : Bool :=
  (allClaims s).any (fun c => match c.2.act with
    | .update p _ _ i _ => p = part && i = image
    | _ => false)

/-- Images that the store holds beside the current one are kept while a unit runs them or an UPDATE needs them; once no unit runs the
current one, it is deleted, and the newest that one runs is current (R489). -/
def settleImages (s : State) (part : Nat) : State :=
  let named := (unitsOf part).map (unitVersion s part)
  let held := (Tab.get [] s.flash.incoming part).filter (fun i =>
    named.contains (Config.imageVersion i) || imageGoing s part i)
  let next := if named.contains (partVersion s part) then none
    else held.reverse.find? (fun i => named.contains (Config.imageVersion i))
  match next with
  | none => { s with flash.incoming := Tab.set [] s.flash.incoming part held }
  | some i => { s with flash.images := Tab.set [] s.flash.images part i,
                       flash.incoming := Tab.set [] s.flash.incoming part (held.filter (· ≠ i)) }

/-- The image that a unit's directory entry names (R488). -/
def unitImage (s : State) (part unit : Nat) : List Byte :=
  let v := Tab.get 0 s.flash.directory (dirKey part unit)
  if v = 0 then imageOf s part
  else ((Tab.get [] s.flash.incoming part).find? (fun i => Config.imageVersion i = v)).getD (imageOf s part)

/-- Where a part's SVN floor stands in the policy's list (13 Table 13.3). -/
def floorIndex : Nat → Nat
  | 4 => 0
  | 1 => 1
  | 2 => 2
  | 3 => 3
  | 5 => 4
  | 8 => 6
  | _ => 5
def svnFloor (s : State) (part : Nat) : Nat := ((s.warden.policy.map (·.svn)).getD []).getD (floorIndex part) 0

/-- An image may be started: the factory's, or one with a vendor signature, at or above the floor (13 R448). -/
def mayRun (s : State) (part : Nat) (image : List Byte) : Bool :=
  (image.isEmpty || Config.vendorSigned image) && decide (svnFloor s part ≤ Config.imageSvn image)

/-- An activity is over: its claim ends and its command completes. -/
def finishAct (s : State) (n : Nat) (c : Claim) (r0 r1 : Nat) (body : List Byte) : State :=
  let s := endClaim s n 0
  if c.auto then s
  else match s.cmd c.cmd with
    | some k => finishD s k stOk r0 r1 body
    | none => s

/-- The activity goes on with its next unit, which takes or waits for a claim of its own; it has begun and is not stopped (R486). -/
def nextUnit (s : State) (n : Nat) (c : Claim) (a : Activity) : State :=
  let s := endClaim s n 0
  match freeClaim s c.auto with
  | none => s
  | some m =>
    let c' : Claim := { c with state := 0, act := a, pausedBy := [], since := s.secs, begun := true }
    let s := match s.cmd c.cmd with
      | some k => if c.auto then s else s.setCmd { k with phase := .activity m }
      | none => s
    let s := s.setClaim m (some c')
    match outcome s a c.auto (some m) with
    | .both => runEntry s m c'
    | .pause => runEntry s m c'
    | _ => s

def evUpdateUnit : Nat := 0x0102
def evUpdateFailed : Nat := 0x0103

/-- A Weevil update's last swap is done: the slots active now keep the next one waiting (R493). -/
def lastSwap (s : State) (part : Nat) : State :=
  if part = 2 then { s with maint.weevilSlots := s.reel.slots.filterMap (fun e => if e.2.busy then some e.2.cmd else none) } else s

/-- A unit of the part that fails stops its UPDATE: a Weevil, a Borer, Syeno, control firmware (R496). -/
def stopsUpdate (part : Nat) : Bool := decide (2 ≤ part ∧ part ≤ 5)

/-- The defined end of an UPDATE's unit (R491-R496): RESULT1 counts the units that failed. A Weevil that fails its check swaps back
first, and its unit ends with the end of that (15 R516, log 113). -/
def endUpdate (s : State) (n : Nat) (c : Claim) (part unit : Nat) (rest : List Nat) (image : List Byte) (failed : Nat) : State :=
  let v := Config.imageVersion image
  let go (s : State) (failed : Nat) : State :=
    match rest with
    | [] => settleImages (finishAct s n c v.toNat failed []) part
    | u :: us => nextUnit s n c (.update part u us image failed)
  if Config.postSwapOk part unit image then
    let s := runVersion s part unit v
    let s := { s with flash.directory := Tab.set 0 s.flash.directory (dirKey part unit) v }
    let s := if rest.isEmpty then lastSwap s part else s
    go (actEvent (measureUnit s part unit image) c evUpdateUnit part unit v.toNat) failed
  else if part = 2 ∧ s.maint.swapBack ≠ some unit then { s with maint.swapBack := some unit }
  else
    let s := { s with maint.swapBack := none }
    let s := actEvent (keepOld s part unit) c evUpdateFailed part unit (unitVersion s part unit).toNat
    if stopsUpdate part then settleImages (finishAct (lastSwap s part) n c v.toNat (failed + 1) []) part
    else go s (failed + 1)

/-! ## Rows and lanes (R497-R499, 10 R335) -/

def bankKey (st p bank : Nat) : Nat := (32 * st + p) * 48 + bank
def bankAt (s : State) (k : Nat) : Bank := Tab.get Bank.initial s.hbm.banks k
def rowDepth (s : State) (k row : Nat) : Nat := Tab.get 0 (bankAt s k).chain row

/-- A row can be remapped: a spare is free and its chain is shorter than 2. -/
def canRemap (s : State) (k row : Nat) : Bool := decide ((bankAt s k).spares < 8) && decide (rowDepth s k row < 2)

/-- First place of a row. -/
def rowPlace (st p bank row : Nat) : Nat := placeOf st p (bank * 0x1800000 + row * 1024)

/-- EDATA0 of the row events. -/
def rowName (st p bank : Nat) : Nat := st * 2 ^ 14 + p * 2 ^ 8 + bank

/-- The spare of a scan-mode row is zero-filled; a normal-mode row's readable content is copied, and the sectors that are
uncorrectable are written with poison (R497). Which those are is a value that no rule gives (log 5). -/
def fillSpare (s : State) (st p bank row : Nat) : State :=
  let c := s.pch (32 * st + p)
  if c.scan && c.banks.getLsbD bank then
    let lo := rowPlace st p bank row
    { s with hbm.mem := s.hbm.mem.filter (fun e => !(decide (lo ≤ e.1) && decide (e.1 < lo + 1024))) }
  else
    let (x, s) := s.draw
    { s with hbm.poisoned := (List.range 32).foldl (fun (l : List Nat) i =>
        let k := rowPlace st p bank row / 32 + i
        if bit x i && !l.contains k then insertBy (· < ·) k l else l) s.hbm.poisoned }

def remapRow (s : State) (st p bank row : Nat) : State :=
  let k := bankKey st p bank
  if canRemap s k row then
    let d := rowDepth s k row + 1
    let b := bankAt s k
    let s := fillSpare s st p bank row
    let s := { s with hbm.banks := Tab.set Bank.initial s.hbm.banks k ⟨b.spares + 1, Tab.set 0 b.chain row d⟩ }
    postM s 0x0110 srcMaint noQueue (rowName st p bank) row d
  else s

/-- Sectors of a row that hold PROT data of a region stay poisoned. -/
def poisonRow (s : State) (lo : Nat) : State :=
  (List.range 32).foldl (fun s i =>
    let x := lo / 32 + i
    if protPlace s (32 * x) && !s.hbm.poisoned.contains x then
      { s with hbm.poisoned := insertBy (· < ·) x s.hbm.poisoned }
    else s) s

/-- Retired rows of a stack. -/
def stackRetiredRows (s : State) (st : Nat) : Nat :=
  ((List.range 32).map (fun p => (s.pch (32 * st + p)).retiredRows)).foldl (· + ·) 0

/-- Too many retired rows retire the pseudo-channel, or the stack (R499). -/
def noteRetired (s : State) (st p : Nat) : State :=
  if 1024 < stackRetiredRows s st then askAuto s (.stackRetire st)
  else if 256 < (s.pch (32 * st + p)).retiredRows then askAuto s (.pcRetire (32 * st + p))
  else s

def retireRow (s : State) (st p bank row : Nat) : State :=
  let w := 32 * st + p
  let id := w * 2 ^ 21 + bank * 24576 + row
  let s := { s with alloc.retiredRows := if s.alloc.retiredRows.contains id then s.alloc.retiredRows
                                          else insertBy (· < ·) id s.alloc.retiredRows }
  let s := s.modPch w (fun c => { c with retiredRows := c.retiredRows + 1 })
  let s := poisonRow s (rowPlace st p bank row)
  noteRetired (postM s 0x0111 srcMaint noQueue (rowName st p bank) row (s.pch w).retiredRows) st p

/-! ## Flash blocks and packages (R500, 06 R204, R207) -/

/-- Replacement blocks set aside on a channel at the first mount: one in 32 of its good blocks (06 R567). -/
def spareBlocks (ch : Nat) : Nat := (Config.goodBlocks ch).toNat / 32
def sparesLeft (s : State) (ch : Nat) : Nat := spareBlocks ch - (s.channel ch).spare

/-- A channel fails beyond repair and stays bypassed (06 R204): the Borers that hold the rows' P units take its reads over (R201). -/
def failChannel (s : State) (ch : Nat) : State :=
  let jobs := (s.channel ch).jobs
  jobs.foldl sendJob (s.modChannel ch (fun c => { c with state := 2, keys := false, jobs := [] }))

def srcAlloc : Nat := 0x04

/-- Spare area has been used: how much is a value no rule gives (log 5). SPARE_LOW is posted at 10 % (06 R208). -/
def spendSpare (s : State) : State :=
  let (x, s) := s.draw
  let s := { s with flash.sparePct := min s.flash.sparePct (x % 101) }
  if s.flash.sparePct ≤ 10 ∧ !s.flash.sparePosted then
    postM { s with flash.sparePosted := true } 0x0032 srcAlloc noQueue s.flash.sparePct 0 0
  else s

/-- Blocks of the package of a block that were retired within 24 h (R500). -/
def goneIn (s : State) (ch block : Nat) : Nat :=
  (s.flash.gone.filter (fun e => e.1 / 65536 = ch && e.1 % 65536 / packageBlocks = block / packageBlocks
    && decide (s.secs < e.2 + 86400))).length

/-- A package of whose blocks more than 10 % were retired within 24 h is retired whole (R500). -/
def notePackage (s : State) (ch block : Nat) : State :=
  let k := block / packageBlocks
  let asked := s.maint.claims.any (fun c => c.2.any (fun x => x.act = .flashRetire ch 0 (some k)))
  if decide (packageBlocks < 10 * goneIn s ch block) && decide (k < 4) && !asked && !s.flash.deadPackages.contains (4 * ch + k) then
    askAuto s (.flashRetire ch 0 (some k))
  else s

/-- Superblocks with a block in a package of a channel; the data of its blocks moves, through parity (R500). -/
def inPackage (s : State) (ch k sb : Nat) : Bool := blockOf s sb ch / packageBlocks = k
def emptyPackage (s : State) (ch k : Nat) : State :=
  (objectsWith s (fun u => homeChannel s u = ch && inPackage s ch k (superOf u))).foldl
    (moveOutBut (fun sb => inPackage s ch k sb)) s

/-- The next spare block of a channel takes a block's place in a superblock (06 R207; log 34). -/
def replaceBlock (s : State) (ch sb : Nat) : State :=
  let s := { s with flash.supers := Tab.set 0 s.flash.supers (32 * sb + ch) (superblocks + (s.channel ch).spare + 1) }
  s.modChannel ch (fun c => { c with spare := c.spare + 1 })

/-- A superblock is given up whole (06 R207). -/
def retireSuper (s : State) (sb : Nat) : State :=
  { s with flash.retired := if s.flash.retired.contains sb then s.flash.retired else s.flash.retired ++ [sb] }

/-- A block is retired (06 R207): the live data of its superblock moves first, and a spare block
takes its place; with none left the superblock is retired whole and the channel fails (R500). -/
def retireBlock (s : State) (ch block : Nat) : State :=
  let sb := superWith s ch block
  let s := emptySuper s sb
  let s := { s with flash.gone := s.flash.gone.filter (fun e => decide (s.secs < e.2 + 86400)) ++ [(eraseKey ch block, s.secs)] }
  let left := sparesLeft s ch
  let s := if left = 0 then retireSuper s sb else replaceBlock s ch sb
  let s := postM s 0x0117 srcMaint noQueue ch block (left - 1)
  if left = 0 then failChannel s ch else notePackage s ch block

/-- A package is retired whole, once (R500): its blocks' data moves, and spare blocks take their places as long as they are enough. -/
def retirePackage (s : State) (ch k : Nat) : State :=
  if s.flash.deadPackages.contains (4 * ch + k) then s
  else
    let s := emptyPackage s ch k
    let short := decide (sparesLeft s ch < packageBlocks)
    let s := if short then s.modChannel ch (fun c => { c with spare := spareBlocks ch })
      else ((List.range superblocks).filter (inPackage s ch k)).foldl (fun s sb => replaceBlock s ch sb) s
    let s := { s with flash.deadPackages := s.flash.deadPackages ++ [4 * ch + k] }
    let s := postM (s.modChannel ch (fun c => { c with failedPackages := c.failedPackages + 1 })) 0x0118 srcMaint noQueue ch k 0
    if short || decide (2 ≤ (s.channel ch).failedPackages) then failChannel s ch else s

/-- What FLASH_RETIRE retires: a block, or a package. -/
def retireFlash (s : State) (ch block : Nat) (package : Option Nat) : State :=
  match package with
  | none => retireBlock s ch block
  | some k => retirePackage s ch k

def evRewrite : Nat := 0x0033

/-- Rows of full width that hold a unit on a channel (06 R182). -/
def fullRows (s : State) : List (Nat × Row) := s.flash.rows.filter (fun e => !e.2.openRow && e.2.skip.isNone)

/-- A unit is a data unit on a channel in a programmed row of full width. -/
def onChannel (s : State) (ch fla : Nat) : Bool :=
  (fullRows s).any (fun e => e.1 = flaRow fla) && homeChannel s fla = ch

/-- Full-width rows that hold a data unit of some object on a channel. -/
def rowsHit (s : State) (ch : Nat) : List Nat :=
  ((((objects s).flatMap (fun o => unitsOfRun s o.1 o.2)).filter (onChannel s ch)).map flaRow).eraseDups

/-- The rewrite of a failed channel's rows is done: what stands in a row with a unit there stands in degraded rows, which are programmed
(06 R204). None while the spare area is too small. -/
def rewriteChannel (s : State) (ch : Nat) : Option State :=
  if s.flash.sparePct ≤ 2 then none
  else
    let t := (objectsWith s (fun u => (rowsHit s ch).contains (flaRow u))).foldl (fun t o =>
      let lo := openRun t o.2 (runBound t o.2) t.flash.slotCursor
      programRows (moveOut t o) lo o.2) s
    some (spendSpare (postM { t with flash.rewritePaused := false } evRewrite srcAlloc noQueue ch 0 0))

/-- The rewrite pauses at 2 % SPARE_PCT, and an event says so once. -/
def pauseRewrite (s : State) (ch : Nat) : State :=
  if s.flash.rewritePaused then s
  else postM { s with flash.rewritePaused := true } evRewrite srcAlloc noQueue ch 1 0

/-! ## Pseudo-channels and stacks (R501-R503) -/

/-- A Weevil is set to pass-through: the slots on it leave first. -/
def passWeevil (s : State) (w : Nat) : State :=
  let s := ((slotsIn (s.weevil w).wslots 1) ++ (slotsIn (s.weevil w).wslots 2)).foldl (fun s n => leaveWeevil s w n) s
  s.modWeevil w (fun v => { v with passThrough := true })

/-- A pseudo-channel is retired once its Weevil's ring is empty. -/
def retirePc (s : State) (p : Nat) : Option State :=
  if p < 256 ∧ !(ring s p).isEmpty then none
  else
    let s := if p < 256 then passWeevil s p else s
    some (postM (s.modPch p (fun c => { c with retired := true })) 0x0112 srcMaint noQueue p 0 0)

/-- The stack is retired: HBMC_STAT.RETIRED, and STACK_RETIRED is posted. -/
def closeStack (s : State) (st : Nat) : State :=
  let s := (List.range 32).foldl (fun s p => s.modPch (32 * st + p) (fun c => { c with retired := true })) s
  postM (s.modCtl st (fun c => { c with retired := true })) 0x0114 srcMaint noQueue st 0 0

/-- A stack is retired once it is empty: a scan stack's rings; of a plain stack its chunks, whose entries are merged first, and then
everything else in it, which moves to the others (R502). -/
def retireStack (s : State) (st : Nat) : Option State :=
  if st < 8 then
    if (List.range 32).any (fun p => !(ring s (32 * st + p)).isEmpty) then none
    else some (closeStack ((List.range 32).foldl (fun s p => passWeevil s (32 * st + p)) s) st)
  else if s.corpus.sides.any (fun e => chunkStack (e.1 / chunkSize) = st) then none
  else (emptyPlain s st).map (fun s => closeStack s st)

/-! ## The end of an activity -/

/-- A retired Weevil whose chain port fails has its stack retired instead (R501); whether it does no rule says (log 5). -/
def chainPort (s : State) (p : Nat) : State :=
  if 256 ≤ p then s
  else
    let (x, s) := s.draw
    if x % 2 = 1 then askAuto s (.stackRetire (p / 32)) else s

/-- A hard-repair instruction blows the fuses of a row, which counts as part of the array from the next cold start on (R506, log 110). -/
def blowFuse (s : State) (st chan : Nat) (name : String) (data : List Byte) : State :=
  let (odd, row) := Config.fusedRow name data
  { s with alloc.fused := s.alloc.fused ++ [(32 * st + 2 * chan + b2n odd) * 2 ^ 21 + row.toNat] }

/-- IEEE 1500: the wrapper's output bits, cut to the result buffer (R506). -/
def wrapperBytes (s : State) (c : Claim) (st chan : Nat) (name : String) (data : List Byte) : List Byte :=
  (Config.wrapperOut st chan name data).take (((s.cmd c.cmd).map (·.rlen)).getD 0)

/-- An engine under self-test has run it and is free again. -/
def testRan (s : State) (e cmd : Nat) : Option State :=
  if (s.engine e).work = .test cmd then some (s.modEngine e (fun g => { g with work := .idle })) else none

/-- The end of a REFETCH: the unit runs the image that the directory names for it, if that may run (13 R448); else it stays as it is, an
UPDATE_FAILED event names it and RESULT1 is 1 (log 103). -/
def endRefetch (s : State) (n : Nat) (c : Claim) (part unit : Nat) : State :=
  let v := unitVersion s part unit
  if mayRun s part (unitImage s part unit) then settleImages (finishAct (runVersion s part unit v) n c v.toNat 0 []) part
  else finishAct (actEvent (keepOld s part unit) c evUpdateFailed part unit v.toNat) n c v.toNat 1 []

/-- Units that have been written, in ascending order. -/
def writtenUnits (s : State) : List Nat :=
  (s.flash.rows.filter (fun e => e.2.begun)).flatMap (fun e =>
    ((List.range 120).map (fun i => 120 * e.1 + i)).filter (fun u => !unitMissing s u))

/-- Margin reads of 4,096 written units of a channel, chosen at random (06 Table 6.9). -/
def marginReads (s : State) (ch : Nat) : State :=
  let us := (writtenUnits s).filter (fun u => homeChannel s u = ch)
  if us.isEmpty then s
  else (List.range 4096).foldl (fun s _ => let (d, s) := s.draw; ownUnit false s (us.getD (d % us.length) 0)) s

/-- What an Extended self-test reads of the page store as it runs to its end: margin reads on a Borer's channel, every written row of the
page store (06 R213). -/
def testReads (s : State) (t i : Nat) (extended : Bool) : State :=
  if !extended then s else if t = 1 then marginReads s i else if t = 2 then ownRead s (writtenUnits s) false else s

/-- A running entry reaches its defined end; unchanged while it has not. -/
def endEntry (s : State) (n : Nat) (c : Claim) (result cap esr : Nat) : State :=
  match c.act with
  | .update part u rest image failed => if unitReady s part u then endUpdate s n c part u rest image failed else s
  | .refetch part u => if unitReady s part u then endRefetch s n c part u else s
  | .bypass ch => if (s.channel ch).jobs.isEmpty then finishAct (rejoinChannel s ch) n c 0 0 [] else s
  | .rowRemap st p bank row => finishAct (remapRow s st p bank row) n c 0 0 []
  | .rowRetire st p bank row => finishAct (retireRow s st p bank row) n c 0 0 []
  | .laneRemap st chan =>
    if Tab.get 0 (s.ctl st).lanes chan < 2 then
      finishAct (s.modCtl st (fun x => { x with lanes := Tab.mod 0 x.lanes chan (· + 1) })) n c 0 0 []
    else askAuto (finishAct s n c 0 0 []) (.stackRetire st)
  | .flashRetire ch block package =>
    if addressHeld s then s else finishAct (spendSpare (retireFlash s ch block package)) n c 0 0 []
  | .pcRetire p => (match retirePc s p with
    | some s => chainPort (finishAct s n c 0 0 []) p
    | none => s)
  | .stackRetire st => (match if rehomed s st then retireStack s st else none with
    | some s => finishAct s n c 0 0 []
    | none => s)
  | .channelRewrite ch =>
    if addressHeld s then s
    else (match rewriteChannel s ch with
      | some s => finishAct s n c 0 0 []
      | none => pauseRewrite s ch)
  | .holdupTest k => finishAct (sectTested s k cap esr c.auto) n c 0 0 []
  | .ieee1500 st chan name cls data =>
    finishAct (if cls = 2 then blowFuse s st chan name data else s) n c 0 0 (wrapperBytes s c st chan name data)
  | .selftest 3 e _ => (match testRan s e c.cmd with
    | some s => finishAct s n c 0 result []
    | none => s)
  | .selftest t i x =>
    let s := finishAct (testReads s t i x) n c 0 result []
    if t = 0 ∧ result ≠ 0 then askAuto s (.pcRetire i) else s

/-- 14 R483, R486: a running activity or self-test reaches its defined end. -/
def execClaimEnd (n : Fin 64) (result : W32) (cap esr : BitVec 16) (s : State) : Host.Outcome State Fault Refusal :=
  .next (match s.claim n.val with
    | none => s
    | some c =>
      if c.state = 1 && !testNeeded s c.act then answerBad (endEntry s n.val c result.toNat cap.toNat esr.toNat) else s)

end Sys2Proof.Machine
end

