-- ==== Sys2Proof/Machine/Borer.lean ====
section
/-! DEFINITION. Reads that a Borer completes for a command (06 R194-R206): slots of candidates, and payloads (12 R417). A block with
too many read-retries is retired (14 R500). -/

namespace Sys2Proof.Machine

/-- Units of a block that needed read-retry within 24 h. -/
def retriedIn (s : State) (ch block : Nat) : Nat :=
  (s.flash.retried.filter (fun e => homeChannel s e.1 = ch && blockOfUnit s e.1 = block && decide (s.secs < e.2 + 86400))).length

/-- A block with more than 16 of them asks to be retired, once (14 R500). -/
def retireTired (s : State) (fs : List Nat) : State :=
  fs.foldl (fun s f =>
    let ch := homeChannel s f
    let block := blockOfUnit s f
    let asked := s.maint.claims.any (fun c => c.2.any (fun k => k.act = .flashRetire ch block none))
    if decide (16 < retriedIn s ch block) && !asked && (s.channel ch).state ≠ 2 then askAuto s (.flashRetire ch block none) else s) s

/-- The read of some units is over: counted, and a block that it tires out is retired. -/
def readUnits (s : State) (fs : List Nat) (sealed : Bool) (o : FlashRead) : State :=
  let s := countRead s fs sealed o
  if o = .ok then s else retireTired s fs

/-- The reads in flight on a channel that is out are over: the Borer's key slots are cleared (06 R203, 14 R494). -/
def settleKeys (s : State) (c : Channel) : Channel := { c with keys := c.keys && (c.state = 0 || !c.jobs.isEmpty || payloadsDue s) }

def settleAll (s : State) : State :=
  (List.range 32).foldl (fun t ch => if (t.channel ch).state = 0 then t else t.modChannel ch (settleKeys t)) s

/-- One unit of a read is lost (R206): which of several no operand says (log 5). -/
def loseOne (s : State) (fs : List Nat) : State :=
  match fs with
  | [] => s
  | [f] => loseUnit s (borerOf s f) f
  | f :: _ =>
    let (d, s) := s.draw
    let u := fs.getD (d % fs.length) f
    loseUnit s (borerOf s u) u

/-- A read is over: its counts, and what it loses. -/
def endRead (s : State) (fs : List Nat) (sealed : Bool) (o : FlashRead) : State :=
  let s := readUnits s fs sealed o
  if o = .lost then loseOne s fs else s

/-- 06 R195: a Borer's slot read completes: checks, expansion and distance, or an exclusion. -/
def execRefineReadDone (b : ChannelId) (o : FlashRead) (s : State) : Host.Outcome State Fault Refusal :=
  if s.pwr.state ≠ 0 then .next s else
  .next (match (s.channel b.val).jobs with
    | [] => s
    | r :: rest =>
      let keys := (s.channel b.val).keys
      let s := s.modChannel b.val (fun c => settleKeys s { c with jobs := rest })
      let x := (s.cmd r.cmd).bind (fun c => match c.job with
        | .search j => some j.ctx
        | _ => none)
      match x with
      | none => s
      | some x =>
        let fs := slotFlas s r.slot
        let o := readOutcome s fs o
        let s := endRead s fs x.sealed o
        if r.surplus then readBack s r.cmd id
        else
          let v := refineOne x (if keys then slotUnder s x.cid.toNat r.vid r.version.toNat r.slot else none) r.vid r.version
          s.modChannel b.val (fun c => { c with
            results := c.results ++ [⟨r.cmd, r.vid, r.version, v⟩],
            excl := if v.isNone && !x.sealed then satAdd 16 c.excl 1 else c.excl }))

/-! ## Payloads -/

/-- The payload of a returned entry is at hand; the last one ends the search. -/
def payloadIn (s : State) (c : Cmd) (j : SearchJob) (p : List Byte) (bad : Bool) : State :=
  let j := { j with payloads := j.payloads ++ [p], offsetRead := false, integ := j.integ || bad }
  if j.payloads.length = payloadReads c j.final.length j.ctx.k then
    endSearch s c j ⟨j.final, j.tiesN, nonfiniteCount j, (refinedOrder j).length⟩
  else s.setCmd { c with job := .search j }

/-- The table's read is over: a record without a payload needs no second read, but in a sealed session (13 R472). -/
def offsetIn (s : State) (c : Cmd) (j : SearchJob) (a : Option W64) (o : FlashRead) : State :=
  let has := a.any (fun a => decide (((slotHeld s a).map (·.payLen)).getD 0 ≠ 0))
  if o = .lost && a.isSome then payloadIn s c j [] true
  else if has || c.isSealed then s.setCmd { c with job := .search { j with offsetRead := true } }
  else payloadIn s c j [] false

/-- The record's read is over: the payload, or none and INTEGRITY where it is lost or its check fails (R188, R206). -/
def recordIn (s : State) (c : Cmd) (j : SearchJob) (e : Option (Cand × W32)) (o : FlashRead) : State :=
  match e with
  | none => payloadIn s c j [] false
  | some e =>
    let has := decide (((slotHeld s e.1.slot).map (·.payLen)).getD 0 ≠ 0)
    if !has then payloadIn s c j [] false
    else if o = .lost then payloadIn s c j [] true
    else match payloadUnder s j.ctx.cid.toNat e.1.vid e.1.version e.1.slot with
      | some p => payloadIn s c j p.bytes false
      | none => payloadIn s c j [] true

/-- The slot whose payload the read that is due is aimed at: the returned entry's; beyond those, in a sealed session, a random payload
record of the collection, as for an entry that has none (13 R472). -/
def payloadAim (s : State) (c : Cmd) (j : SearchJob) (e : Option (Cand × W32)) : State × Option W64 :=
  let has (a : W64) : Bool := decide (((slotHeld s a).map (·.payLen)).getD 0 ≠ 0)
  let own := e.map (·.1.slot)
  if c.isSealed && !own.any has then
    let live := (s.flash.slots.filter (fun x => x.2.any (fun v => v.cid = j.ctx.cid && v.payLen ≠ 0))).map (·.1)
    let (d, s) := s.draw
    let key := live.getD (d % live.length) 0
    (s, if live.isEmpty then own else some (slotAddr (key / 4096) (key % 4096) (slotSize j.ctx.params)))
  else (s, own)

/-- 12 R417: a read for a returned entry's payload completes: of the offset table, then of the payload record (06 R197). -/
def execPayloadReadDone (q : QueueId) (t : TagId) (o : FlashRead) (s : State) : Host.Outcome State Fault Refusal :=
  if s.pwr.state ≠ 0 then .next s else
  .next (match s.cmdAt q.val t.val with
    | none => s
    | some c =>
      match c.phase, c.job with
      | .payload, .search j =>
        if j.aborted then fail (noteRelease s c) c stAborted
        else
          let e := j.final[j.payloads.length]?
          let (s, aim) := payloadAim s c j e
          let fs := (aim.map (fun a => if j.offsetRead then payloadFlas s a else [offsetUnit s a])).getD []
          let o := readOutcome s fs o
          let s := endRead s fs c.isSealed o
          settleAll (if j.offsetRead then recordIn s c j e o else offsetIn s c j (e.map (·.1.slot)) o)
      | _, _ => s)

end Sys2Proof.Machine
end

