-- ==== Sys2Proof/Machine/Pins.lean ====
section
/-! DEFINITION. Pins and STATS (02 R55-R60, 12 R419, R420, 13 R467). -/

namespace Sys2Proof.Machine

/-! ## PIN and UNPIN -/

def srcCsn : Nat := 0x05
def evPinExpired : Nat := 0x0002
def evPinReleased : Nat := 0x0003

def Cmd.pinNo (c : Cmd) : Nat := byteAt c.bytes 16
def Cmd.leaseMs (c : Cmd) : Nat := if le c.bytes 20 4 = 0 then defaultLease else le c.bytes 20 4
def Cmd.pinCsn (c : Cmd) : Nat := le c.bytes 24 8

/-- Step 2 of PIN and UNPIN: the grant's PIN flag, and pin ownership (R56, 13 R463). -/
def pinAuthority (s : State) (c : Cmd) : Bool :=
  let p := s.pinAt c.pinNo
  grantFlag s c 2 && !(decide (c.pinNo < 16) && p.held && !pinOwned c p)

/-- Steps 2, 5 and 6 of PIN (R55-R59). -/
def pinChecks (s : State) (c : Cmd) : Option Nat :=
  let p := s.pinAt c.pinNo
  let named := c.cflag 0
  firstFail [
    (!pinAuthority s c, stDenied),
    (!decide (c.pinNo < 16), stBadCmd),
    (!decide (100 ≤ c.leaseMs ∧ c.leaseMs ≤ 600000), stBadCmd),
    (named && p.held && c.pinCsn ≠ p.csn, stBadCmd),
    (named && !p.held && !decide (horizon s ≤ c.pinCsn ∧ c.pinCsn ≤ s.csn.current), stBadCmd),
    (!p.held && freePins s = 0, stBusy) ]

/-- The pin is taken, or its lease renewed with its CSN kept (R55, R57). -/
def admitPin (s : State) (c : Cmd) : State :=
  match pinChecks s c with
  | some st => fail s c st
  | none =>
    let p := s.pinAt c.pinNo
    let csn := if p.held then p.csn else if c.cflag 0 then c.pinCsn else s.csn.current
    finishD (takePin s c c.pinNo csn c.leaseMs) c stOk csn c.leaseMs []

/-- 02 R55: PIN takes CSN_CURRENT or a named CSN, or renews the owner's lease. -/
def execPin (q : QueueId) (s : State) : Host.Outcome State Fault Refusal :=
  .next (match oldest s q.val (fun c => c.opcode = opPin) with
    | none => s
    | some c =>
      if !stepOne c then fail s c stBadCmd
      else match pinChecks s c with
        | some st => fail s c st
        | none => if admissionStopped s then holdForRun s c else admitPin s c)

/-- Steps 2 and 5 of UNPIN (12 R419). -/
def unpinChecks (s : State) (c : Cmd) : Option Nat :=
  firstFail [
    (!pinAuthority s c, stDenied),
    (!decide (c.pinNo < 16), stBadCmd),
    (!(s.pinAt c.pinNo).held, stBadCmd) ]

/-- The owner's pin is released. -/
def admitUnpin (s : State) (c : Cmd) : State :=
  match unpinChecks s c with
  | some st => fail s c st
  | none => finishD (s.setPin c.pinNo Pin.free) c stOk (s.pinAt c.pinNo).csn 0 []

/-- 12 R419: UNPIN releases a pin of its owner. -/
def execUnpin (q : QueueId) (s : State) : Host.Outcome State Fault Refusal :=
  .next (match oldest s q.val (fun c => c.opcode = opUnpin) with
    | none => s
    | some c =>
      if !stepOne c then fail s c stBadCmd
      else match unpinChecks s c with
        | some st => fail s c st
        | none => if admissionStopped s then holdForRun s c else admitUnpin s c)

/-! ## Expiry and release by the module -/

/-- The lease of a pin may have run out, to within 2 % and the second that the time base counts (R57, log 4). -/
def leaseOver (s : State) (p : Pin) : Bool :=
  p.held && decide (98 * p.leaseMs ≤ 100000 * (s.secs - p.takenAt + 1))

/-- 02 R57: on expiry a pin is released, and PIN_EXPIRED goes to its queue. -/
def execPinExpired (n : Fin 16) (s : State) : Host.Outcome State Fault Refusal :=
  let p := s.pinAt n.val
  .next (if leaseOver s p then
      postQ (s.setPin n.val Pin.free) p.queue [eventBytes evPinExpired srcCsn p.queue p.csn n.val 0]
    else s)

/-- The event of a pin's release by the module or the owner (12 Table 12.16). -/
def postReleased (s : State) (n : Nat) (p : Pin) : State := postM s evPinReleased srcCsn p.queue p.csn n p.queue

/-- Entry to Vigil and every reset release every pin (R60). -/
def releasePins (s : State) : State :=
  let held := s.csn.pins.filter (·.2.held)
  held.foldl (fun s e => postReleased s e.1 e.2) { s with csn.pins := [] }

/-! ## STATS -/

/-- Records in the banks visible at CSN `a`, side entries visible there, unsettled exclusion entries, of a collection. -/
def bankSeen (s : State) (cid a : Nat) : Nat :=
  (s.corpus.blocks.map (fun e => match e.2 with
    | none => 0
    | some b => if hCid b.hdr = cid then
        ((List.range (hCount b.hdr)).filter (fun r => bankVisible s (keyWeevil e.1) b r a)).length else 0)).foldl (· + ·) 0

def sideSeen (s : State) (cid a : Nat) : Nat :=
  (s.corpus.sides.filter (fun e => e.2.any (fun x => x.cid.toNat = cid && sideVisible s x a))).length

def unsettledOf (s : State) (cid : Nat) : Nat :=
  (s.corpus.blocks.map (fun e => match e.2 with
    | none => 0
    | some b => if hCid b.hdr = cid then (exclusions s (keyWeevil e.1) b.hdr).length else 0)).foldl (· + ·) 0

def liveBlocks (s : State) (cid : Nat) : Nat :=
  (s.corpus.blocks.filter (fun e => e.2.any (fun b => hCid b.hdr = cid && hLive b.hdr))).length

/-- Refine flash bytes: the vector slots that the collection holds (log 19). -/
def refineBytes (s : State) (cid : Nat) (p : Params) : Nat :=
  (s.flash.slots.filter (fun e => e.2.any (fun v => v.cid.toNat = cid))).length * slotSize p

/-- The STATS report at CSN `a` (R420); bytes 16-39 only for a read clearance of all ones (13 R467). -/
def statsReport (s : State) (c : Cmd) (cid a : Nat) (x : Coll) : List Byte :=
  let all := readClear s c.session = allOnes4096
  let g (i : Nat) : Gen := x.gens.getD i ⟨0, [], 0⟩
  leBytes 2 cid ++ leBytes 1 x.gens.length ++ [0] ++ leBytes 4 (liveBlocks s cid) ++ leBytes 8 a
    ++ (if all then leBytes 8 (bankSeen s cid a) ++ leBytes 8 (sideSeen s cid a) ++ leBytes 8 (unsettledOf s cid)
        else List.replicate 24 0xFF)
    ++ [(g 0).tag, (g 1).tag] ++ zeros 6 ++ leBytes 32 (g 0).digest.toNat ++ leBytes 32 (g 1).digest.toNat
    ++ leBytes 8 (refineBytes s cid x.params) ++ zeros 8

/-- The collection that STATS names, from the command or its envelope. -/
def statsCid (c : Cmd) : Nat :=
  match c.plain with
  | some p => le p 0 2
  | none => c.hdrCid

/-- The report is read and written. -/
def admitStats (s : State) (c : Cmd) : State :=
  match liveColl s (statsCid c) with
  | none => fail s c stNoCollection
  | some x => finishD s c stOk s.csn.current 128 (statsReport s c (statsCid c) s.csn.current x)

/-- Steps 2 to 5 of STATS, once its request is known (R420, 13 R460-R463, R468). -/
def checkStats (s : State) (c : Cmd) (cid rlen : Nat) (shaped : Bool) : State :=
  if !(mayName s c cid && grantNames s c cid && grantFlag s c 5) then denyInside s c
  else match firstFail [
      ((liveColl s cid).isNone, stNoCollection),
      (!shaped || decide (rlen < 128) || !reachable s c.raddr c.rlen, stBadCmd) ] with
  | some st => fail s c st
  | none => if admissionStopped s then holdForRun s c else admitStats s c

/-- 12 R420: STATS writes a report on a collection. -/
def execStats (q : QueueId) (s : State) : Host.Outcome State Fault Refusal :=
  .next (match oldest s q.val (fun c => c.opcode = opStats) with
    | none => s
    | some c =>
      if !stepOne c then fail s c stBadCmd
      else if c.isSealed then
        match openRequest s c with
        | (s, none) => fail s c stDenied
        | (s, some (p, seq)) =>
          let (s, c) := acceptRequest s c p seq
          checkStats s c (le p 0 2) (c.rlen - 72) (zeroAt p 2 (p.length - 2))
      else checkStats s c c.hdrCid c.rlen true)

end Sys2Proof.Machine
end

