-- ==== Sys2Proof/Machine/Collections.lean ====
section
/-! DEFINITION. Collections and their generations (02 R25-R27, 03 R63, R64, R87, R88, 12 R423), and the owner's release of
a pin (02 R56). -/

namespace Sys2Proof.Machine

/-! ## CREATE -/

/-- The coding parameters of a CREATE body (12 Table 12.10). -/
def createParams (bs : List Byte) : Params :=
  { metric := byteAt bs 0, dim := le bs 6 2, pq8 := byteAt bs 1 = 1, m := byteAt bs 2, format := byteAt bs 3,
    outN := byteAt bs 4, outIdx := chunksOf 2 8 (bs.drop 16), biasUnit := BitVec.ofNat 32 (le bs 12 4),
    refineEnc := byteAt bs 5 }

/-- The coding parameters in that form again, with the sealed mark (06 Table 6.8). -/
def paramBytes (p : Params) (isSealed : Bool) : List Byte :=
  leBytes 1 p.metric ++ leBytes 1 (b2n p.pq8) ++ leBytes 1 p.m ++ leBytes 1 p.format ++ leBytes 1 p.outN ++ leBytes 1 p.refineEnc
    ++ leBytes 2 p.dim ++ leBytes 1 (b2n isSealed) ++ zeros 3 ++ leBytes 4 p.biasUnit.toNat
    ++ padTo 16 (p.outIdx.flatMap (leBytes 2)) ++ zeros 32

/-- Bytes of a collection's codebooks. -/
def bookBytes (p : Params) : Nat := 2 * p.m * p.k * p.w
def bookOf (p : Params) (bs : List Byte) : List W16 := (chunksOf 2 (p.m * p.k * p.w) bs).map (BitVec.ofNat 16)
def createSealed (bs : List Byte) : Bool := bit (byteAt bs 8) 0

/-- Owner authority of a sealed CREATE: behind header and codebooks (13 R468). -/
def createAuth (bs : List Byte) : Option Nat :=
  if createSealed bs then some (64 + bookBytes (createParams bs)) else none

/-- Step 6 of CREATE (R25, R27). -/
def createLimits (s : State) (cid : Nat) : Option Nat :=
  if (s.coll cid).isSome || decide (4096 ≤ liveCount s) then some stBusy else none

/-- The checks of CREATE (03 R64, 02 R27, 13 R475). -/
def createChecks (s : State) (c : Cmd) (bs : List Byte) (ok : Bool) : Option Nat :=
  let p := createParams bs
  (firstFail [
    (createSealed bs && s.warden.debugOpen, stDenied),
    (ok && decide (8 ≤ bs.length) && decide (16384 < p.dim), stDimRange),
    (!ok || decide (bs.length < 64), stBadCmd),
    (decide (1 < byteAt bs 1) || !p.valid, stBadCmd),
    (byteAt bs 8 &&& 0xFE ≠ 0 || !zeroAt bs 9 3 || !zeroAt bs 32 32, stBadCmd),
    (bs.length ≠ 64 + bookBytes p, stBadCmd),
    (!finiteBook (bookOf p (bs.drop 64)), stBadCmd),
    (c.hdrCid = 0xFFFF || (liveColl s c.hdrCid).isSome, stBadCmd) ]).orElse (fun _ => createLimits s c.hdrCid)

/-- The collection appears under a new CSN, with generation tag 0 and priority 0. A sealed one made after a level 2 tamper response gets no
keys and is not searchable until the next cold start (13 R477; DESIGN CHOICE, log 100). -/
def runCreate : MaintRun := fun s c bs =>
  if createSealed bs && s.warden.debugOpen then some (fail s c stDenied)
  else match createLimits s c.hdrCid with
  | some st => some (fail s c st)
  | none =>
    (changeRef s).map (fun ref =>
      let p := createParams bs
      let book := bs.drop 64
      let g : Gen := ⟨0, bookOf p book, Config.shake256 book⟩
      let (x, s) := commitChange (takeRef s ref) ref c.hdrCid 0 (.collection false (bs.take 64))
      let keyed := !createSealed bs || !(s.warden.sealedOff || s.warden.erased)
      let s := s.setColl c.hdrCid (some ⟨p, createSealed bs, [g], 0, keyed, false, x, none, keyed,
        if keyed then collKey s c.hdrCid x (createSealed bs) else []⟩)
      finishD s c stOk x 0 [])

/-- 02 R27: MAINT CREATE. -/
def execCreate (q : QueueId) (s : State) : Host.Outcome State Fault Refusal :=
  .next (runMaint s q.val 0x0001 createAuth createChecks runCreate)

/-! ## Checks of the other subops -/

/-- No subop but CREATE, PIN_RELEASE and IEEE1500 needs owner authority. -/
def noAuth : List Byte → Option Nat := fun _ => none

/-- Steps 2, 3 and the start of step 5 of a subop that names a collection and has a body of 64 bytes or more. -/
def collChecks (s : State) (c : Cmd) (ok : Bool) (shaped : Bool) : List (Bool × Nat) :=
  [ (!mayName s c c.hdrCid, stDenied), ((liveColl s c.hdrCid).isNone, stNoCollection), (!ok || !shaped, stBadCmd) ]

/-! ## DESTROY -/

/-- The collection disappears at CSN X. -/
def destroyColl (s : State) (cid ref : Nat) : Nat × State :=
  let p := ((s.coll cid).map (fun k => paramBytes k.params k.sealed)).getD []
  let (x, s) := commitChange (takeRef s ref) ref cid 0 (.collection true p)
  (x, s.setColl cid ((s.coll cid).map (fun k => { k with destroyed := some x })))

def destroyChecks (s : State) (c : Cmd) (_ : List Byte) (ok : Bool) : Option Nat :=
  firstFail (collChecks s c ok (c.len = 0))

def runDestroy : MaintRun := fun s c _ =>
  if (liveColl s c.hdrCid).isNone then some (fail s c stNoCollection)
  else (changeRef s).map (fun ref =>
    let (x, s) := destroyColl s c.hdrCid ref
    finishD s c stOk x 0 [])

/-- 02 R27: MAINT DESTROY. -/
def execDestroy (q : QueueId) (s : State) : Host.Outcome State Fault Refusal :=
  .next (runMaint s q.val 0x0002 noAuth destroyChecks runDestroy)

/-! ## GEN_INSTALL (03 R87, R88) -/

def genLimits (s : State) (cid : Nat) : Option Nat :=
  if (s.coll cid).any (fun k => decide (2 ≤ (liveGens s cid k).length)) then some stBusy else none

def genChecks (s : State) (c : Cmd) (bs : List Byte) (ok : Bool) : Option Nat :=
  (firstFail (collChecks s c ok (match liveColl s c.hdrCid with
    | none => true
    | some k => bs.length = 64 + bookBytes k.params && zeroAt bs 0 64 && finiteBook (bookOf k.params (bs.drop 64))))).orElse
    (fun _ => genLimits s c.hdrCid)

/-- The new generation is installed under the newest tag plus 1, and journalled. -/
def runGenInstall : MaintRun := fun s c bs =>
  match liveColl s c.hdrCid with
  | none => some (fail s c stNoCollection)
  | some k =>
    match genLimits s c.hdrCid, journalRoom s 128 with
    | some st, _ => some (fail s c st)
    | none, false => none
    | none, true =>
      let tag : Byte := ((k.newest.map (·.tag)).getD 0) + 1
      let book := bs.drop 64
      let g : Gen := ⟨tag, bookOf k.params book, Config.shake256 book⟩
      let s := journal s noRef c.hdrCid 0 0 (.generation tag (Config.shake256 book))
      let s := s.setColl c.hdrCid (some { k with gens := liveGens s c.hdrCid k ++ [g] })
      some (finishD s c stOk tag.toNat 0 [])

/-- 03 R87: MAINT GEN_INSTALL. -/
def execGenInstall (q : QueueId) (s : State) : Host.Outcome State Fault Refusal :=
  .next (runMaint s q.val 0x0003 noAuth genChecks runGenInstall)

/-! ## COLL_PRIORITY (12 R423) -/

def priorityChecks (s : State) (c : Cmd) (bs : List Byte) (ok : Bool) : Option Nat :=
  firstFail (collChecks s c ok (decide (64 ≤ bs.length) && decide (byteAt bs 0 ≤ 15) && zeroAt bs 1 63))

def runPriority : MaintRun := fun s c bs =>
  match liveColl s c.hdrCid with
  | none => some (fail s c stNoCollection)
  | some k =>
    if !journalRoom s 128 then none
    else
    let p := byteAt bs 0
    let s := journal s noRef c.hdrCid 0 0 (.priority p)
    some (finishD (s.setColl c.hdrCid (some { k with priority := p })) c stOk 0 0 [])

/-- 12 R423: MAINT COLL_PRIORITY. -/
def execCollPriority (q : QueueId) (s : State) : Host.Outcome State Fault Refusal :=
  .next (runMaint s q.val 0x0150 noAuth priorityChecks runPriority)

/-! ## PIN_RELEASE (02 R56) -/

def releaseChecks (s : State) (_ : Cmd) (bs : List Byte) (ok : Bool) : Option Nat :=
  firstFail [(!ok || bs.length ≠ 64 || decide (15 < byteAt bs 0) || !zeroAt bs 1 63, stBadCmd),
    (!(s.pinAt (byteAt bs 0)).held, stBadCmd)]

/-- The pin is released, and PIN_RELEASED goes to the holding queue and to the event queue. -/
def runPinRelease : MaintRun := fun s c bs =>
  let n := byteAt bs 0
  let p := s.pinAt n
  if p.held then
    let s := s.setPin n Pin.free
    let s := postQ s p.queue [eventBytes evPinReleased srcCsn p.queue p.csn n p.queue]
    some (finishD (postReleased s n p) c stOk p.csn 0 [])
  else some (fail s c stBadCmd)

/-- 02 R56: MAINT PIN_RELEASE, under owner authority. -/
def execPinRelease (q : QueueId) (s : State) : Host.Outcome State Fault Refusal :=
  .next (runMaint s q.val 0x0020 (fun _ => some 64) releaseChecks runPinRelease)

end Sys2Proof.Machine
end

