-- ==== Sys2Proof/Machine/FlashCmd.lean ====
section
/-! DEFINITION. The page store's own work (06 R181-R183, R190, R191, R200, R205-R208): open rows, patrol scrub, garbage collection
and wear levelling. Every object is found through its descriptor: block extents, staging slots, backing pages. -/

namespace Sys2Proof.Machine

/-! ## Superblocks (R207) -/

/-- No object is left in a superblock. -/
def superEmpty (s : State) (sb : Nat) : Bool :=
  let n := 120 * Config.superRows
  (objects s).all (fun o => decide (runEnd s o.1 o.2 ≤ sb * n ∨ (sb + 1) * n ≤ o.1))

/-- A superblock is erased: each channel's block counts one more, and its rows are open again. Its blocks are free
for the next superblock that is built (R207). -/
def eraseSuper (s : State) (sb : Nat) : State :=
  { s with
    life.now.erase := (List.range 32).foldl (fun t c => Tab.mod 0 t (eraseKey c (blockOf s sb c)) (· + 1)) s.life.now.erase
    flash.rows := s.flash.rows.filter (fun e => e.1 / Config.superRows ≠ sb) }

/-- Program and erase cycles that a block of either class is rated for (Table 6.1). -/
def ratedCycles : Nat := 3000

/-- Blocks that have reached their rated cycles are retired (R207). -/
def retireWorn (s : State) (sb : Nat) : State :=
  (List.range 32).foldl (fun s c => if ratedCycles ≤ eraseCount s c (blockOf s sb c) then askAuto s (.flashRetire c (blockOf s sb c) none) else s) s

/-- Sum of a superblock's 32 erase counts. -/
def superErases (s : State) (sb : Nat) : Nat := ((List.range 32).map (fun c => eraseCount s c (blockOf s sb c))).foldl (· + ·) 0
/-- Sum over the module. -/
def allErases (s : State) : Nat := (s.life.now.erase.map (·.2)).foldl (· + ·) 0

/-- A superblock's mean lies more than 200 below the module's. -/
def wearLags (s : State) (sb : Nat) : Bool :=
  decide (sb < superblocks) && decide ((superErases s sb + 200 * 32) * superblocks < allErases s)

/-- The objects of a superblock move into an empty one, in their order; none where they do not fit (R207). -/
def packSuper (s : State) (sb fresh : Nat) : Option State :=
  let n := 120 * Config.superRows
  ((objectsWith s (fun u => superOf u = sb)).foldl (fun (a : Option (State × Nat)) o => a.bind (fun x =>
    let lo := nthUnit x.1 0 x.2
    if freeRun x.1 lo o.2 && decide (runEnd x.1 lo o.2 ≤ (fresh + 1) * n) then some (moveRun x.1 o.1 o.2 lo, runEnd x.1 lo o.2)
    else none)) (some (s, fresh * n))).map (·.1)

/-! ## Their rows -/

/-- Objects in column 29 of a row. -/
def lastColumn (s : State) (row : Nat) : List (Nat × Nat) :=
  objectsWith s (fun u => flaRow u = row && flaCol u = 29)

/-- 06 R183: an open row is programmed, degraded while a channel is bypassed (R182, R202): what was placed in its column 29 before
the bypass moves out first, once no command holds a slot address (R191). -/
def execOpenRowProgram (row : Nat) (s : State) : Host.Outcome State Fault Refusal :=
  let skip := if (rowSkip s row).isSome then rowSkip s row else skipNow s
  let out := if skip = rowSkip s row then [] else lastColumn s row
  .next (if asleep s || !(rowAt s row).openRow || (!out.isEmpty && addressHeld s) then s
    else
      let t := out.foldl moveOut s
      { t with flash.rows := Tab.mod Row.initial t.flash.rows row (fun r => { r with openRow := false, begun := true, skip := skip }) })

/-- 06 R208: the patrol scrub reads a written unit; a unit with a high corrected count is rewritten, with the object it is of. -/
def execFlashScrub (fla : BitVec 40) (o : FlashRead) (high : Bool) (fresh : BitVec 40) (s : State) :
    Host.Outcome State Fault Refusal :=
  let ch := homeChannel s fla.toNat
  .next (if asleep s || (rowAt s (flaRow fla.toNat)).openRow then s
    else
      let o := readOutcome s [fla.toNat] o
      let t := endRead s [fla.toNat] false o
      if o = .lost then t
      else match objectAt s fla.toNat with
        | some (lo, n) =>
          if high && freeRun s fresh.toNat n && !addressHeld s then
            (moveRun t lo n fresh.toNat).modChannel ch (fun c => { c with corrHi := satAdd 16 c.corrHi 1 })
          else t
        | none => t)

/-- 06 R181, R200: garbage collection moves the object at a unit and rewrites its descriptor; a superblock left empty is erased. -/
def execGarbageCollection (fla : BitVec 40) (fresh : BitVec 40) (s : State) : Host.Outcome State Fault Refusal :=
  if unitStopped s 2 then .next s else
  .next (match objectAt s fla.toNat with
    | some (lo, n) =>
      if freeRun s fresh.toNat n && !addressHeld s then
        let t := moveRun s lo n fresh.toNat
        if superEmpty t (superOf lo) then retireWorn (eraseSuper t (superOf lo)) (superOf lo) else t
      else s
    | none => s)

/-- 06 R207: the data of a superblock that lags in wear is relocated to an empty one. -/
def execWearRelocation (sb : Nat) (fresh : Nat) (s : State) : Host.Outcome State Fault Refusal :=
  if unitStopped s 2 then .next s else
  .next (if wearLags s sb && superEmpty s fresh && !addressHeld s then
      (match packSuper s sb fresh with
       | some t => retireWorn (eraseSuper t sb) sb
       | none => s)
    else s)

end Sys2Proof.Machine
end

