-- ==== Sys2Proof/Machine/Front.lean ====
section
/-! DEFINITION. The instructions that the front end executes itself (08 R267-R272, R309, R310): scalars, addresses, tile
descriptors, branches, flags and fences. -/

namespace Sys2Proof.Machine

/-! ## Forms -/

/-- s[FD] := s[FA] op s[FB], with the FN values that the instruction defines. FB may hold anything where FN has no use for it, as may
such fields of the plans below (log 119). -/
def planSss (fns : List Nat) (_ : Ctx) (w : Iw) : Plan :=
  Plan.front (iFc w = 0 && fns.contains (iFn w)) (useS (iFd w) true ++ useS (iFa w) false ++ useS (iFb w) false)

/-- s[FD] := s[FA] op IMM25. -/
def planSsi (ok : Iw → Bool) (_ : Ctx) (w : Iw) : Plan := Plan.front (ok w) (useS (iFd w) true ++ useS (iFa w) false)

/-- s[FD] := a value; `ok` checks the other fields. -/
def planSd (ok : Iw → Bool) (_ : Ctx) (w : Iw) : Plan := Plan.front (ok w) (useS (iFd w) true)

/-- Instructions with no operand. -/
def planNone (_ : Ctx) (w : Iw) : Plan := Plan.front (bits w 0 35 = 0) []

def putRes (x : Ctx) (w : Iw) (r : Res) : Ctx := (x.raise r).setS (iFd w) (BitVec.ofNat 64 r.bits)
def opA (x : Ctx) (w : Iw) : Nat := (x.sreg (iFa w)).toNat
def opB (x : Ctx) (w : Iw) : Nat := (x.sreg (iFb w)).toNat
/-- Saturating result of signed operands. -/
def satSigned (f : Int → Int → Int) (a b : Nat) : Res := satTo tyI64 (f (toSigned 64 a) (toSigned 64 b))

/-! ## Control -/

/-- NOP (Table 8.3). -/
def execNop (e : EngineId) (s : State) : Host.Outcome State Fault Refusal :=
  .next (frontPure s e.val 0x00 planNone (fun x _ => x))

/-- END (R272): issue stops; the program ends once every earlier operation has completed (STAGE_END). -/
def execEndProg (e : EngineId) (s : State) : Host.Outcome State Fault Refusal :=
  .next (frontPure s e.val 0x01 planNone (fun x _ => { x with ended := true }))

/-- TRAP (R271): a software trap that reports IMM25. -/
def execTrap (e : EngineId) (s : State) : Host.Outcome State Fault Refusal :=
  let plan (_ : State) (_ : Ctx) (w : Iw) : Plan := Plan.front (zeroF [iFd w, iFa w]) []
  .next (match turn s e.val 0x02 .front plan with
    | .idle => s
    | .trap c x code info => issueTrap s c x code info
    | .go c x w => issueTrap s c x tcSoftware (bits w 0 25))

/-- GETF: s[FD] := EF. -/
def execGetf (e : EngineId) (s : State) : Host.Outcome State Fault Refusal :=
  .next (frontPure s e.val 0x03 (planSd (fun w => bits w 0 30 = 0)) (fun x w => x.setS (iFd w) (x.ef.zeroExtend 64)))

/-- CLRF: EF := EF and not s[FA]. -/
def execClrf (e : EngineId) (s : State) : Host.Outcome State Fault Refusal :=
  let plan (_ : Ctx) (w : Iw) : Plan := Plan.front (zeroF [iFd w, iFb w, iFc w, iFn w]) (useS (iFa w) false)
  .next (frontPure s e.val 0x04 plan (fun x w => { x with ef := x.ef &&& ~~~((x.sreg (iFa w)).truncate 5) }))

/-- RDCNT: instructions counted so far, or left in the budget. No rule gives what is left where no budget is set. -/
def execRdcnt (e : EngineId) (s : State) : Host.Outcome State Fault Refusal :=
  let plan (_ : State) (x : Ctx) (w : Iw) : Plan := planSd (fun w => zeroF [iFa w, iFb w, iFc w] && iFn w ≤ 1) x w
  .next (frontStep s e.val 0x05 plan (fun s x w =>
    let r : Nat × State :=
      if iFn w = 0 then (x.count, s) else if x.budget = 0 then s.draw else (x.limit - x.count, s)
    (r.2, x.setS (iFd w) (BitVec.ofNat 64 r.1), x.pc + 8)))

/-! ## Scalar integers (R267) -/

/-- ADD. -/
def execAdd (e : EngineId) (s : State) : Host.Outcome State Fault Refusal :=
  .next (frontPure s e.val 0x10 (planSss [0]) (fun x w => putRes x w (satSigned (· + ·) (opA x w) (opB x w))))

/-- SUB. -/
def execSub (e : EngineId) (s : State) : Host.Outcome State Fault Refusal :=
  .next (frontPure s e.val 0x11 (planSss [0]) (fun x w => putRes x w (satSigned (· - ·) (opA x w) (opB x w))))

/-- MUL. -/
def execMul (e : EngineId) (s : State) : Host.Outcome State Fault Refusal :=
  .next (frontPure s e.val 0x12 (planSss [0]) (fun x w => putRes x w (satSigned (· * ·) (opA x w) (opB x w))))

/-- DIV: FN[0] signed, FN[1] remainder. -/
def execDiv (e : EngineId) (s : State) : Host.Outcome State Fault Refusal :=
  .next (frontPure s e.val 0x13 (planSss [0, 1, 2, 3]) (fun x w =>
    putRes x w (divide (bit w 0) (bit w 1) (opA x w) (opB x w))))

/-- AND. -/
def execAnd (e : EngineId) (s : State) : Host.Outcome State Fault Refusal :=
  .next (frontPure s e.val 0x14 (planSss [0]) (fun x w => x.setS (iFd w) (x.sreg (iFa w) &&& x.sreg (iFb w))))

/-- OR. -/
def execOr (e : EngineId) (s : State) : Host.Outcome State Fault Refusal :=
  .next (frontPure s e.val 0x15 (planSss [0]) (fun x w => x.setS (iFd w) (x.sreg (iFa w) ||| x.sreg (iFb w))))

/-- XOR. -/
def execXor (e : EngineId) (s : State) : Host.Outcome State Fault Refusal :=
  .next (frontPure s e.val 0x16 (planSss [0]) (fun x w => x.setS (iFd w) (x.sreg (iFa w) ^^^ x.sreg (iFb w))))

/-- SHIFT: 0 SHL, 1 SHR, 2 SRA. -/
def execShift (e : EngineId) (s : State) : Host.Outcome State Fault Refusal :=
  .next (frontPure s e.val 0x17 (planSss [0, 1, 2]) (fun x w =>
    putRes x w (Res.plain (shiftBits 64 (iFn w) (opA x w) (opB x w)))))

/-- Minimum or maximum, signed or unsigned. -/
def minMax (isMax isUnsigned : Bool) (a b : Nat) : Nat :=
  let below := if isUnsigned then decide (a < b) else decide (toSigned 64 a < toSigned 64 b)
  if below = isMax then b else a

/-- MINMAX: FN[0] maximum, FN[1] unsigned. -/
def execMinmax (e : EngineId) (s : State) : Host.Outcome State Fault Refusal :=
  .next (frontPure s e.val 0x18 (planSss [0, 1, 2, 3]) (fun x w =>
    putRes x w (Res.plain (minMax (bit w 0) (bit w 1) (opA x w) (opB x w)))))

/-- CMP: 1 where the condition holds, else 0. -/
def execCmp (e : EngineId) (s : State) : Host.Outcome State Fault Refusal :=
  .next (frontPure s e.val 0x19 (planSss [0, 1, 2, 3, 4, 5]) (fun x w =>
    putRes x w (Res.plain (b2n (condHolds (iFn w) (opA x w) (opB x w))))))

/-- ADDI. -/
def execAddi (e : EngineId) (s : State) : Host.Outcome State Fault Refusal :=
  .next (frontPure s e.val 0x1A (planSsi (fun _ => true)) (fun x w =>
    putRes x w (satTo tyI64 (toSigned 64 (opA x w) + iImm25 w))))

/-- ANDI. -/
def execAndi (e : EngineId) (s : State) : Host.Outcome State Fault Refusal :=
  .next (frontPure s e.val 0x1B (planSsi (fun _ => true)) (fun x w =>
    x.setS (iFd w) (x.sreg (iFa w) &&& BitVec.ofInt 64 (iImm25 w))))

/-- SHIFTI: amount IMM25[6:0], kind IMM25[8:7]. -/
def execShifti (e : EngineId) (s : State) : Host.Outcome State Fault Refusal :=
  .next (frontPure s e.val 0x1C (planSsi (fun w => bits w 9 16 = 0 && bits w 7 2 ≤ 2)) (fun x w =>
    putRes x w (Res.plain (shiftBits 64 (bits w 7 2) (opA x w) (bits w 0 7)))))

/-- LI: s[FD] := IMM30. -/
def execLi (e : EngineId) (s : State) : Host.Outcome State Fault Refusal :=
  .next (frontPure s e.val 0x20 (planSd (fun _ => true)) (fun x w => x.setS (iFd w) (BitVec.ofInt 64 (iImm30 w))))

/-- The image's word at PC + 8 × IMM30. -/
def imageWord (x : Ctx) (w : Iw) : W64 := (x.wordAt (x.rel (iImm30 w))).getD 0

/-- LC: s[FD] := a word of the image; outside it, an address fault (R260). -/
def execLc (e : EngineId) (s : State) : Host.Outcome State Fault Refusal :=
  let plan (x : Ctx) (w : Iw) : Plan := { planSd (fun _ => true) x w with addrOk := x.relOk (iImm30 w) }
  .next (frontPure s e.val 0x21 plan (fun x w => x.setS (iFd w) (imageWord x w)))

/-- FOP (R268): the result in bits [31:0], and [63:32] zero; an INT64 result takes all 64 bits. -/
def execFop (e : EngineId) (s : State) : Host.Outcome State Fault Refusal :=
  .next (frontPure s e.val 0x22 (planSss (List.range 11)) (fun x w => putRes x w (Machine.fop (iFn w) (opA x w) (opB x w))))

/-! ## Addresses and descriptors (R269) -/

/-- AMOV: between an s and an a register. -/
def execAmov (e : EngineId) (s : State) : Host.Outcome State Fault Refusal :=
  let plan (_ : Ctx) (w : Iw) : Plan :=
    let down := iFn w = 0
    Plan.front (zeroF [iFb w, iFc w] && iFn w ≤ 1 && (if down then iFd w < 16 else iFa w < 16))
      (if down then useA (iFd w) true :: useS (iFa w) false else useA (iFa w) false :: useS (iFd w) true)
  .next (frontPure s e.val 0x30 plan (fun x w =>
    if iFn w = 0 then x.setA (iFd w) (x.sreg (iFa w)) else x.setS (iFd w) (x.areg (iFa w))))

/-- AADD: a[FD] := a[FA] + s[FB], modulo 2^64. -/
def execAadd (e : EngineId) (s : State) : Host.Outcome State Fault Refusal :=
  let plan (_ : Ctx) (w : Iw) : Plan :=
    Plan.front (zeroF [iFc w, iFn w] && iFd w < 16 && iFa w < 16)
      (useA (iFd w) true :: useA (iFa w) false :: useS (iFb w) false)
  .next (frontPure s e.val 0x31 plan (fun x w => x.setA (iFd w) (x.areg (iFa w) + x.sreg (iFb w))))

/-- AADDI: a[FD] := a[FA] + IMM25, modulo 2^64. -/
def execAaddi (e : EngineId) (s : State) : Host.Outcome State Fault Refusal :=
  let plan (_ : Ctx) (w : Iw) : Plan := Plan.front (iFd w < 16 && iFa w < 16) [useA (iFd w) true, useA (iFa w) false]
  .next (frontPure s e.val 0x32 plan (fun x w => x.setA (iFd w) (x.areg (iFa w) + BitVec.ofInt 64 (iImm25 w))))

/-- ALC: a[FD] := a word of the image. -/
def execAlc (e : EngineId) (s : State) : Host.Outcome State Fault Refusal :=
  let plan (x : Ctx) (w : Iw) : Plan :=
    { Plan.front (iFd w < 16) [useA (iFd w) true] with addrOk := x.relOk (iImm30 w) }
  .next (frontPure s e.val 0x33 plan (fun x w => x.setA (iFd w) (imageWord x w)))

/-- TSET: t[FD] := s[FA] in bits [63:0], s[FB] in bits [127:64]. -/
def execTset (e : EngineId) (s : State) : Host.Outcome State Fault Refusal :=
  let plan (_ : Ctx) (w : Iw) : Plan :=
    Plan.front (zeroF [iFc w, iFn w] && iFd w < 8) ((.t, iFd w, true) :: useS (iFa w) false ++ useS (iFb w) false)
  .next (frontTile s e.val 0x34 plan (fun x w => x.setT (iFd w) (BitVec.ofNat 128 (opA x w + opB x w * 2 ^ 64))))

/-- First bit and length of a field of a tile descriptor (Table 7.4), as TFLD numbers them. -/
def tileField : Nat → Nat × Nat
  | 0 => (0, 24) | 1 => (24, 12) | 2 => (36, 12) | 3 => (48, 16) | 4 => (64, 4) | 5 => (68, 4) | _ => (72, 24)

/-- TFLD: field FN of t[FD] := the low bits of s[FA]. -/
def execTfld (e : EngineId) (s : State) : Host.Outcome State Fault Refusal :=
  let plan (_ : Ctx) (w : Iw) : Plan :=
    Plan.front (zeroF [iFb w, iFc w] && iFn w ≤ 6 && iFd w < 8) ((.t, iFd w, true) :: useS (iFa w) false)
  .next (frontTile s e.val 0x35 plan (fun x w =>
    let f := tileField (iFn w)
    x.setT (iFd w) (BitVec.ofNat 128 (setBits (x.treg (iFd w)).toNat f.1 f.2 (opA x w)))))

/-- TGET: s[FD] := one half of t[FA]. -/
def execTget (e : EngineId) (s : State) : Host.Outcome State Fault Refusal :=
  let plan (_ : Ctx) (w : Iw) : Plan :=
    Plan.front (zeroF [iFb w, iFc w] && iFn w ≤ 1 && iFa w < 8) (useT (iFa w) :: useS (iFd w) true)
  .next (frontTile s e.val 0x36 plan (fun x w =>
    x.setS (iFd w) (BitVec.ofNat 64 (bits (x.treg (iFa w)).toNat (64 * iFn w) 64))))

/-! ## Branches (R270) -/

/-- A branch that leaves the image traps where it is taken (R260). -/
def branchOk (x : Ctx) (w : Iw) (taken : Bool) : Bool := !taken || x.relOk (iOff22 w)

def brTaken (x : Ctx) (w : Iw) : Bool := condHolds (iCnd w) (x.sreg (iBa w)).toNat (x.sreg (iBb w)).toNat

/-- BR. -/
def execBr (e : EngineId) (s : State) : Host.Outcome State Fault Refusal :=
  let plan (_ : State) (x : Ctx) (w : Iw) : Plan :=
    { Plan.front (iCnd w ≤ 6) (useS (iBa w) false ++ useS (iBb w) false) with addrOk := branchOk x w (brTaken x w) }
  .next (frontStep s e.val 0x40 plan (fun s x w => (s, x, if brTaken x w then x.rel (iOff22 w) else x.pc + 8)))

/-- JAL: s[FD] := PC + 8; PC := PC + 8 × IMM30. -/
def execJal (e : EngineId) (s : State) : Host.Outcome State Fault Refusal :=
  let plan (_ : State) (x : Ctx) (w : Iw) : Plan :=
    { planSd (fun _ => true) x w with addrOk := x.relOk (iImm30 w) }
  .next (frontStep s e.val 0x41 plan (fun s x w =>
    (s, x.setS (iFd w) (BitVec.ofNat 64 (x.pc + 8)), x.rel (iImm30 w))))

/-- JR: PC := s[FA]. -/
def execJr (e : EngineId) (s : State) : Host.Outcome State Fault Refusal :=
  let plan (_ : State) (x : Ctx) (w : Iw) : Plan :=
    { Plan.front (zeroF [iFd w, iFb w, iFc w, iFn w]) (useS (iFa w) false) with addrOk := x.inImage (opA x w) }
  .next (frontStep s e.val 0x42 plan (fun s x w => (s, x, opA x w)))

/-- LOOP: branches when s[FA] is not zero, and decrements it first. -/
def execLoop (e : EngineId) (s : State) : Host.Outcome State Fault Refusal :=
  let plan (_ : State) (x : Ctx) (w : Iw) : Plan :=
    { Plan.front (zeroF [iCnd w, iBb w]) (useS (iBa w) true) with addrOk := branchOk x w (x.sreg (iBa w) != 0) }
  .next (frontStep s e.val 0x43 plan (fun s x w =>
    if x.sreg (iBa w) = 0 then (s, x, x.pc + 8)
    else (s, x.setS (iBa w) (x.sreg (iBa w) - 1), x.rel (iOff22 w))))

/-! ## Tokens and fences (R309, R310) -/

/-- TWAIT: issue stops until the wait set is satisfied. -/
def execTwait (e : EngineId) (s : State) : Host.Outcome State Fault Refusal :=
  .next (frontPure s e.val 0xF0 planNone (fun x _ => x))

/-- FENCE: issue stops until every earlier operation has completed; the hazard records are empty. -/
def execFence (e : EngineId) (s : State) : Host.Outcome State Fault Refusal :=
  .next (match runningOn s e.val with
    | none => s
    | some (_, x) =>
      if x.ops.isEmpty then frontPure s e.val 0xF1 planNone (fun x _ => x.noRecords) else s)

end Sys2Proof.Machine
end

