-- ==== Sys2Proof/Machine/Launch.lean ====
section
/-! DEFINITION. MAINT programs (11 R370-R375, R385, R386, 12 R423, Table 12.17): LAUNCH, RESUME, KILL, and the corpus sampling
of Refit (07 R252, 13 R466). -/

namespace Sys2Proof.Machine

/-! ## Mapping lists (11 Table 11.3, R374, R375) -/

/-- A mapping list entry. -/
structure MapEnt where
  va : Nat
  len : Nat
  kind : Nat
  size : Nat
  perm : Nat
  region : Nat
  offset : Nat
  pad : Nat
  deriving DecidableEq, Repr

def MapEnt.ofBytes (bs : List Byte) : MapEnt :=
  ⟨le bs 0 8, le bs 8 8, byteAt bs 16, byteAt bs 17, byteAt bs 18, byteAt bs 19, le bs 20 8, le bs 28 4⟩

/-- `n` entries from the front of a list of bytes. -/
def mapEnts : Nat → List Byte → List MapEnt
  | 0, _ => []
  | n + 1, bs => MapEnt.ofBytes bs :: mapEnts n (bs.drop 32)

def MapEnt.w (m : MapEnt) : Bool := bit m.perm 0
def MapEnt.pin (m : MapEnt) : Bool := bit m.perm 1
def MapEnt.page (m : MapEnt) : Nat := pageBytes m.size

/-- The region that a FIXED entry names. -/
def MapEnt.regionOf (s : State) (m : MapEnt) : Option Region := s.region m.region

/-- DPA at which page `i` of an entry stands. -/
def MapEnt.frame (s : State) (m : MapEnt) (i : Nat) : Option Nat :=
  if m.kind = 0 then none
  else if m.kind = 1 then
    (m.regionOf s).map (fun g =>
      let x := m.offset + i * m.page
      if g.interleave = 2 then locate g x else g.aperture + x)
  else some (windowBase m.offset + i * m.page)

/-- One entry keeps to Table 11.3, R374 and R375. -/
def MapEnt.ok (s : State) (m : MapEnt) : Bool :=
  decide (m.kind ≤ 2) && decide (m.size ≤ 2) && decide (m.perm < 4) && m.pad = 0
    && m.va % m.page = 0 && m.len % m.page = 0 && decide (m.va + m.len ≤ 2 ^ 48)
    && (if m.kind = 0 then m.size ≠ 2 || m.pin
        else if m.kind = 1 then
          (m.regionOf s).any (fun g => g.access.getLsbD 1 && !g.warden && m.offset % m.page = 0
            && decide (m.offset + m.len ≤ g.size) && !(m.size = 2 && g.interleave = 2 && !g.raw))
          && (List.range (m.len / m.page)).all (fun i => (m.frame s i).any (fun f => f % m.page = 0))
        else m.size = 0 && m.len = 0x100000 && decide (m.offset < 256) && (s.pch m.offset).scan)

/-- Two ranges of virtual addresses share a byte. -/
def vaOverlap (a n b m : Nat) : Bool := decide (a < b + m) && decide (b < a + n) && n ≠ 0 && m ≠ 0

/-- Entries that overlap neither one another nor the pages mapped already. -/
def mapsApart (ps : List Page) : List MapEnt → Bool
  | [] => true
  | m :: t => !t.any (fun k => vaOverlap m.va m.len k.va k.len) && !ps.any (fun p => vaOverlap m.va m.len p.va p.size)
      && mapsApart ps t

/-- PINned bytes of all contexts, 25 % of the frame pool at most (R375). -/
def pinnedBytes (s : State) : Nat :=
  ((contexts s).flatMap (fun c => c.2.pages.map (fun p => if p.kind = 0 && p.pin then p.size else 0))).foldl (· + ·) 0
def pinsFit (s : State) (ms : List MapEnt) : Bool :=
  decide (4 * (pinnedBytes s + ((ms.filter (fun m => m.kind = 0 && m.pin)).map (·.len)).foldl (· + ·) 0) ≤ poolBytes s)

/-- The pages of an entry. -/
def MapEnt.pages (s : State) (m : MapEnt) : List Page :=
  (List.range (m.len / m.page)).map (fun i =>
    { newPage (m.va + i * m.page) m.page m.w m.pin with kind := m.kind, res := m.kind ≠ 0, frame := m.frame s i })

/-- R375's list for `n` entries that a body holds from byte 64 on, beside pages mapped already and `old` entries. -/
def mapsOk (s : State) (ps : List Page) (old n : Nat) (bs : List Byte) : Bool :=
  let ms := mapEnts n (bs.drop 64)
  decide (old + n ≤ 256) && decide (64 + 32 * n ≤ bs.length) && ms.all (MapEnt.ok s) && mapsApart ps ms && pinsFit s ms

/-! ## LAUNCH -/

def lHandle (bs : List Byte) : Nat := le bs 0 4
def lClass (bs : List Byte) : Nat := byteAt bs 4
def lBudget (bs : List Byte) : Nat := le bs 8 4
def lMaps (bs : List Byte) : Nat := le bs 12 2
def lImage (bs : List Byte) : Nat := le bs 16 8
def lLen (bs : List Byte) : Nat := le bs 24 4

/-- The image's pages: PAGED, read-only, from VA 0, resident at first and in need of a write-out before their frames go (log 32). -/
def imagePages (bs : List Byte) : Nat := ceilDiv (lLen bs) frame64k
/-- Its place in the address space, for the overlap that R423 names. -/
def imageSpan (bs : List Byte) : List Page := [newPage 0 (imagePages bs * frame64k) false false]

/-- Contexts of MAINT programs, 96 at most (R370). -/
def maintContexts (s : State) : Nat := ((contexts s).filter (fun c => !c.2.isStage)).length
def launchLimits (s : State) : Option Nat := if 96 ≤ maintContexts s then some stBusy else none

/-- The image's bytes as the MMU copies them. -/
def launchImage (s : State) (bs : List Byte) : State × Option (List Byte) := s.read 2 (lImage bs) (lLen bs) .clean

def launchChecks (s : State) (_ : Cmd) (bs : List Byte) (ok : Bool) : Option Nat :=
  (firstFail [
    (!ok || decide (bs.length < 64), stBadCmd),
    (!zeroAt bs 5 3 || !zeroAt bs 14 2 || !zeroAt bs 28 4, stBadCmd),
    (lClass bs ≠ 2 && lClass bs ≠ 3, stBadCmd),
    (lLen bs % 8 ≠ 0 || decide (16777216 < lLen bs), stBadCmd),
    (!reachable s (lImage bs) (lLen bs), stBadCmd),
    (!mapsOk s (imageSpan bs) 0 (lMaps bs) bs, stBadCmd) ]).orElse (fun _ =>
  match (launchImage s bs).2 with
  | none => some stFault
  | some image =>
    if (approved s (lHandle bs) 4 false).any (fun a => a.meas = Config.shake256 image) then launchLimits s else some stDenied)

/-- The context is created and asks for an engine; its number is the command's result. -/
def runLaunch : MaintRun := fun s c bs =>
  match launchLimits s with
  | some st => some (fail s c st)
  | none =>
    match launchImage s bs with
    | (s, none) => some (fail s c stFault)
    | (s, some image) =>
      match (approved s (lHandle bs) 4 false).filter (fun a => a.meas = Config.shake256 image) with
      | none => some (fail s c stDenied)
      | some a =>
        (pinnedPages frame64k false (imagePages bs) s [] 0 image).map (fun (s, ps) =>
          let n := freeFrom 0 s.eng.ctxs
          let words := (chunksOf 8 (lLen bs / 8) image).map (BitVec.ofNat 64)
          let ps := ps.map (fun p => { p with pin := false, d := true }) ++ (mapEnts (lMaps bs) (bs.drop 64)).flatMap (MapEnt.pages s)
          let x := freshCtx (.maint c.queue) (lClass bs) (progOf a.meas) false words 0 (lBudget bs) ps
          let x := { (List.range 4).foldl (fun (x : Ctx) i => x.setS (i + 1) (BitVec.ofNat 64 (le bs (32 + 8 * i) 8))) x with
            maps := lMaps bs }
          finishD (addWork (s.setCtx n (some x)) x.cls 0 (.context n)) c stOk n 0 [])

/-- 11 R375, 12 R423: MAINT LAUNCH. -/
def execLaunch (q : QueueId) (s : State) : Host.Outcome State Fault Refusal :=
  .next (runMaint s q.val 0x0010 noAuth launchChecks runLaunch)

/-! ## RESUME and KILL (11 R385, R386) -/

def ctxNo (bs : List Byte) : Nat := le bs 0 2

/-- A MAINT context that has trapped. -/
def trappedCtx (s : State) (n : Nat) : Option (Ctx × TrapRec × Nat) :=
  (s.ctx n).bind (fun x => match x.st, x.trapRec, x.owner with
    | .trapped _, some t, .maint q => some (x, t, q)
    | _, _, _ => none)

def resumable (t : TrapRec) : Bool := t.code = fcUnmapped || t.code = fcWriteProtect

def resumeChecks (s : State) (_ : Cmd) (bs : List Byte) (ok : Bool) : Option Nat :=
  firstFail [
    (!ok || decide (bs.length < 64) || !zeroAt bs 4 60, stBadCmd),
    (!(trappedCtx s (ctxNo bs)).any (fun r => resumable r.2.1 && mapsOk s r.1.pages r.1.maps (le bs 2 2) bs), stBadCmd) ]

/-- The context takes its new pages and asks for an engine again. -/
def runResume : MaintRun := fun s c bs =>
  match trappedCtx s (ctxNo bs) with
  | none => some (fail s c stBadCmd)
  | some (x, _, _) =>
    let ps := (mapEnts (le bs 2 2) (bs.drop 64)).flatMap (MapEnt.pages s)
    let y := { x with st := .saved, trapRec := none, pages := x.pages ++ ps, maps := x.maps + le bs 2 2 }
    some (finishD (addWork (s.setCtx (ctxNo bs) (some y)) y.cls 0 (.context (ctxNo bs))) c stOk 0 0 [])

/-- 11 R386: MAINT RESUME. -/
def execResume (q : QueueId) (s : State) : Host.Outcome State Fault Refusal :=
  .next (runMaint s q.val 0x0011 noAuth resumeChecks runResume)

def killChecks (s : State) (_ : Cmd) (bs : List Byte) (ok : Bool) : Option Nat :=
  firstFail [
    (!ok || decide (bs.length < 64) || !zeroAt bs 2 62, stBadCmd),
    ((trappedCtx s (ctxNo bs)).isNone, stBadCmd) ]

def runKill : MaintRun := fun s c bs =>
  match trappedCtx s (ctxNo bs) with
  | none => some (fail s c stBadCmd)
  | some (_, _, q) => some (finishD (endMaint s (ctxNo bs) q 1) c stOk 0 0 [])

/-- 11 R385: MAINT KILL. -/
def execKill (q : QueueId) (s : State) : Host.Outcome State Fault Refusal :=
  .next (runMaint s q.val 0x0012 noAuth killChecks runKill)

/-! ## SAMPLE (07 R252, 12 R423, 13 R466) -/

def sSeed (bs : List Byte) : Nat := le bs 0 8
def sCount (bs : List Byte) : Nat := le bs 8 4
def sCtx (bs : List Byte) : Nat := le bs 12 2
def sVa (bs : List Byte) : Nat := le bs 16 8

/-- Bytes that one record takes. -/
def sampleStride (p : Params) : Nat := 64 * ceilDiv (8 + 2 * p.dim) 64

/-- Pages that map `lo` to `hi - 1` for writing, without a gap. -/
def mappedW (x : Ctx) (hi : Nat) : Nat → Nat → Bool
  | 0, lo => decide (hi ≤ lo)
  | n + 1, lo => decide (hi ≤ lo) || (match x.pageOf lo with
    | none => false
    | some p => p.w && mappedW x hi n (p.va + p.size))

/-- The context that receives the samples: a MAINT program of the command's queue. -/
def sampleCtx (s : State) (c : Cmd) (bs : List Byte) : Option Ctx :=
  (s.ctx (sCtx bs)).filter (fun x => x.owner = .maint c.queue)

def sampleChecks (s : State) (c : Cmd) (bs : List Byte) (ok : Bool) : Option Nat :=
  let p := s.pinAt (sPin bs)
  firstFail ([
    (!mayName s c c.hdrCid || (sUsesPin bs && p.held && !pinOwned c p), stDenied),
    ((collAt s c.hdrCid (if sUsesPin bs && p.held then p.csn else s.csn.current)).isNone, stNoCollection),
    (!ok || decide (bs.length < 64) || byteAt bs 14 / 32 ≠ 0 || byteAt bs 15 ≠ 0 || !zeroAt bs 24 40, stBadCmd),
    (!decide (1 ≤ sCount bs ∧ sCount bs ≤ 16777216), stBadCmd),
    (sUsesPin bs && !p.held, stBadCmd),
    (!(sampleCtx s c bs).any (fun x => sVa bs % 64 = 0
        && mappedW x (sVa bs + sCount bs * (((s.coll c.hdrCid).map (fun k => sampleStride k.params)).getD 0))
            (x.pages.length + 1) (sVa bs)), stBadCmd) ])

/-- The visible copies of a collection at CSN `a`: VID, attribute word, slot address. -/
def visibleRecs (s : State) (cid a : Nat) : List (W64 × W64 × W64) :=
  s.corpus.sides.filterMap (fun e => e.2.bind (fun x =>
    if x.cid.toNat = cid && sideVisible s x a then some (x.vid, x.srec.attr, x.slot) else none))
  ++ s.corpus.blocks.flatMap (fun e => match e.2 with
    | none => []
    | some b => if hCid b.hdr = cid then
        (List.range (hCount b.hdr)).filterMap (fun r =>
          if bankVisible s (keyWeevil e.1) b r a then some (blockVid b r, (rec256 b r).attr, extentSlot s b.extent r) else none)
      else [])

/-- The records that a SAMPLE draws from: those cleared for the queue, or every one under SAMPLE_ALL (13 R466), by VID. -/
def samplePool (s : State) (c : Cmd) (a : Nat) : List (W64 × W64 × W64) :=
  sortBy (fun x y => decide (x.1.toNat < y.1.toNat))
    ((visibleRecs s c.hdrCid a).filter (fun r => policyFlag s 3 || cleared (readClear s c.session) r.2.1))

/-- The records selected: VID, attribute word, slot address. -/
def selected (s : State) (c : Cmd) (a : Nat) (bs : List Byte) : List (W64 × W64 × W64) :=
  let pool := samplePool s c a
  let order := (Config.sampleOrder (BitVec.ofNat 64 (sSeed bs)) a pool.length).filter (fun i => decide (i < pool.length))
  (order.eraseDups.take (sCount bs)).filterMap (fun i => pool[i]?)
def sampledSlots (s : State) (c : Cmd) (a : Nat) (bs : List Byte) : List W64 := (selected s c a bs).map (·.2.2)

/-- Each selected record as it is delivered. -/
def sampled (s : State) (c : Cmd) (p : Params) (a : Nat) (bs : List Byte) : List (List Byte) :=
  (selected s c a bs).filterMap (fun r => (slotKeyed s c.hdrCid r.2.2).map (fun v =>
    padTo (sampleStride p) (leBytes 8 r.1.toNat ++ (expandRefine p v.vector).flatMap (fun x => leBytes 2 x.toNat))))

/-- How far page-ins have come: done, waiting, or lost with a backing copy. -/
inductive Brought where
  | done
  | waits
  | lost
  deriving DecidableEq, Repr

/-- A page whose page-in waits (11 R378, R379): the MMU knows that it is wanted. -/
def wantPage (s : State) (n : Nat) (x : Ctx) (p : Page) : State := s.setCtx n (some (x.setPage p.va (fun p => { p with wanted := true })))

/-- Every page of `vas` becomes resident; it waits where one waits: for a frame, which an event says where none can be evicted (11 R379),
or for its write to complete (R378). -/
def bringIn (n : Nat) : List Nat → State → State × Brought
  | [], s => (s, .done)
  | va :: t, s =>
    match (s.ctx n).bind (fun x => (x.pageOf va).map (fun p => (x, p))) with
    | none => bringIn n t s
    | some (x, p) =>
      if p.here then bringIn n t s
      else if p.writing then (wantPage s n x p, .waits)
      else match p.frame.orElse (fun _ => findFrame s [] p.size) with
        | none =>
          let s := wantPage s n x p
          (if !anyEvictable s then postM s evFrameShort srcMmu noQueue 0 0 0 else s, .waits)
        | some f =>
          let s := readBacking s x.isSealed p
          if backingGone s p then (s, .lost)
          else bringIn n t (mapPage s n (x.setPage p.va (fun p => { p with frame := some f })) p f true)

/-- One record more is written into the context's memory. -/
def putSample (n : Nat) (s : State) (va : Nat) (bs : List Byte) : State :=
  match s.ctx n with
  | none => s
  | some x =>
    let vas := (List.range bs.length).map (fun i => va + i)
    let x := vas.foldl (fun (x : Ctx) a => x.touch a true) x
    writeRuns (s.setCtx n (some x)) (runsOf (vas.filterMap x.dpaOf)) bs

def putSamples (n stride : Nat) : List (List Byte) → Nat → State → State
  | [], _, s => s
  | b :: t, va, s => putSamples n stride t (va + stride) (putSample n s va b)

def runSample : MaintRun := fun s c bs =>
  match s.coll c.hdrCid, sampleCtx s c bs with
  | some k, some _ =>
    let a := c.adm.getD s.csn.current
    let rs := sampled s c k.params a bs
    let stride := sampleStride k.params
    let steps := (List.range (rs.length * stride / frame64k + 2)).map (fun i => sVa bs + min (i * frame64k) (rs.length * stride - 1))
    let (s, how) := bringIn (sCtx bs) steps s
    match how with
    | .waits => some s
    | .lost => some (fail s c stFault)
    | .done =>
      let s := ownRead s ((sampledSlots s c a bs).flatMap (slotFlas s)) c.isSealed
      some (finishD (putSamples (sCtx bs) stride rs (sVa bs) s) c stOk a rs.length [])
  | _, _ => some (fail s c stBadCmd)

/-- 07 R252: MAINT SAMPLE. -/
def execSample (q : QueueId) (s : State) : Host.Outcome State Fault Refusal :=
  .next (runMaint s q.val 0x0004 noAuth sampleChecks runSample)

end Sys2Proof.Machine
end

