-- ==== Sys2Proof/Machine/Maint.lean ====
section
/-! DEFINITION. How maintenance activities and self-tests are started, by MAINT and SELFTEST commands and by hardware (14
R480-R506, 12 R421). -/

namespace Sys2Proof.Machine

/-! ## Activities of MAINT commands -/

/-- A MAINT command's activity asks for its claim; reads through an IEEE 1500 wrapper answer at once, its other classes need the
stack's retirement (R506). -/
def runActivity (s : State) (c : Cmd) (a : Activity) : State :=
  match a with
  | .ieee1500 st chan name cls data =>
    if cls = 0 then finishD s c stOk 0 0 ((Config.wrapperOut st chan name data).take c.rlen)
    else if (s.ctl st).retired then askFor s c a
    else fail { s with maint.refused := satAdd 16 s.maint.refused 1 } c stBusy
  | _ => askFor s c a

/-- A subop whose operands stand in the row; `shaped`: they are in range, and the body has the length that the subop requires (12
R423). -/
def activityMaint (s : State) (q : QueueId) (sub : Nat) (authAt : List Byte → Option Nat) (shaped : List Byte → Bool)
    (a : Activity) : State :=
  match maintCmd s q.val sub with
  | none => s
  | some c =>
    runMaint (s.setCmd { c with job := .act a }) q.val sub authAt (fun _ _ bs ok => if ok && shaped bs then none else some stBadCmd)
      (fun s c _ => some (runActivity s c a))

/-- A subop for which no rule lays out a body requires DLEN 0 (12 R423, log 104). -/
def simpleMaint (s : State) (q : QueueId) (sub : Nat) (a : Activity) : State := activityMaint s q sub noAuth List.isEmpty a

/-! ## UPDATE and REFETCH (R488-R496) -/

/-- An image passes the warden's check (13 R448, R449). -/
def imageOk (s : State) (part : Nat) (image : List Byte) : Bool :=
  Config.vendorSigned image && decide (svnFloor s part ≤ Config.imageSvn image)

def uPart (bs : List Byte) : Nat := byteAt bs 0
def uOne (bs : List Byte) : Bool := bit (byteAt bs 1) 0
def uUnit (bs : List Byte) : Nat := le bs 2 2
def uImage (bs : List Byte) : List Byte := (bs.drop 8).take (le bs 4 4)

/-- The units that an UPDATE names, in ascending order. -/
def namedUnits (part : Nat) (one : Bool) (unit : Nat) : List Nat := if one then [unit] else unitsOf part

/-- The parameters of an update name a part and a unit of it. -/
def unitsNamed (part : Nat) (one : Bool) (unit : Nat) : Bool :=
  decide (1 ≤ part ∧ part ≤ 8) && (!one || part = 8 || (unitsOf part).contains unit)

def updateChecks (s : State) (_ : Cmd) (bs : List Byte) (ok : Bool) : Option Nat :=
  firstFail [
    (!ok || decide (bs.length < 8) || decide (bs.length < 8 + le bs 4 4) || decide (1 < byteAt bs 1), stBadCmd),
    (!unitsNamed (uPart bs) (uOne bs) (uUnit bs), stBadCmd),
    (!imageOk s (uPart bs) (uImage bs), stDenied) ]

/-- The incoming image is written to the store beside those it holds (R488, R489); core boot firmware is current and measured at
once. -/
def storeImage (s : State) (part : Nat) (image : List Byte) : State :=
  let s := { s with warden.digests := s.warden.digests ++ [Config.shake256 image] }
  if part = 8 then measureUnit { s with flash.images := Tab.set [] s.flash.images 8 image } 8 0 image
  else
    let held := Tab.get [] s.flash.incoming part
    if held.contains image || imageOf s part = image then s
    else { s with flash.incoming := Tab.set [] s.flash.incoming part (held ++ [image]) }

def runUpdate : MaintRun := fun s c bs =>
  let image := uImage bs
  let s := storeImage s (uPart bs) image
  match namedUnits (uPart bs) (uOne bs) (uUnit bs) with
  | [] => some (finishD s c stOk (Config.imageVersion image).toNat 0 [])
  | u :: us =>
    if uPart bs = 8 then some (finishD s c stOk (Config.imageVersion image).toNat 0 [])
    else some (settleImages (askFor s c (.update (uPart bs) u us image 0)) (uPart bs))

/-- 14 R491: MAINT UPDATE. -/
def execUpdate (q : QueueId) (s : State) : Host.Outcome State Fault Refusal :=
  .next (runMaint s q.val 0x0100 noAuth updateChecks runUpdate)

/-- A unit stands still for want of a good image, so that hardware re-fetches it (R490). A warden in ROM takes an image over the
management port alone (13 R448). -/
def needsRefetch (s : State) (part unit : Nat) : Bool :=
  match part with
  | 1 => (s.engine unit).permanent
  | 2 => (s.weevil unit).passThrough && !(s.pch unit).retired && !(s.ctl (unit / 32)).retired
  | 3 => (s.channel unit).state = 1 && !(allClaims s).any (fun c => c.2.act.resource = some (3, unit))
  | 4 => false
  | p => s.mod.stoppedUnits.contains (stoppedId p unit)

/-- 14 R490: REFETCH. -/
def execRefetch (src : Src) (part : Fin 9) (unit : Nat) (s : State) : Host.Outcome State Fault Refusal :=
  let known := (unitsOf part.val).contains unit || (part.val = 8 && unit = 0)
  .next (match src with
    | .auto => if known && needsRefetch s part.val unit then askAuto s (.refetch part.val unit) else s
    | .maint q => activityMaint s q 0x0101 noAuth (fun bs => bs.isEmpty && known) (.refetch part.val unit))

/-! ## Bypass and repairs (R480, R497-R500) -/

/-- 06 R203: a maintenance bypass of one Borer and its channel. -/
def execBypass (q : QueueId) (ch : ChannelId) (s : State) : Host.Outcome State Fault Refusal :=
  .next (simpleMaint s q 0x0102 (.bypass ch.val))

/-- 14 R497: a failing row whose chain can grow asks for its remap. -/
def execRowRemap (st : StackId) (p : PcId) (bank : Fin 48) (row : Nat) (s : State) : Host.Outcome State Fault Refusal :=
  .next (if decide (row < 24576) && canRemap s (bankKey st.val p.val bank.val) row then
      askAuto s (.rowRemap st.val p.val bank.val row)
    else s)

/-- 14 R498: a row that fails at depth 2, or with no spare left, is retired. -/
def execRowRetire (st : StackId) (p : PcId) (bank : Fin 48) (row : Nat) (s : State) : Host.Outcome State Fault Refusal :=
  .next (if decide (row < 24576) && !canRemap s (bankKey st.val p.val bank.val) row then
      askAuto s (.rowRetire st.val p.val bank.val row)
    else s)

/-- 10 R335: a failing lane is remapped; with no spare left on its channel the stack is retired (14 R502). -/
def execLaneRemap (st : StackId) (chan : Fin 16) (s : State) : Host.Outcome State Fault Refusal :=
  let asked := ((allClaims s).filter (fun e => e.2.act = .laneRemap st.val chan.val)).length
  .next (if Tab.get 0 (s.ctl st.val).lanes chan.val + asked < 2 then askAuto s (.laneRemap st.val chan.val)
    else askAuto s (.stackRetire st.val))

/-- 14 R500: a flash block, or a whole package, is retired. -/
def execFlashRetire (ch : ChannelId) (block : Nat) (package : Option (Fin 4)) (s : State) : Host.Outcome State Fault Refusal :=
  .next (if (s.channel ch.val).state = 2 then s else askAuto s (.flashRetire ch.val block (package.map (·.val))))

/-! ## Retirement (R501, R502, 06 R204) -/

/-- What retires a pseudo-channel by itself (R499, R501); a failed SELFTEST does so at its end. -/
def pcFailing (s : State) (p : Nat) : Bool :=
  decide (8 < ((s.pch p).badRows.filter (fun e => decide (s.secs - e.2 < 86400))).length) || decide (256 < (s.pch p).retiredRows)

/-- 14 R501: PC_RETIRE. -/
def execPcRetire (src : Src) (p : PchId) (s : State) : Host.Outcome State Fault Refusal :=
  .next (match src with
    | .auto => if pcFailing s p.val && !(s.pch p.val).retired then askAuto s (.pcRetire p.val) else s
    | .maint q => simpleMaint s q 0x0120 (.pcRetire p.val))

/-- 14 R502: STACK_RETIRE. -/
def execStackRetire (src : Src) (st : StackId) (s : State) : Host.Outcome State Fault Refusal :=
  .next (match src with
    | .auto => if decide (1024 < stackRetiredRows s st.val) && !(s.ctl st.val).retired then askAuto s (.stackRetire st.val) else s
    | .maint q => simpleMaint s q 0x0121 (.stackRetire st.val))

/-- 06 R204: the rows of a failed channel are rewritten. -/
def execChannelRewrite (ch : ChannelId) (s : State) : Host.Outcome State Fault Refusal :=
  .next (if (s.channel ch.val).state = 2 then askAuto s (.channelRewrite ch.val) else s)

/-! ## Tests (12 R421, 15 R526) -/

/-- 15 R526: HOLDUP_TEST; hardware tests the section that is due, once the bank is charged. -/
def execHoldupTest (src : Src) (n : Fin 6) (s : State) : Host.Outcome State Fault Refusal :=
  .next (match src with
    | .auto => if s.hold.charged && dueSection s = some n.val then askAuto s (.holdupTest n.val) else s
    | .maint q => simpleMaint s q 0x0130 (.holdupTest n.val))

/-- Indices of a self-test's target (12 Table 12.8). -/
def testTargets : Nat → Nat
  | 0 => 256
  | 1 => 32
  | 2 => 1
  | 3 => 48
  | 4 => 12
  | _ => 0

/-- A SELFTEST that passed its checks takes its T claim. -/
def admitSelftest (s : State) (c : Cmd) : State :=
  askFor s c (.selftest (byteAt c.bytes 16) (le c.bytes 17 2) (c.cflag 0))

/-- 12 R421: SELFTEST. -/
def execSelftest (q : QueueId) (s : State) : Host.Outcome State Fault Refusal :=
  .next (match oldest s q.val (fun c => c.opcode = opSelftest) with
    | none => s
    | some c =>
      if !stepOne c then fail s c stBadCmd
      else if testTargets (byteAt c.bytes 16) ≤ le c.bytes 17 2 then fail s c stBadCmd
      else if admissionStopped s then holdForRun s c else admitSelftest s c)

/-! ## IEEE 1500 (R506) -/

/-- Where the owner's authorisation of a fuse instruction stands in the body: 48 bytes and a signature at its end. -/
def authStart (bs : List Byte) : Nat :=
  ((List.range bs.length).find? (fun n => decide (n + 48 ≤ bs.length) && le bs n 4 = 0x48545541
    && n + 48 + le bs (n + 4) 4 = bs.length)).getD bs.length

/-- 14 R506: an IEEE 1500 wrapper instruction. Its body holds
at least its data (log 104). -/
def execIeee1500 (q : QueueId) (st : StackId) (chan : Fin 16) (i : Wrapper) (data : List Byte) (s : State) :
    Host.Outcome State Fault Refusal :=
  .next (activityMaint s q 0x0140 (fun bs => if i.cls.val = 2 then some (authStart bs) else none) (fun bs => decide (data.length ≤ 512)
      && decide (max 1 data.length ≤ bs.length))
    (.ieee1500 st.val chan.val i.name i.cls.val data))

/-! ## A stack that stops answering (R503) -/

/-- A slot is treated as having left a Weevil, with every block that it needs there owed. -/
def leaveOwing (s : State) (w n : Nat) : State :=
  match (s.slot n).ctx with
  | none => s
  | some x =>
    let owed := ((ring s w).filter (fun b => needsBlock s w x b.2)).map (·.1)
    leaveWeevil (s.modWeevil w (fun v => { v with
      wslots := Tab.mod WSlot.free v.wslots n (fun ws => owed.foldl WSlot.owe ws) })) w n

/-- 14 R503: a stack stops answering: every active slot leaves its Weevils owing, or service stops for a plain stack. -/
def execStackStopsAnswering (st : StackId) (s : State) : Host.Outcome State Fault Refusal :=
  let t := s.modCtl st.val (fun x => { x with answering := false })
  .next (if (s.ctl st.val).retired then s
    else if 8 ≤ st.val then { t with hbm.serviceStopped := true, mod.accepting := false }
    else (List.range 32).foldl (fun s p =>
      let w := 32 * st.val + p
      ((slotsIn (s.weevil w).wslots 1) ++ (slotsIn (s.weevil w).wslots 2)).foldl (fun s n => leaveOwing s w n) s) t)

end Sys2Proof.Machine
end

