-- ==== Sys2Proof/Machine/Warden.lean ====
section
/-! DEFINITION. The warden's mailbox (13 R440-R446, R451-R458, R474-R477, 14 R509): requests, policy, sessions, debug unlock and
tamper responses. -/

namespace Sys2Proof.Machine

/-! ## The mailbox (R441, R442) -/

/-- Request types of Table 13.2. -/
def mbTypes : List Nat := [0x01, 0x02, 0x03, 0x04, 0x10, 0x11, 0x12, 0x14, 0x20, 0x30, 0x31, 0x40]

/-- Bodies that a half of the buffer holds. -/
def mbMax : Nat := 131056

def evDebugOn : Nat := 0x0402
def evDebugOff : Nat := 0x0403
def evTamper : Nat := 0x0404

/-- A request is in hand; one of no known type, or longer than a half, is BAD_CMD at once, or as a hand-over that runs has ended. -/
def takeRequest (s : State) (r : Request) (len : Nat) : State :=
  let bad := if !mbTypes.contains r.type || decide (mbMax < len) then some stBadCmd else none
  if s.mod.pwrgd then answerBad { s with warden.request := some { r with bad := r.bad.orElse (fun _ => bad) } } else s

/-- The buffer lies in one PROT region that admits classes 0 and 8 (R441). -/
def bufferOk (s : State) (base : Nat) : Bool :=
  (regionOf s base).any (fun e => !e.1.raw && e.1.admits 0 && e.1.admits 8 && decide (e.2 + 262144 ≤ e.1.size))

/-- GO is written 1: no effect while BUSY or in ROM; a buffer that is none of R441's, or that the warden cannot read, is FAULT
(log 105). -/
def mailboxGo (s : State) : State :=
  let base := s.warden.buf.toNat * 262144
  let none' (s : State) : State := takeRequest s ⟨0, 0, [], some s.warden.buf, some stFault⟩ 0
  if s.warden.request.isSome || s.warden.romOnly then s
  else if !bufferOk s base then none' s
  else match s.read 8 base 131072 .clean with
    | (s, none) => none' s
    | (s, some bs) =>
      let n := le bs 4 4
      takeRequest s ⟨le bs 0 4, BitVec.ofNat 64 (le bs 8 8), (bs.drop 16).take n, some s.warden.buf, none⟩ n

/-- What a request comes to: none while it has to wait. -/
abbrev MbRun := State → List Byte → Option (State × Nat × List Byte)

def mbOk (s : State) (body : List Byte) : Option (State × Nat × List Byte) := some (s, stOk, body)
def mbNo (s : State) (result : Nat) : Option (State × Nat × List Byte) := some (s, result, [])

/-- The request in hand, if it is of a type, is handled; while a Syeno hand-over runs it waits (R442). -/
def runRequest (s : State) (type : Nat) (run : MbRun) : State :=
  match s.warden.request with
  | none => s
  | some r =>
    if r.type ≠ type || s.warden.handover || r.bad.isSome then s
    else match run s r.body with
      | none => s
      | some (s, result, body) => reply s result body

/-- An accepted request is logged with the digest of its body (R442). -/
def logged (s : State) (type : Nat) (body : List Byte) : State := addAudit s type (Config.shake256 body)

/-! ## Identity, attestation, challenges, audit (R451-R453) -/

def modId : Nat := 0x4812 + field (if Config.isF48 then 2 else 1) 16 8 + field Config.step.toNat 24 8

/-- 13 R451: GET_IDENTITY. -/
def execGetIdentity (s : State) : Host.Outcome State Fault Refusal :=
  .next (runRequest s 0x01 (fun s b =>
    if b.isEmpty then mbOk s (idKey ++ leBytes 8 modId ++ Config.identityCert) else mbNo s stBadCmd))

/-- The next signature index; before the first unreserved one is used, a reservation is written (R453). -/
def takeIndex (s : State) : Nat × State :=
  let w := s.warden
  (w.sigNext, { s with warden.sigNext := w.sigNext + 1,
                       warden.sigEnd := if w.sigNext = w.sigEnd then w.sigEnd + 1048576 else w.sigEnd })

def reportFlags (s : State) : Nat :=
  b2n s.warden.owner.isSome + 2 * b2n s.warden.debugOpen + 4 * b2n s.warden.debugSinceBoot + 8 * b2n s.warden.tamperSinceBoot
    + 16 * b2n (policyFlag s 1) + 32 * b2n (policyFlag s 2)

/-- The encapsulation key of this boot. -/
def bootKey (s : State) : List Byte := padTo 1568 (Config.kemKey s.warden.kem)

/-- Bytes 0-2,239 of the report (Table 13.7). -/
def reportBody (s : State) (nonce : List Byte) (index : Nat) : List Byte :=
  let w := (wallNow s).getD (2 ^ 64 - 1, 2 ^ 32 - 1)
  leBytes 4 0x5441504B ++ leBytes 4 1 ++ leBytes 8 moduleIdent ++ nonce ++ leBytes 8 s.life.boot ++ leBytes 8 index
    ++ leBytes 8 s.csn.current ++ leBytes 8 w.1 ++ leBytes 4 w.2 ++ leBytes 4 (reportFlags s)
    ++ leBytes 4 ((s.warden.policy.map (·.version)).getD 0) ++ leBytes 4 modId
    ++ (List.range 16).flatMap (fun i => leBytes 32 (mrAt s i).toNat)
    ++ leBytes 32 ((s.warden.owner.map (fun k => (Config.shake256 k).toNat)).getD 0)
    ++ leBytes 32 s.warden.auditHead.toNat ++ bootKey s

/-- 13 R451, R453: ATTEST; after a level 3 tamper response there is no identity seed left to sign with (R477). -/
def execAttest (s : State) : Host.Outcome State Fault Refusal :=
  .next (runRequest s 0x02 (fun s b =>
    if b.length ≠ 32 then mbNo s stBadCmd
    else if s.warden.erased then mbNo s stFault
    else
      let (i, s) := takeIndex s
      let r := reportBody s b i
      mbOk s (r ++ padTo 5605 (Config.xmssSign (padTo 96 s.warden.idSeed) i r))))

/-- 13 R442: CHALLENGE. -/
def execChallenge (s : State) : Host.Outcome State Fault Refusal :=
  .next (runRequest s 0x03 (fun s b =>
    if !b.isEmpty then mbNo s stBadCmd
    else
      let (c, s) := drbg32 s
      mbOk { s with warden.challenges := s.warden.challenges ++ [(BitVec.ofNat 256 (ofLe c), s.secs)] } c))

/-- 13 R442: AUDIT_READ. -/
def execAuditRead (s : State) : Host.Outcome State Fault Refusal :=
  .next (runRequest s 0x04 (fun s b =>
    if b.length ≠ 8 then mbNo s stBadCmd
    else mbOk s (((s.warden.audit.filter (fun e => decide (ofLe b ≤ e.seq))).take 1024).flatMap AuditEnt.bytes)))

/-- 13 R450: EXTEND, of MR10-MR13. -/
def execExtend (s : State) : Host.Outcome State Fault Refusal :=
  .next (runRequest s 0x40 (fun s b =>
    let i := le b 0 4
    if b.length ≠ 36 ∨ i < 10 ∨ 13 < i then mbNo s stBadCmd
    else
      let s := extendMr s i (BitVec.ofNat 256 (le b 4 32))
      mbOk (logged s 0x40 b) (leBytes 32 (mrAt s i).toNat)))

/-! ## Sessions that the warden ends (R458) -/

/-- The warden writes ENABLE 0 for a queue; the drain ends at once where no command is in flight. -/
def disableQueue (s : State) (q : Nat) : State :=
  let x := s.queue q
  if !x.enable then s
  else
    let s := s.modQueue q (fun y => { y with draining := true, reEnable := false })
    if x.tags = 0 then endDrain s q else s

/-- The session of key-table entry `n` is ended for a reason of Table 13.16. -/
def disableSealed (s : State) (n reason : Nat) : State :=
  match s.session n with
  | none => s
  | some k =>
    let s := s.setSession n (some { k with ending := some (k.ending.getD reason) })
    if (s.queue k.queue).enable then disableQueue s k.queue else endSession s k.queue

/-- Key-table entries in use. -/
def sessions (s : State) : List (Nat × Session) := s.warden.keys.filterMap (fun e => e.2.map (fun k => (e.1, k)))

/-- Every session is ended that a test names. -/
def endSessions (s : State) (reason : Nat) (p : Session → Bool) : State :=
  (sessions s).foldl (fun s e => if p e.2 then disableSealed s e.1 reason else s) s

/-- 13 R458: a grant's time is over: w + u exceeds NOT_AFTER. -/
def execGrantExpiry (k : Fin 4095) (s : State) : Host.Outcome State Fault Refusal :=
  .next (match s.session k.val, wallNow s with
    | some x, some (w, u) =>
      if decide (x.notAfter ≠ 2 ^ 64 - 1 ∧ x.notAfter < w + u) && x.ending.isNone then disableSealed s k.val 2 else s
    | _, _ => s)

/-! ## Ownership (R443, R444) -/

/-- 13 R443: CLAIM, on a module with no owner. The challenge it is made against is used up whatever becomes of it (R442). -/
def runClaim : MbRun := fun s b =>
  let key := b.take 68
  if b.length < 68 then mbNo s stBadCmd
  else match Config.claimTicket (b.drop 68) with
    | none => mbNo s stDenied
    | some (ident, digest, sig) =>
      match usesChallenge s key [] sig with
      | none => mbNo s stDenied
      | some c =>
        let s := dropChallenge s c
        if s.warden.owner.isSome || s.warden.erased || ident.toNat ≠ moduleIdent || digest ≠ Config.shake256 key then mbNo s stDenied
        else
          let (salt, s) := drbg32 s
          mbOk (logged { s with warden.owner := some key, warden.ownerEpoch := 1, warden.salt := ofLe salt } 0x10 b) []

def execClaim (s : State) : Host.Outcome State Fault Refusal := .next (runRequest s 0x10 runClaim)

/-- Every sealed collection is destroyed, each under a CSN (02 R27); none while a CSN or a commit-table entry is short. -/
def destroySealed (s : State) : List Nat → Option State
  | [] => some s
  | cid :: cids => (changeRef s).bind (fun ref => destroySealed (destroyColl s cid ref).2 cids)

/-- Live sealed collections. -/
def sealedCids (s : State) : List Nat :=
  s.corpus.colls.filterMap (fun e => if e.2.any (fun c => c.sealed && c.destroyed.isNone) then some e.1 else none)

/-- 13 R444: TRANSFER. -/
def runTransfer : MbRun := fun s b =>
  let key := b.take 68
  if b.length < 68 then mbNo s stBadCmd
  else match s.warden.owner with
    | none => mbNo s stDenied
    | some k => match usesChallenge s k [] (b.drop 68) with
      | none => mbNo s stDenied
      | some c =>
        (destroySealed s (sealedCids s)).map (fun s =>
          let (salt, s) := drbg32 (dropChallenge s c)
          let s := { s with warden.owner := some key, warden.ownerEpoch := s.warden.ownerEpoch + 1, warden.salt := ofLe salt,
                            warden.policy := none, warden.nextPolicy := none }
          (logged (endSessions s 1 (fun _ => true)) 0x11 b, stOk, []))

def execTransfer (s : State) : Host.Outcome State Fault Refusal := .next (runRequest s 0x11 runTransfer)

/-! ## Policy (R445, R446) -/

def pNrev (b : List Byte) : Nat := le b 1064 2
def pNapp (b : List Byte) : Nat := le b 1066 2
def pNreg (b : List Byte) : Nat := le b 1068 2
def pNlock (b : List Byte) : Nat := le b 1070 2
def pEnd (b : List Byte) : Nat := 1072 + 8 * pNrev b + 40 * pNapp b + 32 * pNreg b + 24 * pNlock b

/-- Items of `k` bytes, `n` of them from byte `o` on. -/
def items (b : List Byte) (o k n : Nat) : List (List Byte) := (List.range n).map (fun i => (b.drop (o + k * i)).take k)

def approvalOf (x : List Byte) : Approval :=
  ⟨BitVec.ofNat 256 (le x 0 32), BitVec.ofNat 32 (le x 32 4), byteAt x 36, bit (byteAt x 37) 0⟩
def lockOf (x : List Byte) : Lock := ⟨le x 0 8 % 2 ^ 49, BitVec.ofNat 64 (le x 8 8), BitVec.ofNat 64 (le x 16 8)⟩

/-- The policy of a block (Table 13.3). -/
def policyOf (b : List Byte) : Policy :=
  let o1 := 1072 + 8 * pNrev b
  let o2 := o1 + 40 * pNapp b
  let o3 := o2 + 32 * pNreg b
  { version := le b 4 4, flags := BitVec.ofNat 32 (le b 16 4), epoch := le b 20 4, svn := chunksOf 2 8 (b.drop 24),
    osRead := BitVec.ofNat 4096 (le b 40 512), osWrite := BitVec.ofNat 4096 (le b 552 512),
    revoked := (items b 1072 8 (pNrev b)).map (fun x => BitVec.ofNat 64 (ofLe x)),
    approvals := (items b o1 40 (pNapp b)).map approvalOf,
    regions := (items b o2 32 (pNreg b)).filterMap Region.ofBytes,
    locks := (items b o3 24 (pNlock b)).map lockOf,
    digest := Config.shake256 b }

/-- Handles are not zero and stand once. -/
def handlesOk : List Approval → Bool
  | [] => true
  | a :: t => decide (a.handle ≠ 0) && !(t.any (fun x => x.handle = a.handle)) && handlesOk t

/-- The block's form: magic, counts within their limits, every field within its range. -/
def policyFormed (b : List Byte) : Bool :=
  decide (1072 ≤ b.length) && le b 0 4 = 0x4C4F504B && decide (pNrev b ≤ 1024 ∧ pNapp b ≤ 1024 ∧ pNreg b ≤ 256 ∧ pNlock b ≤ 512)
    && decide (pEnd b ≤ b.length) && decide (bits (le b 16 4) 8 4 ≤ 8) && handlesOk (policyOf b).approvals

/-- The policy is the owner's, for this module, and newer than the one in force. -/
def policyAuthentic (s : State) (b : List Byte) : Bool :=
  ownerSigned s (b.take (pEnd b)) (b.drop (pEnd b)) && decide ((s.warden.policy.map (·.version)).getD 0 < le b 4 4)
    && (le b 8 8 = 0 || le b 8 8 = moduleIdent)

/-- A grant is no longer good under a policy. -/
def grantRevoked (p : Policy) (k : Session) : Bool := p.revoked.contains k.grantId || decide (k.epoch < p.epoch)

/-- What takes effect at once and what at the next boot (R446). -/
def acceptPolicy (s : State) (p : Policy) : State :=
  let now := { p with svn := (s.warden.policy.map (·.svn)).getD [], regions := (s.warden.policy.map (·.regions)).getD [] }
  endSessions (applyLocks { s with warden.policy := some now, warden.nextPolicy := some p } p.locks) 1 (grantRevoked p)

/-- 13 R445: POLICY. -/
def runPolicy : MbRun := fun s b =>
  if !policyFormed b then mbNo s stBadCmd
  else if !policyAuthentic s b then mbNo s stDenied
  else if !regionsOk s (policyOf b).regions then mbNo s stBadCmd
  else mbOk (logged (acceptPolicy s (policyOf b)) 0x12 b) []

def execPolicy (s : State) : Host.Outcome State Fault Refusal := .next (runRequest s 0x12 runPolicy)

/-! ## The calendar (14 R509) -/

def evTimeSet : Nat := 0x0120

/-- 14 R509: TIME. -/
def runTime : MbRun := fun s b =>
  if decide (64 ≤ b.length) && le b 0 4 = 0x454D4954 && zeroAt b 36 28
      && ownerSigned s (b.take 64) (b.drop 64) && le b 16 8 = s.life.boot && (le b 8 8 = 0 || le b 8 8 = moduleIdent)
      && s.warden.tseq.all (fun t => decide (t < le b 4 4)) then
    let s := logged s 0x14 b
    let s := { s with warden.calendar := some ⟨le b 24 8, le b 32 4, s.secs⟩, warden.tseq := some (le b 4 4) }
    mbOk (postM s evTimeSet srcWarden noQueue (le b 24 8) (le b 32 4) 0) []
  else mbNo s stDenied

def execTime (s : State) : Host.Outcome State Fault Refusal := .next (runRequest s 0x14 runTime)

/-! ## Sessions (R454-R457) -/

/-- A debug unlock has begun and not yet opened DEBUG. -/
def unlocking (s : State) : Bool := s.warden.lease ≠ 0 && !s.warden.debugOpen

/-- The wall clock admits a grant (R454). -/
def grantTime (s : State) (g : List Byte) : Bool :=
  let na := le g 64 8
  match wallNow s with
  | none => na = 2 ^ 64 - 1
  | some (w, u) => decide (le g 56 8 + u ≤ w) && (na = 2 ^ 64 - 1 || decide (w + u ≤ na))

/-- A grant passes R454: `g` is the grant with its signature. -/
def grantOk (s : State) (g : List Byte) : Bool :=
  decide (1136 ≤ g.length) && le g 0 4 = 0x5452474B && ownerSigned s (g.take 1136) (g.drop 1136)
    && decide ((s.warden.policy.map (·.epoch)).getD 0 ≤ le g 4 4)
    && !((s.warden.policy.map (·.revoked)).getD []).contains (BitVec.ofNat 64 (le g 8 8))
    && (le g 16 8 = 0 || le g 16 8 = moduleIdent) && decide (le g 76 4 ≤ 16) && grantTime s g

/-- A SESSION_OPEN body: CT, QUEUE and BOX; none where its length is wrong. -/
def openParts (b : List Byte) : Option (List Byte × Nat × List Byte) :=
  if 1590 ≤ b.length ∧ b.length = 1574 + le b 1570 4 ∧ le b 1568 2 < 1024 then some (b.take 1568, le b 1568 2, b.drop 1574)
  else none

/-- The opened BOX: grant, client key, client nonce, client signature. -/
def boxParts (p : List Byte) : Option (List Byte × List Byte × List Byte × List Byte) :=
  let n := p.length - (2592 + 32 + 4627)
  if 2592 + 32 + 4627 + 1136 ≤ p.length then
    some (p.take n, (p.drop n).take 2592, (p.drop (n + 2592)).take 32, p.drop (n + 2624))
  else none

/-- Steps 2 to 4 of R455 on an opened BOX. -/
def openSession (s : State) (ct : List Byte) (q : Nat) (ss g key nonce sig : List Byte) : Option (State × Nat × List Byte) :=
  if !grantOk s g || leBytes 32 (Config.shake256 key).toNat ≠ (g.drop 24).take 32
      || !Config.mlDsaVerify key (ct ++ leBytes 2 q ++ g ++ key ++ nonce) sig then mbNo s stDenied
  else
    let n := freeFrom 0 s.warden.keys
    if (s.queue q).enable || (s.queue q).session ≠ 0xFFF#12 || decide (4095 ≤ n) then mbNo s stBusy
    else
      let (mnonce, s) := drbg32 s
      let x := leBytes 32 (Config.shake256 (bootKey s ++ ct ++ leBytes 2 q ++ g ++ key ++ nonce ++ mnonce)).toNat
      let ks := padTo 128 (Config.kmac256 ss (ascii "TUORA-SESSION") x 128)
      let k : Session :=
        { queue := q, keyIn := ks.take 32, keyOut := (ks.drop 32).take 32, confKey := (ks.drop 64).take 32,
          sid := (ks.drop 96).take 32, flags := BitVec.ofNat 32 (le g 72 4),
          cids := (chunksOf 2 (le g 76 4) (g.drop 80)).map (BitVec.ofNat 16), read := BitVec.ofNat 4096 (le g 112 512),
          write := BitVec.ofNat 4096 (le g 624 512), grantId := BitVec.ofNat 64 (le g 8 8), epoch := le g 4 4,
          notAfter := le g 64 8, seqIn := 0, seqOut := 0, ending := none }
      let s := (s.setSession n (some k)).modQueue q (fun y => { y with session := BitVec.ofNat 12 n })
      mbOk s (leBytes 2 n ++ leBytes 2 q ++ mnonce ++ padTo 32 (Config.kmac256 ((ks.drop 64).take 32) (ascii "CONFIRM") x 32))

/-- 13 R455: SESSION_OPEN. -/
def runSessionOpen : MbRun := fun s b =>
  match openParts b with
  | none => mbNo s stBadCmd
  | some (ct, q, box) =>
    if s.warden.debugOpen || unlocking s then mbNo s stBusy
    else
      let ss := Config.kemDecaps s.warden.kem ct
      match (Config.gcmOpen (padTo 32 (Config.kmac256 ss (ascii "OPEN") [] 32)) (zeros 12) [] box).bind boxParts with
      | none => mbNo s stDenied
      | some (g, key, nonce, sig) => openSession s ct q ss g key nonce sig

def execSessionOpen (s : State) : Host.Outcome State Fault Refusal := .next (runRequest s 0x20 runSessionOpen)

/-! ## Debug (R474-R476) and the scrub of sealed data (Table 13.13) -/

/-- Change every sealed collection. -/
def mapSealed (s : State) (f : Nat → Coll → Coll) : State :=
  { s with corpus.colls := s.corpus.colls.map (fun e => (e.1, e.2.map (fun x => if x.sealed then f e.1 x else x))) }

/-- Step 3: the key slots of sealed collections are cleared; what the HBM journal still holds is programmed before. -/
def clearKeys (s : State) : State :=
  let s := if s.flash.tail.isEmpty then s else programTail s
  mapSealed s (fun _ c => { c with keyed := false, key := [] })

/-- Step 4: sealed collections are unsearchable; their blocks, side entries and every WARDEN region are zero. Chunks and header
indices stay theirs. -/
def scrubSealed (s : State) : State :=
  let s := mapSealed s (fun _ c => { c with searchable := false })
  let mine (cid : Nat) : Bool := isSealedCid s cid
  let inWarden (a : Nat) : Bool := wardenPlace s a
  { s with
    corpus.blocks := s.corpus.blocks.filter (fun e => !e.2.any (fun b => mine (hCid b.hdr)))
    corpus.sides := s.corpus.sides.filter (fun e => !e.2.any (fun x => mine x.cid.toNat))
    hbm.mem := s.hbm.mem.filter (fun c => !inWarden c.1)
    hbm.poisoned := s.hbm.poisoned.filter (fun x => !inWarden (32 * x))
    hbm.tags := s.hbm.tags.filter (fun e => !inWarden (32 * e.1)) }

/-- Step 5: saved sealed contexts are discarded. -/
def dropSealedCtxs (s : State) : State :=
  (contexts s).foldl (fun s c => if c.2.isSealed then endContext s c.1 else s) s

/-- Sealed collections are keyed again (R471) and stand in the allocator's map; each is searchable once reloaded (R476). -/
def restoreSealed (s : State) : State :=
  if s.warden.sealedOff || s.warden.erased then s
  else
    let back := s.corpus.colls.filterMap (fun e => e.2.bind (fun c => if c.keyed then none else some (e.1, c)))
    let mine (cid : Nat) : Bool := back.any (fun e => e.1 = cid)
    let t := mapSealed s (fun cid c => { c with keyed := true, key := collKey s cid c.createCsn true })
    let order := sortBy (fun (a b : Nat × Coll) => decide (b.2.priority < a.2.priority)) (back.filter (fun e => e.2.destroyed.isNone))
    { t with
      corpus.blocks := mergeTab none t.corpus.blocks (s.flash.map.blocks.filter (fun e => e.2.any (fun b => mine (hCid b.hdr))))
      corpus.sides := mergeTab none t.corpus.sides (s.flash.map.sides.filter (fun e => e.2.any (fun x => mine x.cid.toNat)))
      mod.reload := t.mod.reload ++ order.map (fun e => BitVec.ofNat 16 e.1) }

/-- MR15 takes an unlock, or its end; no rule gives the digest (log 21). -/
def extend15 (s : State) : State :=
  let (d, s) := s.draw
  extendMr s 15 (BitVec.ofNat 256 d)

/-- Step 6: DEBUG opens for the lease. -/
def openDebug (s : State) (secs : Nat) : State :=
  let s := extend15 { s with warden.debugOpen := true, warden.scrub := false, warden.lease := s.secs + secs,
                             warden.debugSinceBoot := true }
  postM s evDebugOn srcWarden noQueue secs 0 0

/-- 13 R474: DEBUG_UNLOCK: its checks and step 1; then, once the sealed queues have drained, steps 3 to 5 and step 6. -/
def runDebugUnlock : MbRun := fun s b =>
  let secs := le b 0 4
  if b.length < 4 ∨ secs < 1 ∨ 86400 < secs then mbNo s stBadCmd
  else if unlocking s then
    if !(sessions s).isEmpty then none
    else if !s.warden.scrub then none
    else mbOk (logged (openDebug (dropSealedCtxs (scrubSealed s)) secs) 0x30 b) []
  else match s.warden.owner with
    | none => mbNo s stDenied
    | some k => match usesChallenge s k (b.take 4) (b.drop 4) with
      | none => mbNo s stDenied
      | some c =>
        if !policyFlag s 0 then mbNo (dropChallenge s c) stDenied
        else if s.warden.debugOpen then mbOk (logged (openDebug (dropChallenge s c) secs) 0x30 b) []
        else none

/-- Step 1: the unlock begins, and every sealed queue is disabled. -/
def beginUnlock (s : State) (b : List Byte) : State :=
  match s.warden.owner.bind (fun k => usesChallenge s k (b.take 4) (b.drop 4)) with
  | none => s
  | some c => endSessions { dropChallenge s c with warden.lease := le b 0 4 } 3 (fun _ => true)

/-- Step 3 begins once the sealed queues have drained. -/
def beginScrub (s : State) : State :=
  if (sessions s).isEmpty then { clearKeys s with warden.scrub := true } else s

/-- 13 R474: DEBUG_UNLOCK. -/
def execDebugUnlock (s : State) : Host.Outcome State Fault Refusal :=
  .next (match s.warden.request with
    | none => s
    | some r =>
      if r.type ≠ 0x30 || s.warden.handover || r.bad.isSome then s
      else match runDebugUnlock s r.body with
        | some (s, result, body) => reply s result body
        | none => if unlocking s then beginScrub s else beginUnlock s r.body)

/-- Debug ends: 0 DEBUG_END, 1 lease expired, 2 reset (R476). -/
def endDebug (s : State) (why : Nat) : State :=
  if !s.warden.debugOpen then s
  else
    let s := extend15 { s with warden.debugOpen := false, warden.lease := 0 }
    restoreSealed (postM s evDebugOff srcWarden noQueue why 0 0)

/-- 13 R476: DEBUG_END. -/
def execDebugEnd (s : State) : Host.Outcome State Fault Refusal :=
  .next (runRequest s 0x31 (fun s b => if b.isEmpty then mbOk (logged (endDebug s 0) 0x31 b) [] else mbNo s stBadCmd))

/-- 13 R476: the debug lease expires. -/
def execDebugLeaseExpiry (s : State) : Host.Outcome State Fault Refusal :=
  .next (if s.warden.debugOpen && decide (s.warden.lease ≤ s.secs) then endDebug s 1 else s)

/-! ## Tamper responses (R477) -/

/-- Level of a detector: supply, temperature, record authentication; light, mesh; warden mesh. -/
def tamperLevel (d : Nat) : Nat := if d < 3 then 1 else if d < 5 then 2 else 3

/-- A command of a sealed queue ends with ABORTED and no result envelope, whatever it is at. -/
def cutSealed (s : State) (c : Cmd) : State :=
  let c := { c with plain := none }
  match c.job with
  | .search _ => dropCmd (stopStage s c.seq) c stAborted
  | .batch j => if j.csn = 0 then dropBatch s c j stAborted else fail s c stAborted
  | _ => fail s c stAborted

/-- Level 1. -/
def tamperOne (s : State) (level d : Nat) : State :=
  let s := (s.qau.cmds.filter (·.isSealed)).foldl cutSealed s
  let s := addAuditFree (endSessions s 4 (fun _ => true))
  postM { s with warden.tamper := max s.warden.tamper level, warden.tamperSinceBoot := true } evTamper srcWarden noQueue level
    (d + 1) 0

/-- Level 2: steps 3 to 5 of Table 13.13; the key-table entries of sessions that still drain are zero too. -/
def tamperTwo (s : State) : State :=
  let s := (sessions s).foldl (fun s e => endSession s e.2.queue) s
  dropSealedCtxs (scrubSealed { clearKeys s with warden.sealedOff := true })

/-- Level 3: the key store is erased. -/
def tamperThree (s : State) : State :=
  { s with warden.erased := true, warden.idSeed := [], warden.owner := none, warden.ownerEpoch := 0, warden.salt := 0, warden.policy := none,
           warden.nextPolicy := none, warden.sigNext := 0, warden.sigEnd := 0 }

/-- 13 R477: a tamper detector fires; a higher level includes every action of the lower ones. -/
def execTamper (d : Fin 6) (s : State) : Host.Outcome State Fault Refusal :=
  let n := tamperLevel d.val
  let s := tamperOne s n d.val
  let s := if 2 ≤ n then tamperTwo s else s
  .next (if n = 3 then tamperThree s else s)

end Sys2Proof.Machine
end

