-- ==== Sys2Proof/Machine/Power.lean ====
section
/-! DEFINITION. The power ladder (15 R518-R524, 12 R434, R435, R437, R570): POWER, the entry to each state, the return to Run with
the commands held, protective Rest, and what Vigil leaves without power (16 R572). -/

namespace Sys2Proof.Machine

def srcPwr : Nat := 0xB0
def evPowerState : Nat := 0x0200

/-! ## POWER (R519) -/

/-- Entry to a state, or the return to Run, starts; `owner` is the POWER command that waits for it. -/
def startEntry (s : State) (target : Nat) (owner after : Option Nat) (byProtect : Bool) : State :=
  { s with pwr.entering := true, pwr.target := target, pwr.owner := owner, pwr.after := after, pwr.byProtect := byProtect }

/-- A POWER that passed its checks, in the order of R519; one that finds an entry under way is held (R434), and one that asks for a
state shallower than protective Rest as well (R524). -/
def runPower (s : State) (c : Cmd) (st : Nat) : State :=
  if s.pwr.entering then holdForRun s { c with job := .power st }
  else if st = s.pwr.state then finishD s c stOk 0 st []
  else if s.pwr.state < st then
    if st = 4 then startEntry (finishD s c stOk 0 4 []) 4 none none false
    else startEntry (s.setCmd { c with phase := .entering, job := .power st }) st (some c.seq) none false
  else if s.pwr.protect then holdForRun s { c with job := .power st }
  else startEntry (s.setCmd { c with phase := .entering, job := .power st }) 0 (some c.seq) (if st = 0 then none else some st) false

/-- 15 R519: POWER; a state other than Run is BUSY before START_DONE (16 R563). -/
def execPower (q : QueueId) (s : State) : Host.Outcome State Fault Refusal :=
  .next (match oldest s q.val (fun c => c.opcode = opPower) with
    | none => s
    | some c =>
      let st := byteAt c.bytes 16
      if !stepOne c || decide (4 < st) then fail s c stBadCmd
      else if st ≠ 0 && !s.mod.startPosted then fail s c stBusy
      else runPower s c st)

/-! ## Entry (R434, R435, R487, R520) -/

/-- The command is admitted and has work to end: entry waits for it. -/
def Cmd.active (c : Cmd) : Bool :=
  match c.phase with
  | .fetched => false
  | .fenceHeld => false
  | .powerHeld => false
  | .entering => false
  | .selftest _ => false
  | .activity _ => false
  | _ => true

/-- A running activity of a class that ends before an entry does: every one but a test (14 R487). -/
def entryWaits (s : State) : Bool := s.maint.claims.any (fun e => e.2.any (fun c => (c.state = 1 || c.begun) && (c.act.cls ≠ 0 || c.act.isolates)))

/-- The claim entry that stands for power management as what pauses a test. -/
def powerPause : Nat := 64

/-- Self-tests pause at entry, and their completions will carry DELAYED (12 R437). -/
def pauseTests (s : State) : State :=
  (allClaims s).foldl (fun s e =>
    if e.2.act.cls = 0 && !e.2.act.isolates && e.2.state ≠ 0 && !e.2.pausedBy.contains powerPause then
      let s := s.setClaim e.1 (some { e.2 with state := 2, pausedBy := e.2.pausedBy ++ [powerPause] })
      match s.cmd e.2.cmd with
      | some c => if e.2.auto then s else s.setCmd { c with delayed := true }
      | none => s
    else s) s

/-- They resume after the return to Run. -/
def resumeTests (s : State) : State :=
  (allClaims s).foldl (fun s e =>
    if e.2.pausedBy.contains powerPause then s.setClaim e.1 (some (e.2.release powerPause)) else s) s

/-- Every running context is pre-empted and kept (11 R387). -/
def saveAll (s : State) : State :=
  (List.range 48).foldl (fun s e => match (s.engine e).work with
    | .context _ => saveContext (waitSave s) e
    | _ => s) s

/-- The PCIe link is down. -/
def pcieDown (s : State) : State := { s with links.pcieUp := false, links.pcieWidth := 0, links.pcieGen := 0 }

/-- Data ports and PCIe are down (Hush, Vigil). -/
def linksDown (s : State) : State := pcieDown (portDown (portDown s 0) 1)

/-- The command ends with ABORTED, whatever it is at (12 R435). A batch that has its CSN is committed all the same. -/
def cutCmd (s : State) (c : Cmd) : State :=
  match c.phase, c.job with
  | _, .batch j => if j.csn = 0 then dropBatch s c j stAborted else fail s c stAborted
  | .selftest n, _ => dropCmd (stopStage (endClaim s n 0) c.seq) c stAborted
  | .activity n, _ => fail (if (s.claim n).any (fun k => k.state = 0) then s.setClaim n none else s) c stAborted
  | _, _ => dropCmd (stopStage s c.seq) c stAborted

/-- No queue fetches: ENABLE reads 0 everywhere. -/
def stopFetch (s : State) : State :=
  { s with qau.queues := Tab.mapAll Queue.initial (fun x => { x with draining := x.enable, reEnable := false }) s.qau.queues }

/-- Every context ends (11 R393). -/
def endContexts (s : State) : State := (contexts s).foldl (fun s c => endContext s c.1) s

/-- The journal tail is programmed, and a map checkpoint written (R520). -/
def persist (s : State) : State :=
  let s := if s.flash.tail.isEmpty then s else programTail s
  freeRing { s with flash.map := snapshot s s.csn.current, flash.mapCsn := s.csn.current, flash.sinceCkpt := 0,
                    flash.ckptJsn := s.flash.programmed, flash.ckptBytes := s.flash.ring }

/-- LOADED, TOTAL and REMAIN_MB of MOD_START. -/
def modCounts (s : State) : Nat :=
  let mb := ((s.mod.reload.map (fun cid => ((s.corpus.blocks.filterMap (·.2)).filter (fun b => hCid b.hdr = cid.toNat)).map
    (fun b => 128 + hBlockBytes b.hdr))).flatten).foldl (· + ·) 0
  field (searchableCount s) 35 13 + field (liveCount s) 22 13 + field (ceilDiv mb 1000000) 0 22

/-- MOD_START; its counts keep their values in Vigil (16 R572). -/
def modStart (s : State) : Nat := field s.mod.phase 61 3 + s.mod.kept.getD (modCounts s)

/-- The stacks' content is lost; what remap tables and retirement hold stays (14 R499, R505), and what block THERM shows of them
(16 R572). -/
def loseHbm (s : State) : State :=
  { s with
    hbm.mem := [], hbm.poisoned := [], hbm.tags := [], hbm.regions := []
    hbm.ctls := Tab.mapAll Stack.initial (fun c => { Stack.initial with
      retired := c.retired, lanes := c.lanes, temp := c.temp, level := c.level, cool := c.cool, hot := c.hot }) s.hbm.ctls
    hbm.pchs := Tab.mapAll Pch.initial (fun p => { Pch.initial with
      retired := p.retired, retiredRows := p.retiredRows, badRows := p.badRows }) s.hbm.pchs
    corpus := Corpus.empty }

/-- Firmware images, and what is repaired and worn, belong to the flash; its channels start again. -/
def channelOff (c : Channel) : Channel :=
  { Channel.initial with fw := c.fw, state := if c.state = 2 then 2 else 0, spare := c.spare, keys := c.state ≠ 2,
                         failedPackages := c.failedPackages }

/-- The isolation of a hold-up section runs to its end, whatever becomes of the command that asked for it (R522). -/
def sectionTest (s : State) : Tab (Option Claim) :=
  s.maint.claims.filterMap (fun e => (e.2.filter (fun c => c.state = 1 && c.act.isolates)).map (fun c => (e.1, some { c with auto := true })))

/-- The blocks outside the always-on domain lose power (16 R572). Pending m events are kept for when the queues next run (02 R60,
13 R479); CSNs go on from where they are. -/
def blocksOff (s : State) : State :=
  let s := loseHbm s
  { s with
    qau := { Qau.initial with backlog := s.qau.backlog, mLost := s.qau.mLost, order := s.qau.order, fetched := s.qau.fetched,
                              seq := s.qau.seq, irqTgt := s.qau.irqTgt }
    csn := { s.csn with table := [], pins := [] }
    alloc := { Alloc.initial with retiredRows := s.alloc.retiredRows, fused := s.alloc.fused, plainGone := s.alloc.plainGone }
    reel := Reel.initial
    sel := Sel.initial
    eng := { Eng.initial with nextGroup := s.eng.nextGroup }
    flash.engback := 4
    flash.freeUnits := s.flash.freeUnits + s.flash.engback * 62500000 - 4 * 62500000
    flash.channels := Tab.mapAll Channel.initial channelOff s.flash.channels
    flash.backing := []
    flash.backingBytes := 0
    maint := { claims := sectionTest s, drops := 0, refused := 0, weevilSlots := [], swapBack := none }
    links := { Links.initial with ipv4 := s.links.ipv4, fullLock := s.links.fullLock, warmLock := s.links.warmLock,
                                  mgmtAddr := s.links.mgmtAddr, mgmtRate := s.links.mgmtRate }
    mod.accepting := false
    mod.startPosted := false
    mod.reload := [] }

/-- Pins and sessions end; their events wait for the queues (02 R60, 13 R458). -/
def endHolders (s : State) : State :=
  let ks := sessions s
  ks.foldl (fun s k => postM s evSessionEnd srcWarden k.2.queue k.1 5 k.2.queue)
    { releasePins s with warden.keys := [] }

/-- Vigil: queues stop, commands are aborted, contexts end, the journal is safe in flash, and only then the stacks are released
(R435, R520). -/
def enterVigil (s : State) : State :=
  let s := stopFetch s
  let s := s.qau.cmds.foldl cutCmd s
  let s := persist (endContexts s)
  let held := s.csn.pins
  let s := { s with mod.kept := some (modCounts s) }
  let t := blocksOff s
  let t := endHolders { t with csn.pins := held }
  { t with links.mgmtRate := if t.links.mgmtRate = 0 then 0 else 1, mod.phase := 6, pwr.railMv := 0 }

/-- What the state entered brings (Table 15.2). -/
def stateEffect (s : State) : Nat → State
  | 2 => { s with pwr.railMv := 550 }
  | 3 => { linksDown (saveAll s) with pwr.railMv := 550 }
  | 4 => enterVigil s
  | _ => s

/-- 15 R518: entry reaches its end once no admitted command is left, Vigil excepted, and no activity that it waits for. -/
def execPowerStateReached (s : State) : Host.Outcome State Fault Refusal :=
  let st := s.pwr.target
  .next (if s.pwr.entering && st ≠ 0 && !entryWaits s && (st = 4 || !s.qau.cmds.any Cmd.active) then
      let why := b2n s.pwr.byProtect
      let owner := s.pwr.owner.bind s.cmd
      let s := stateEffect (pauseTests { s with pwr.entering := false, pwr.state := st, pwr.owner := none }) st
      let s := postM s evPowerState srcPwr noQueue st why 0
      (match owner with
       | some c => finishD s c stOk 0 st []
       | none => s)
    else s)

/-! ## The return to Run (R521, R434, R570) -/

/-- What a MAINT command's admission does, by its subop; the other subops are activities. -/
def maintRunOf : Nat → Option MaintRun
  | 0x0001 => some runCreate
  | 0x0002 => some runDestroy
  | 0x0003 => some runGenInstall
  | 0x0004 => some runSample
  | 0x0010 => some runLaunch
  | 0x0011 => some runResume
  | 0x0012 => some runKill
  | 0x0020 => some runPinRelease
  | 0x0100 => some runUpdate
  | 0x0150 => some runPriority
  | _ => none

/-- A held command is admitted: step 6 of Table 12.3 and the pin checks are made again (R570). One that waits as it is (02 Table
2.6) is checked anew by its own row. -/
def releaseCmd (s : State) (c : Cmd) : State :=
  match c.job with
  | .search j => (match searchLimits s c j.ctx.cid.toNat j.pinTake with
    | some st => fail s c st
    | none =>
      if (collAt s j.ctx.cid.toNat (c.adm.getD s.csn.current)).isNone then fail s c stNoCollection else admitSearch s c j)
  | .batch j => (match batchLimits s c.opcode j.count with
    | some st => fail s c st
    | none => if (liveColl s j.cid.toNat).isNone then fail s c stNoCollection else admitBatch s c j)
  | .flush csn => admitFlush s c csn
  | .power st => runPower s c st
  | .act a => runActivity s c a
  | .none =>
    if c.opcode = opPin then admitPin s c
    else if c.opcode = opUnpin then admitUnpin s c
    else if c.opcode = opStats then admitStats s c
    else if c.opcode = opSelftest then admitSelftest s c
    else ((maintRunOf c.subop).bind (fun run => run s c c.body)).getD (s.setCmd { c with phase := .fetched })

/-- Held commands in fetch order; a POWER among them that starts an entry keeps the later ones held. -/
def releaseHeld (s : State) : State :=
  (s.qau.cmds.filter (fun c => c.phase = .powerHeld)).foldl (fun s c => if admissionStopped s then s else releaseCmd s c) s

/-- Held commands but POWER, in fetch order: the POWER that goes on starts its entry now, and a later one waits for its end (R519). -/
def releaseOthers (s : State) : State :=
  (s.qau.cmds.filter (fun c => c.phase = .powerHeld && c.opcode ≠ opPower)).foldl (fun s c => releaseCmd s c) s

/-- A command or an activity waits for Run. -/
def runWanted (s : State) : Bool :=
  s.qau.cmds.any (fun c => c.phase = .powerHeld) || s.maint.claims.any (fun e => e.2.any (fun c => c.state = 0))

/-- The rail in Run (R514): the set point, or 0.70 V while a half is hot. -/
def runRail (s : State) : Nat := if s.pwr.hotHalf then 700 else setPoint s.pwr.opsel

/-- The module is in Run again: POWER_STATE, tests resume, the POWER that asked completes or goes on, held commands are released. -/
def backToRun (s : State) : State :=
  let why := b2n s.pwr.byProtect
  let owner := s.pwr.owner.bind s.cmd
  let after := s.pwr.after
  let s := { s with pwr.state := 0, pwr.target := 0, pwr.entering := false, pwr.owner := none, pwr.after := none,
                    pwr.byProtect := false, pwr.railMv := if s.pwr.state = 1 then s.pwr.railMv else runRail s }
  let s := resumeTests (postM s evPowerState srcPwr noQueue 0 why 0)
  match owner, after with
  | some c, some st => startEntry (releaseOthers s) st (some c.seq) none false
  | some c, none => releaseHeld (finishD s c stOk 0 0 [])
  | none, _ => releaseHeld s

/-- 12 R434: from Poise, Rest or Hush the module returns to Run for a POWER, a held command, a held activity, or at the end of a
protective Rest. -/
def execReturnToRun (s : State) : Host.Outcome State Fault Refusal :=
  let p := s.pwr
  let asked := (p.entering && p.target = 0) || (!p.entering && (p.byProtect || runWanted s))
  .next (if decide (1 ≤ p.state ∧ p.state ≤ 3) && !p.protect && asked then backToRun s else s)

/-! ## Protective Rest (R524) -/

/-- Step 2: the command is aborted, unless its staging has begun, or it is no command that R524 ends. -/
def protectCmd (s : State) (c : Cmd) : State :=
  match c.phase with
  | .staging => s
  | .committed => s
  | .flushing => fail s c stAborted
  | .selftest _ => cutCmd s c
  | .activity _ => cutCmd s c
  | _ => if c.active then abortCmd s c else s

/-- A POWER that asked for a state shallower than Rest, or for Run, is held meanwhile. -/
def holdOwner (s : State) : State :=
  match s.pwr.owner.bind s.cmd with
  | none => s
  | some c => { holdForRun s c with pwr.owner := none, pwr.after := none }

/-- Where the module goes: it stays in, or goes on to, a state from Rest down; a return to Run is given up. -/
def protectTarget (s : State) : State :=
  let p := s.pwr
  if p.entering && decide (2 ≤ p.target) then s
  else if 2 ≤ p.state then { holdOwner s with pwr.entering := false, pwr.target := p.state, pwr.after := none }
  else startEntry (holdOwner s) 2 none none true

/-- Protective Rest begins. -/
def startProtect (s : State) (flow : Bool) : State :=
  let first := !s.pwr.protect
  let s := { s with pwr.protect := true, pwr.protectFlow := s.pwr.protectFlow || flow }
  if !first then s
  else
    let s := s.qau.cmds.foldl protectCmd s
    protectTarget (if s.pwr.state = 4 then s else saveAll s)

/-- 15 R524, 16 R541: every group has stayed below its clearing value for 1 s, and the flow, where it was the cause, at or above
3.2 L/min. A Rest entered for it is left. -/
def execProtectiveRestClear (s : State) : Host.Outcome State Fault Refusal :=
  .next (if s.pwr.protect && decide (4000 ≤ s.therm.allClear) && (!s.pwr.protectFlow || decide (10 ≤ s.therm.okFlow)) then
      { s with pwr.protect := false, pwr.protectFlow := false }
    else s)

end Sys2Proof.Machine
end

