-- ==== Sys2Proof/Machine/Links.lean ====
section
/-! DEFINITION. Links (16 R542-R554): data ports, the management port's link, the PCIe endpoint and its resets, RoCEv2; and
START_DONE, which waits for the ports (Table 16.7 step 8). -/

namespace Sys2Proof.Machine

def srcNet : Nat := 0xA0
def srcMgmt : Nat := 0xA2
def srcPcie : Nat := 0xA1
def srcMod : Nat := 0x00
def evStartDone : Nat := 0x0300

/-! ## ALERT_N (Table 16.1) -/

/-- ALERT_N is low: an m event is pending, and no event queue is enabled. -/
def alertLow (s : State) : Bool :=
  (!s.qau.backlog.isEmpty || s.qau.mLost ≠ 0) && !(s.qau.even && (s.queue s.qau.evq).enable)

/-! ## START_DONE (16 R561, R565) -/


/-- A data port is configured and neither up nor failed; one with no firmware that may run has failed (13 R448). -/
def portsTraining (s : State) : Bool :=
  [0, 1].any (fun p => (s.netPort p).rate ≠ 3 && (s.netPort p).up = 0 && !(s.netPort p).tried && !unitStopped s (16 + p))

/-- START_DONE is posted once the reload is over and every configured port is up or has failed; how many milliseconds that took is
no part of the model (log 17). -/
def noteStart (s : State) : State :=
  if s.mod.accepting && !s.mod.startPosted && s.mod.reload.isEmpty && !portsTraining s then
    let (ms, s) := s.draw
    postM { s with mod.startPosted := true } evStartDone srcMod noQueue s.mod.startKind (ms % 2 ^ 32) (searchableCount s)
  else s

/-! ## Data ports (R543, R544) -/

/-- A combination of RATE and WIDTH that Table 16.3 has; RATE 3 stands for the port down. -/
def modeOk (rate width : Nat) : Bool := rate = 0 || rate = 3 || decide (width < 3)

/-- 16 R543: NET_PORTp is written. -/
def execNetPortWrite (p : Fin 2) (v : W64) (s : State) : Host.Outcome State Fault Refusal :=
  let x := s.netPort p.val
  let rate := bits v.toNat 0 2
  let width := bits v.toNat 8 2
  let mac := bit v.toNat 16
  .next (if blockOff s 0xA0 || !modeOk rate width then s
    else if rate = x.rate && width = x.width && mac == x.macsec then s
    else noteStart (s.modNetPort p.val (fun y => { y with rate := rate, width := width, macsec := mac, up := 0, tried := false })))

/-- Interfaces of a port by lanes per interface. -/
def interfaces (width : Nat) : Nat := 8 / 2 ^ width

/-- A LINK_STATE event. -/
def linkEvent (s : State) (src port up how : Nat) : State := postM s evLinkState src noQueue port up how

/-- A data port's training ends: up, failed, or refused for the module's power class, over 30 W (R544). -/
def portTrained (s : State) (p : Nat) (r : LinkResult) : State :=
  let x := s.netPort p
  let refused := decide (30 < r.modPower.toNat)
  let up : Byte := if refused || r.outcome.val ≠ 0 then 0 else BitVec.ofNat 8 (r.up.toNat % 2 ^ interfaces x.width)
  let s := s.modNetPort p (fun y => { y with up := up, tried := true, media := r.media.toNat, modPower := r.modPower })
  noteStart (linkEvent s srcNet p up.toNat (if refused then 2 else if up = 0 then 1 else 0))

/-- The management port's link (R554): 1000BASE-X alone in Vigil. With IPV4 0 the address comes by DHCP. -/
def mgmtTrained (s : State) (r : LinkResult) : State :=
  let n := r.rate.toNat
  if r.outcome.val ≠ 0 then linkEvent { s with links.mgmtRate := 0, links.mgmtAddr := 0 } srcMgmt 2 0 1
  else if decide (1 ≤ n ∧ n ≤ 3) && (s.pwr.state ≠ 4 || n = 1) then
    let (d, s) := s.draw
    let a := if s.links.ipv4 = 0 then BitVec.ofNat 32 d else s.links.ipv4
    linkEvent { s with links.mgmtRate := n, links.mgmtAddr := a } srcMgmt 2 1 0
  else s

/-- The PCIe link (R549): up to MAXGEN, at one of the widths. -/
def pcieTrained (s : State) (r : LinkResult) : State :=
  let g := r.rate.toNat
  let w := r.lanes.toNat
  if !s.links.pcieOn then s
  else if r.outcome.val ≠ 0 then linkEvent (pcieDown s) srcPcie 3 0 1
  else if decide (4 ≤ g ∧ g ≤ 6 - s.links.maxGen) && [1, 4, 8, 16].contains w then
    linkEvent { s with links.pcieUp := true, links.pcieWidth := w, links.pcieGen := g } srcPcie 3 1 0
  else s

/-- 16 R543, R549, R554: a link's training ends, and LINK_STATE is posted. Data ports and PCIe are down in Hush and Vigil, and a port
with no firmware that may run stays down (13 R448). -/
def execLinkTrained (p : Fin 4) (r : LinkResult) (s : State) : Host.Outcome State Fault Refusal :=
  .next (if unitStopped s (16 + p.val) && decide (p.val < 3) then s
    else if p.val = 2 then mgmtTrained s r
    else if decide (3 ≤ s.pwr.state) then s
    else if p.val = 3 then pcieTrained s r
    else if (s.netPort p.val).rate = 3 then s
    else portTrained s p.val r)

/-- 16 R565: a link loses its partner or signal. -/
def execPortDown (p : Fin 4) (s : State) : Host.Outcome State Fault Refusal :=
  .next (if p.val = 2 then
      if s.links.mgmtRate = 0 then s else linkEvent { s with links.mgmtRate := 0, links.mgmtAddr := 0 } srcMgmt 2 0 1
    else if p.val = 3 then
      if s.links.pcieUp then linkEvent (pcieDown s) srcPcie 3 0 1 else s
    else if (s.netPort p.val).up = 0 then s
    else noteStart (linkEvent (s.modNetPort p.val (fun y => { y with up := 0, tried := true })) srcNet p.val 0 1))

/-! ## RoCEv2 (R546, R547) -/

/-- RDMA runs: a data port is up, and the memory is served (Table 15.2). -/
def rdmaRuns (s : State) : Bool := decide (s.pwr.state ≤ 1) && [0, 1].any (fun p => (s.netPort p).up ≠ 0)

/-- A registration is one of the 4,096 and covers part of one region, whose ACCESS bit 5 is set (R547). -/
def regAdmitted (s : State) (key : Nat) (g : Registration) : Bool :=
  decide (key < 4096 ∧ 0 < g.len) && (regionOf s g.base).any (fun e =>
    e.1.admits 5 && e.1.offsetOf (g.base + g.len - 1) = some (e.2 + g.len - 1))

/-- A registration covers `n` bytes from `a` on. -/
def registered (s : State) (key a n : Nat) : Option Registration :=
  (Tab.get none s.links.regs key).filter (fun g => regAdmitted s key g && decide (g.base ≤ a ∧ a + n ≤ g.base + g.len))

/-- A work request comes in on one of the 16,384 queue pairs while RDMA runs (R546). -/
def requestTaken (s : State) (qp : Nat) : Bool := rdmaRuns s && decide (qp < 16384)

/-- 16 R546, R547: an RDMA WRITE into a registration, as requester class 5; refused outside of one. -/
def execRdmaWrite (r : WorkReq) (a : Dpa) (bs : List Byte) (s : State) : Host.Outcome State Fault Refusal :=
  .next (if !requestTaken s r.qp then s
    else if (registered s r.key a.toNat bs.length).any (·.write) then
      match s.write 5 a.toNat bs r.finding with
      | (s, ok) => { s with rsp := if ok then .none else .denied }
    else { s with rsp := .denied })

/-- 16 R546: an RDMA READ of a registration. -/
def execRdmaRead (r : WorkReq) (a : Dpa) (n : Nat) (s : State) : Host.Outcome State Fault Refusal :=
  .next (if !requestTaken s r.qp then s
    else if (registered s r.key a.toNat n).isSome then
      match s.read 5 a.toNat n r.finding with
      | (s, some bs) => { s with rsp := .bytes bs }
      | (s, none) => { s with rsp := .denied }
    else { s with rsp := .denied })

/-- 16 R546: a SEND is received on one of the 16,384 queue pairs. -/
def execSend (qp : Nat) (bs : List Byte) (s : State) : Host.Outcome State Fault Refusal :=
  .next (if requestTaken s qp then { s with links.received := s.links.received ++ [(qp, bs)] } else s)

/-! ## PCIe function resets (R552) -/

/-- Exposed queues. -/
def exposed (s : State) : List Nat := (List.range s.links.qcount).map (· + s.links.qbase)

/-- 16 R552: a function-level reset, a hot reset or PERST#: exposed queues are disabled, the MSI-X enables cleared; PERST# retrains
the link. In Vigil the endpoint is powered off, and so are the queues (15 R572). -/
def execFunctionLevelReset (k : FlrKind) (s : State) : Host.Outcome State Fault Refusal :=
  .next (if blockOff s 0xA1 then s
    else
      let s := (exposed s).foldl disableQueue s
      let s := { s with links.flrs := satAdd 16 s.links.flrs 1, links.msixOn := [] }
      if k = .perst then pcieDown s else s)

end Sys2Proof.Machine
end

