-- ==== Sys2Proof/Machine/Meter.lean ====
section
/-! DEFINITION. The meter (15 R532-R537): readings, signed readings, and the log of Table 15.7. -/

namespace Sys2Proof.Machine

def srcMeter : Nat := 0xB8
def evMeterFault : Nat := 0x0220
def evMeterKey : Nat := 0x0221
def evMeterSeal : Nat := 0x0222

/-! ## The log (R535) -/

def logFull (s : State) : Bool := decide (1024 ≤ s.meter.log.length)
/-- Meter power-on time in s. -/
def meterOn (s : State) : Nat := s.meter.ticks / 10

/-- An entry more; the log is never overwritten. -/
def meterLog (s : State) (type data : Nat) : State :=
  if logFull s then s
  else { s with
    meter.log := s.meter.log ++ [⟨s.meter.logSeq, type, s.meter.energy, meterOn s, BitVec.ofNat 64 data⟩]
    meter.logSeq := s.meter.logSeq + 1 }

/-- FAULT and KEY_EXHAUSTED, counted in the last entry's DATA while the log is full. -/
def meterLogOrCount (s : State) (type data : Nat) : State :=
  if logFull s then { s with meter.log := modAt s.meter.log 1023 (fun e => { e with data := e.data + 1 }) }
  else meterLog s type data

/-- The 32 bytes of an entry. -/
def MeterEnt.bytes (e : MeterEnt) : List Byte :=
  leBytes 4 e.seq ++ leBytes 2 e.type ++ zeros 2 ++ leBytes 8 e.energy.toNat ++ leBytes 8 e.onTime ++ leBytes 8 e.data.toNat

/-- Head of the chain over the log (log 21). -/
def logHead (es : List MeterEnt) : BitVec 256 :=
  es.foldl (fun h e => Config.shake256 (leBytes 32 h.toNat ++ e.bytes)) 0

/-! ## Signed readings (R534, R536, Table 15.6) -/

def sigCount : Nat := 1048576
def keyLow : Nat := 65536

/-- Seconds until a signature is allowed: 900 s from the last that was taken. -/
def signWait (s : State) : Nat :=
  match s.meter.lastSign with
  | none => 0
  | some t => ceilDiv (t + 9000 - s.meter.ticks) 10

/-- The next signature would need a KEY_LOW entry. -/
def crossesLow (s : State) : Bool := s.meter.sigsLeft = keyLow

/-- 15 R534: METER_SIGN is written with GO: within 900 s of the last request it is BUSY; with no index left, or no room for the
entry that it would need, FAULT; a GO while BUSY is 1 has no effect (R536). -/
def execMeterSign (v : W64) (s : State) : Host.Outcome State Fault Refusal :=
  .next (if !bit v.toNat 63 || s.meter.busy then s
    else if s.meter.sigsLeft = 0 || (crossesLow s && logFull s) then { s with meter.result := stFault }
    else if signWait s ≠ 0 then { s with meter.result := stBusy }
    else { s with meter.busy := true, meter.lastSign := some s.meter.ticks,
                  meter.signNonce := (List.range 4).map (fun i => Tab.get 0 s.meter.nonce i) })

/-- Bytes 0-143 of a reading. -/
def readingBody (s : State) : List Byte :=
  let m := s.meter
  leBytes 4 0x52544D4B ++ leBytes 2 1 ++ leBytes 2 (b2n m.sealIntact + 2 * b2n (logFull s) + 4 * b2n m.rangeLeft)
    ++ leBytes 8 Config.meterSerial.toNat ++ leBytes 8 (sigCount - m.sigsLeft) ++ leBytes 8 m.energy.toNat ++ leBytes 8 (meterOn s)
    ++ leBytes 4 m.log.length ++ leBytes 4 m.lrsVer.toNat ++ leBytes 32 (Config.meterLrsDigest m.lrsVer).toNat
    ++ leBytes 32 (logHead m.log).toNat ++ m.signNonce.flatMap (fun n => leBytes 8 n.toNat)

/-- The reading with its signature of 2,820 bytes, the index first (R19). -/
def reading (s : State) : List Byte :=
  let i := sigCount - s.meter.sigsLeft
  readingBody s ++ leBytes 4 i ++ padTo 2816 (Config.meterSignature i (readingBody s))

/-- What the number of indices left brings. -/
def noteKeys (s : State) : State :=
  let n := s.meter.sigsLeft
  let s := if n + 1 = keyLow then postM (meterLog s 6 n) evMeterKey srcMeter noQueue n 0 0 else s
  if n = 0 then postM (meterLogOrCount s 7 0) evMeterKey srcMeter noQueue 0 1 0 else s

/-- 15 R534: the signed reading is in METER_RBUF. Where the log has filled since GO and KEY_LOW would need an entry, the signature is
refused (R535, log 50). -/
def execMeterSignDone (s : State) : Host.Outcome State Fault Refusal :=
  .next (if s.meter.busy && crossesLow s && logFull s then { s with meter.busy := false, meter.result := stFault }
    else if s.meter.busy then
      noteKeys { s with meter.rbuf := reading s, meter.busy := false, meter.result := stOk,
                        meter.sigsLeft := s.meter.sigsLeft - 1, meter.rangeLeft := false }
    else s)

/-! ## Readings and power loss (R532, R533) -/

/-- 15 R533: METER_INST is updated, and the energy of the 100 ms is added, in mJ. -/
def execMeterInstUpdate (power curr volt : BitVec 16) (mj : BitVec 32) (s : State) : Host.Outcome State Fault Refusal :=
  .next { s with
    meter.power := power
    meter.curr := curr
    meter.volt := volt
    meter.ticks := s.meter.ticks + 1
    meter.energy := s.meter.energy + mj.zeroExtend 64
    meter.rangeLeft := s.meter.rangeLeft || decide (curr.toNat < 300) || decide (7200 < curr.toNat) }

/-- 15 R532: at power loss, before its own hold-up is exhausted, the meter writes the energy register to non-volatile memory. -/
def execMeterSave (s : State) : Host.Outcome State Fault Refusal :=
  .next { s with meter.nvEnergy := s.meter.energy, meter.off := true }

/-- A meter failure: FAULT is set and logged, and METER_FAULT is posted (R532, R535). -/
def meterFails (s : State) (code : Nat) : State :=
  postM (meterLogOrCount { s with meter.fault := true } 8 code) evMeterFault srcMeter noQueue code 0 0

/-- 15 R532: a meter failure. -/
def execMeterFault (code : W64) (s : State) : Host.Outcome State Fault Refusal := .next (meterFails s code.toNat)

/-- A meter that had lost its power takes up the stored register and checks the store: a check that fails is a FAULT (R532). Whether
it fails, and with which code, is no operand (log 65). -/
def meterUp (s : State) : State :=
  if !s.meter.off then s
  else
    let (x, s) := s.draw
    let s := { s with meter.energy := s.meter.nvEnergy, meter.off := false }
    if x % 2 = 1 then meterFails s (x / 2 % 2 ^ 64) else s

/-! ## The seal and the service port (R535) -/

/-- 15 R535: the enclosure switch opens. -/
def execSealOpen (s : State) : Host.Outcome State Fault Refusal :=
  .next (if s.meter.sealIntact then
      let s := meterLog { s with meter.sealIntact := false } 1 0
      postM s evMeterSeal srcMeter noQueue 0 s.meter.log.length 0
    else s)

/-- 15 R535: the meter authority's signed close, with the first 8 bytes of its key's digest. -/
def execSealClose (key : W64) (s : State) : Host.Outcome State Fault Refusal :=
  .next (if !s.meter.sealIntact && !logFull s then
      let s := meterLog { s with meter.sealIntact := true } 2 key.toNat
      postM s evMeterSeal srcMeter noQueue 1 s.meter.log.length 0
    else s)

/-- 15 R535: the legally relevant software is updated, with the seal open and the authority's signature. -/
def execLrsUpdate (version : BitVec 16) (authentic : Bool) (s : State) : Host.Outcome State Fault Refusal :=
  .next (if !s.meter.sealIntact && authentic && !logFull s then
      meterLog { s with meter.lrsVer := version } 3 version.toNat
    else s)

/-- 15 R535: a calibration parameter changes, with the seal open and the authority's signature. -/
def execParamChange (number : W64) (authentic : Bool) (s : State) : Host.Outcome State Fault Refusal :=
  .next (if !s.meter.sealIntact && authentic && !logFull s then meterLog s 4 number.toNat else s)

/-- 15 R535: the reporting interface is updated, vendor-signed. -/
def execIfUpdate (version : W64) (authentic : Bool) (s : State) : Host.Outcome State Fault Refusal :=
  .next (if authentic && !logFull s then meterLog s 5 version.toNat else s)

/-- 15 R535: the authority clears the log; the clearing is the first new entry. -/
def execLogCleared (s : State) : Host.Outcome State Fault Refusal :=
  .next (meterLog { s with meter.log := [] } 9 s.meter.log.length)

end Sys2Proof.Machine
end

