-- ==== Sys2Proof/Machine/Thermal.lean ====
section
/-! DEFINITION. Sensors and what they act on (15 R512-R517, R523, R525, 10 R367, R368, 16 R541, 14 R507): thermal levels, the core
rail, the power cap, pace and bound, coolant flow, the lifetime histogram. -/

namespace Sys2Proof.Machine

def srcTherm : Nat := 0xB1
def evThermal : Nat := 0x0201
def evThermalClear : Nat := 0x0202
def evCapAction : Nat := 0x0203
def evInputRange : Nat := 0x0204
def evSensorFail : Nat := 0x0050
def evCoolantFlow : Nat := 0x0303

/-! ## Levels (Table 15.3, 10 Table 10.10) -/

/-- Levels of a group with the reading at which each begins, in °C, rising. -/
def levelsOf (g : Nat) : List (Nat × Nat) :=
  if g < 12 then [(1, 85), (2, 95), (3, 105)]
  else if g < 14 then [(2, 100), (3, 110)]
  else if g < 16 then [(1, 95), (3, 105)]
  else if g = 16 then [(1, 45), (3, 55)]
  else [(2, 75), (3, 85)]

/-- Protective Rest clears below this reading. -/
def clearingOf (g : Nat) : Nat := if g < 14 then 100 else if g < 16 then 95 else if g = 16 then 45 else 75

/-- The level of a reading. -/
def levelAt (g t : Nat) : Nat := (((levelsOf g).filter (fun l => decide (l.2 ≤ t))).map (·.1)).foldl max 0

/-- Reads of 250 µs that make 10 ms, and 1 s. -/
def reads10ms : Nat := 40
def reads1s : Nat := 4000

/-- One read more, as far as `n` are told apart; 0 as soon as one fails. -/
def streak (n : Nat) (ok : Bool) (k : Nat) : Nat := if ok then min n (k + 1) else 0

/-- For how many reads the reading has stayed 3 °C below each level's threshold. -/
def coolOf (g t : Nat) (c : Tab Nat) : Tab Nat :=
  (levelsOf g).foldl (fun c l => Tab.mod 0 c l.1 (streak reads10ms (decide (t + 3 ≤ l.2)))) c

/-- A group as the controllers present it: the stacks' in their own registers. -/
def groupLevel (s : State) (g : Nat) : Nat := if g < 12 then (s.ctl g).level else (s.group g).level
def groupTemp (s : State) (g : Nat) : Nat := if g < 12 then (s.ctl g).temp else (s.group g).temp
def groupFailed (s : State) (g : Nat) : Bool := if g < 12 then (s.ctl g).hot else (s.group g).failed
def groupCool (s : State) (g : Nat) : Tab Nat := if g < 12 then (s.ctl g).cool else (s.group g).cool

def setGroup (s : State) (g level temp : Nat) (cool : Tab Nat) (failed : Bool) : State :=
  if g < 12 then s.modCtl g (fun c => { c with level := level, temp := temp, cool := cool, hot := failed })
  else s.modGroup g (fun x => { x with level := level, temp := temp, cool := cool, failed := failed })

/-- THERMAL for a level, THERMAL_CLEAR for none. -/
def thermEvent (s : State) (g level t : Nat) : State :=
  if level = 0 then postM s evThermalClear srcTherm noQueue g 0 t else postM s evThermal srcTherm noQueue g level t

/-- A valid reading: PEAK, the level, which rises at once; the level of a failed sensor's hold ends. -/
def readGroup (s : State) (g t : Nat) : State :=
  let old := groupLevel s g
  let held := groupFailed s g
  let level := if held then levelAt g t else max old (levelAt g t)
  let s := setGroup s g level t (coolOf g t (groupCool s g)) false
  let s := s.modGroup g (fun x => { x with peak := max x.peak t })
  if level = old then s else thermEvent s g level t

/-- A failed read: a stack is held at level 2 with SENSOR_FAIL (10 R368), any other group as at its protective threshold. -/
def failGroup (s : State) (g : Nat) : State :=
  let old := groupLevel s g
  let level := if g < 12 then 2 else 3
  let first := !groupFailed s g
  let s := setGroup s g level (groupTemp s g) [] true
  let s := if g < 12 && first then postM s evSensorFail srcTherm noQueue g 0 0 else s
  if level = old then s else thermEvent s g level (((levelsOf g).find? (fun l => l.1 = level)).map (·.2) |>.getD 0)

/-- The reads of one round over the groups from `g` on: none, or a value outside 0-150 °C, is a failed read. -/
def readAll (s : State) : Nat → List (Option Nat) → State
  | _, [] => s
  | g, t :: ts =>
    readAll (match t with
      | none => failGroup s g
      | some t => if t ≤ 150 then readGroup s g t else failGroup s g) (g + 1) ts

/-- Every group reads below its clearing value. -/
def allBelow (s : State) : Bool :=
  (List.range 18).all (fun g => !groupFailed s g && decide (groupTemp s g < clearingOf g))

/-- A half at or above 100 °C, its failed sensor with it, holds the rail at 0.70 V (R514). -/
def hotNow (s : State) : Bool := [12, 13].any (fun g => groupFailed s g || decide (100 ≤ groupTemp s g))
def halvesCool (s : State) : Bool := [12, 13].all (fun g => !groupFailed s g && decide (groupTemp s g < 97))

/-- What follows from a round: the count of clear rounds, the rail's hold, protective Rest. -/
def afterRead (s : State) : State :=
  let hot := hotNow s
  let s := { s with
    therm.allClear := streak reads1s (allBelow s) s.therm.allClear
    pwr.hotHalf := s.pwr.hotHalf || hot
    pwr.hotClear := streak reads10ms (halvesCool s) s.pwr.hotClear
    pwr.railMv := if hot && decide (s.pwr.state ≤ 1) then min 700 s.pwr.railMv else s.pwr.railMv }
  if (List.range 18).any (fun g => groupLevel s g = 3) then startProtect s false else s

/-- 10 R367, 15 R523: a round of sensor reads, one reading for each group of THERM_GRPn. -/
def execSensorRead (ts : List (Option Nat)) (s : State) : Host.Outcome State Fault Refusal :=
  .next (if ts.length = 18 then afterRead (readAll s 0 ts) else s)

/-- 15 R523: a group that has stayed 3 °C below where its level began for 10 ms falls to the highest level of which that does not
hold. -/
def execThermalClear (g : Fin 18) (s : State) : Host.Outcome State Fault Refusal :=
  let old := groupLevel s g.val
  let cool (l : Nat) : Nat := Tab.get 0 (groupCool s g.val) l
  .next (if old ≠ 0 ∧ !groupFailed s g.val ∧ reads10ms ≤ cool old then
      let level := (((levelsOf g.val).filter (fun l => decide (l.1 < old) && decide (cool l.1 < reads10ms))).map (·.1)).foldl max 0
      thermEvent (setGroup s g.val level (groupTemp s g.val) (groupCool s g.val) false) g.val level (groupTemp s g.val)
    else s)

/-! ## The rail and the cap (R513, R514) -/

/-- 15 R514: the rail takes one step of 10 mV back towards its set point, as far as the cap lets it. -/
def execRailReturn (s : State) : Host.Outcome State Fault Refusal :=
  let p := s.pwr
  let hot := p.hotHalf && decide (p.hotClear < reads10ms)
  .next (if decide (p.state ≤ 1) && !hot && decide (p.railMv < setPoint p.opsel) && decide (p.pinW ≤ p.capW) && !p.withheld then
      { s with pwr.hotHalf := false, pwr.railMv := min (setPoint p.opsel) (p.railMv + 10) }
    else if decide (p.state ≤ 1) && !hot then { s with pwr.hotHalf := false }
    else s)

/-- 15 R513: input power over 10 ms is known: over the cap the rail falls one step, at 0.70 V slots are withheld; 5 % below it they
are released. IIN and VIN of the same reading are values that no operand gives (log 5). -/
def execCapStep (watts : BitVec 16) (s : State) : Host.Outcome State Fault Refusal :=
  let (i, s) := s.draw
  let (v, s) := s.draw
  let w := watts.toNat
  let s := { s with pwr.pinW := w, pwr.iin := i % 65536, pwr.vin := v % 65536 }
  let say (s : State) (code : Nat) : State := postM s evCapAction srcPwr noQueue code s.pwr.railMv w
  .next (if s.pwr.capW < w then
      if 700 < s.pwr.railMv ∧ s.pwr.state ≤ 1 then say { s with pwr.railMv := max 700 (s.pwr.railMv - 10) } 0
      else if s.pwr.withheld then s
      else say { s with pwr.withheld := true } 1
    else if s.pwr.withheld ∧ 100 * w ≤ 95 * s.pwr.capW then say { s with pwr.withheld := false } 2
    else s)

/-- 15 R512: the input leaves its operating range short of the sag and over-voltage thresholds. -/
def execInputRange (vin : BitVec 16) (s : State) : Host.Outcome State Fault Refusal :=
  let v := vin.toNat
  .next (if 3400 ≤ v ∧ v < 3600 then postM { s with pwr.vin := v } evInputRange srcPwr noQueue v 0 0
    else if 5200 < v ∧ v ≤ 6000 then postM { s with pwr.vin := v } evInputRange srcPwr noQueue v 1 0
    else s)

/-! ## Pace and bound (R515-R517) -/

/-- A ring's pace: its laps in 100 us over its fused laps at ROP, in UQ6.10 (R515, log 112). -/
def ringPace (i : Nat) (laps : W32) : Nat := min 0xFFFF (laps.toNat * 1024 / Config.ropLaps i)

/-- 15 R515: the laps of the ten rings in 100 us are counted; the module pace index is the lowest pace. -/
def execPaceSample (laps : List W32) (s : State) : Host.Outcome State Fault Refusal :=
  .next (if laps.length = 10 then
      { s with pwr.pace := BitVec.ofNat 16 ((laps.mapIdx ringPace).foldl min 0xFFFF) }
    else s)

/-- The denominator under which every sweep time in ns is a whole number. -/
def sweepDen : Nat := 2829312

/-- A pseudo-channel's sweep time, in ns / sweepDen: its bytes at 102.4 GB/s, 92.1 with normal-mode banks, and less under throttling
(04 R125, Table 4.8); no rule gives the throttled rate of mixed mode, which is taken in proportion. -/
def sweepTime (s : State) (w : Nat) : Nat :=
  let n := liveBytes s w
  let full := (s.pch w).banks = BitVec.allOnes 48
  match (s.ctl (w / 32)).level with
  | 0 => if full then n * 27630 else n * 30720
  | 1 => if full then n * 36840 else n * 40960
  | _ => if full then n * 73680 else n * 81920

/-- The scan term over the pseudo-channels in service. -/
def sweepTerm (s : State) : Nat :=
  ((List.range 256).map (fun w =>
    if (s.pch w).scan && !(s.pch w).retired && !(s.ctl (w / 32)).retired then sweepTime s w else 0)).foldl max 0

/-- The side-list laps, in ns, as if 32 slots were in each group. -/
def lapTerm (s : State) : Nat :=
  (s.corpus.colls.map (fun e =>
    let k := issuedSides s e.1
    if k = 0 then 0 else 4100 + ceilDiv (chunksOfColl s e.1).length (groupSize k) * 40960)).foldl max 0

/-- A U claim on a resource of a kind is held. -/
def uClaimOn (s : State) (kind : Nat) : Bool :=
  (heldClaims s).any (fun c => c.2.act.cls = 1 && c.2.act.resource.any (fun r => r.1 = kind))

/-- The entries beyond 262,144 a slot that the slots have sent through one exit port in their scans, at the port with most (05 R152). -/
def exitOver (s : State) : Nat :=
  ((List.range 8).map (fun st => ((s.sel.scanEnts.filter (fun e => e.1 / 32 = st)).map (fun e => e.2 - 262144)).foldl (· + ·) 0)).foldl max 0

/-- The module bound in ns, rounded up (R516). -/
def moduleBound (s : State) : Nat :=
  let pm := min s.pwr.pace.toNat 1024
  let scan := max (sweepTerm s) (lapTerm s * sweepDen)
  let extra := (if s.maint.swapBack.isSome then 400000 else if uClaimOn s 1 then 50000 else 0) + (if uClaimOn s 6 then 100000 else 0)
  ceilDiv ((120000 * sweepDen + scan) * 8192 + 5 * exitOver s * pm * sweepDen) (8 * pm * sweepDen) + 4230000 + extra

/-- 15 R516: the bound is computed anew; there is none before the first pace sample. -/
def execBoundRecompute (s : State) : Host.Outcome State Fault Refusal :=
  .next (if s.pwr.pace = 0 then s else { s with pwr.bound := moduleBound s })

/-! ## Coolant, the bank, the histogram -/

/-- 16 R541: the flow in 10 mL/min; ten samples make 1 s. -/
def execFlowSample (flow : BitVec 16) (s : State) : Host.Outcome State Fault Refusal :=
  let f := flow.toNat
  let t := s.therm
  let low := streak 10 (decide (f < 320)) t.lowFlow
  let very := streak 10 (decide (f < 200)) t.veryLow
  let ok := streak 10 (decide (320 ≤ f)) t.okFlow
  let s := { s with therm.flow := f, therm.lowFlow := low, therm.veryLow := very, therm.okFlow := ok }
  let say (s : State) (code : Nat) : State := postM s evCoolantFlow srcTherm noQueue f code 0
  let s := if low = 10 ∧ !t.flowPosted then say { s with therm.flowPosted := true } 0 else s
  let s := if very = 10 ∧ t.veryLow < 10 then startProtect (say s 1) true else s
  .next (if ok = 10 ∧ t.flowPosted then say { s with therm.flowPosted := false } 2 else s)

/-- 15 R571: the bank reaches 42.0 V. -/
def execBankCharged (s : State) : Host.Outcome State Fault Refusal :=
  .next (if s.hold.charged || s.hold.connected = 0 then s else chargeBank s)

/-- 14 R507: each group's bin of 5 °C is counted; the second is the model's time base (log 4). -/
def execThermalHistogramSample (s : State) : Host.Outcome State Fault Refusal :=
  let therm := (List.range 16).foldl (fun t g =>
    if groupFailed s g then t else Tab.mod 0 t (g * 32 + min 31 (groupTemp s g / 5)) (· + 1)) s.life.now.therm
  .next { s with secs := s.secs + 1, life.now.poh := s.life.now.poh + 1, life.now.therm := therm }

/-- 14 R507: the lifetime counters are written to flash. -/
def execCounterFlush (s : State) : Host.Outcome State Fault Refusal := .next { s with life.stored := s.life.now }

end Sys2Proof.Machine
end

