-- ==== Sys2Proof/Machine/Startup.lean ====
section
/-! DEFINITION. Start-up, resets and the hold-up save (15 R528-R530, 16 R556-R568, 13 Table 13.6): cold start and FULL restart,
WARM reset, the exit from Vigil, the watchdog, the scan-form reload. -/

namespace Sys2Proof.Machine

def evResetCause : Nat := 0x0301
def evWatchdog : Nat := 0x0304
def evSaveReport : Nat := 0x0211

/-! ## Firmware at boot (13 R448, 14 R490) -/

/-- A unit with no image that may run stays stopped. -/
def stopUnit (s : State) (part unit : Nat) : State :=
  match part with
  | 1 => s.modEngine unit (fun g => { g with drain := true, isDrained := true, permanent := true })
  | 2 => s.modWeevil unit (fun w => { w with passThrough := true })
  | 3 => bypassChannel s unit
  | 4 => { s with warden.romOnly := true }
  | p => { s with mod.stoppedUnits := s.mod.stoppedUnits ++ [stoppedId p unit] }

/-- An image may start a part; at a WARM reset it is checked against the digests recorded on approval as well (16 Table 16.6). -/
def mayBoot (s : State) (part : Nat) (image : List Byte) : Bool :=
  mayRun s part image && (s.mod.lastKind ≠ 2 || image.isEmpty || s.warden.digests.contains (Config.shake256 image))

/-- A unit starts from the firmware store. -/
def bootUnit (s : State) (part unit : Nat) : State :=
  if mayBoot s part (unitImage s part unit) then
    match part with
    | 1 => s.modEngine unit (fun g => { g with ucode := (unitVersion s 1 unit).truncate 16 })
    | 2 => s.modWeevil unit (fun w => { w with ucode := (unitVersion s 2 unit).truncate 16 })
    | 3 => s.modChannel unit (fun c => { c with fw := (unitVersion s 3 unit).truncate 16 })
    | _ => s
  else stopUnit s part unit

/-- Every unit outside the warden and the cores starts (Table 13.6 step 4). -/
def bootUnits (s : State) : State := [1, 2, 3, 5, 6, 7].foldl (fun s p => (unitsOf p).foldl (fun s u => bootUnit s p u) s) s

/-- Core boot firmware takes effect, if it may run. -/
def bootCores (s : State) : State :=
  if mayBoot s 8 (imageOf s 8) then { s with mod.coreFw := partVersion s 8 } else stopUnit s 8 0

/-! ## The warden's boot (13 Table 13.6, R453) -/

def imageDigest (s : State) (part : Nat) : BitVec 256 :=
  if (imageOf s part).isEmpty then Config.factoryDigest part else Config.shake256 (imageOf s part)

/-- Digest of the approval list, in the layout of Table 13.3. -/
def approvalsDigest (s : State) : BitVec 256 :=
  Config.shake256 (((s.warden.policy.map (·.approvals)).getD []).flatMap (fun a =>
    leBytes 32 a.meas.toNat ++ leBytes 4 a.handle.toNat ++ leBytes 1 a.kind ++ leBytes 1 (b2n a.sealedOk) ++ zeros 2))

/-- Measurement registers of a boot. -/
def measureBoot (s : State) : State :=
  let s := extendMr (extendMr { s with warden.mrs := [] } 0 Config.romDigest) 1 (imageDigest s 4)
  let s := match s.warden.policy with
    | some p => extendMr s 2 p.digest
    | none => s
  let s := extendMr (extendMr (extendMr (extendMr s 3 (imageDigest s 1)) 4 (imageDigest s 2)) 5 (imageDigest s 3)) 6 (imageDigest s 5)
  extendMr (extendMr (extendMr (extendMr s 7 (imageDigest s 6)) 7 (imageDigest s 7)) 8 (imageDigest s 8)) 9 (approvalsDigest s)

/-- The signature index of a boot (R453). -/
def restoreIndex (s : State) : State :=
  let w := s.warden
  let next := match w.savedSig with
    | some (n, b) => if b = w.sigBoot ∧ n ≤ w.sigEnd then n else w.sigEnd
    | none => w.sigEnd
  { s with warden.sigNext := next, warden.sigEnd := next + 1024, warden.sigBoot := s.life.boot, warden.savedSig := none }

/-- The warden restarts from ROM: the accepted policy is in force whole, calendar, challenges, sessions and debug are gone. -/
def wardenBoot (s : State) : State :=
  let s := { s with life.boot := s.life.boot + 1 }
  let s := { s with
    warden.policy := if s.warden.nextPolicy.isSome then s.warden.nextPolicy else s.warden.policy
    warden.locks := []
    warden.buf := 0
    warden.request := none
    warden.result := 0
    warden.rlen := 0
    warden.challenges := []
    warden.calendar := none
    warden.tseq := none
    warden.kem := s.warden.kem + 1
    warden.keys := []
    warden.handover := false
    warden.debugOpen := false
    warden.scrub := false
    warden.lease := 0
    warden.sealedOff := false
    warden.debugSinceBoot := false
    warden.tamper := 0
    warden.tamperSinceBoot := false
    warden.romOnly := false
    warden.ksKey := rootKey "KS" [] 32
    warden.jnlKey := rootKey "JNL" [] 64 }
  let s := if mayRun s 4 (unitImage s 4 0) then s else { s with warden.romOnly := true }
  measureBoot (restoreIndex s)

/-- A cold start counts the rows of hard repairs as part of the array: they are retired no longer (14 R506). -/
def countFused (s : State) : State :=
  let back := s.alloc.fused.filter (fun id => s.alloc.retiredRows.contains id)
  let s := back.eraseDups.foldl (fun s id => s.modPch (id / 2 ^ 21) (fun p => { p with retiredRows := p.retiredRows - 1 })) s
  { s with alloc.retiredRows := s.alloc.retiredRows.filter (fun id => !back.contains id), alloc.fused := [] }

/-- The region table of the boot, and the owner's locks; rows retired in a region's extents are poisoned (14 R498). -/
def loadPolicy (s : State) : State :=
  let new := regionsFor s.warden.policy s.alloc.plainGone
  let s := { zeroReleased s new with hbm.regions := new }
  let s := s.alloc.retiredRows.foldl (fun s id =>
    poisonRow s (placeOf (id / 2 ^ 26) (id / 2 ^ 21 % 32) (id % 2 ^ 21 * 1024))) s
  applyLocks s ((s.warden.policy.map (·.locks)).getD [])

/-! ## HBM training (step 4, 14 R505) -/

/-- A retired stack is tested again; how the test ends is a value that no rule gives (log 5). -/
def retestStack (s : State) (n : Nat) : State :=
  if (s.ctl n).retired && (List.range 16).all (fun c => decide (Tab.get 0 (s.ctl n).lanes c < 2)) then
    let (x, s) := s.draw
    if x % 2 = 1 then s.modCtl n (fun c => { c with retired := false }) else s
  else s

def retestPc (s : State) (p : Nat) : State :=
  if (s.pch p).retired && !(s.ctl (p / 32)).retired
      && (List.range 48).all (fun b => decide ((bankAt s (bankKey (p / 32) (p % 32) b)).spares < 8)) then
    let (x, s) := s.draw
    if x % 2 = 1 then s.modPch p (fun c => { c with retired := false }) else s
  else s

/-- Banks of a scan pseudo-channel that no region extent lies in; none at all where one of those that a Weevil needs is not among
them. -/
def bootBanks (s : State) (p : Nat) : BitVec 48 :=
  if s.hbm.regions.any (fun e => e.2.any (fun g => g.stackList.contains (p / 32))) then
    let m := (List.range 48).foldl (fun (m : BitVec 48) b => if regionIn s p (1#48 <<< b) then m else m ||| (1#48 <<< b)) 0
    if m &&& fixedBanks = fixedBanks then m else 0
  else BitVec.allOnes 48

/-- The scan stacks enter scan mode; a retired pseudo-channel stays out, its Weevil at pass-through. -/
def trainPc (s : State) (p : Nat) : State :=
  if (s.pch p).retired || (s.ctl (p / 32)).retired then s.modWeevil p (fun v => { v with passThrough := true })
  else
    let m := bootBanks s p
    s.modPch p (fun c => { c with banks := m, scan := m ≠ 0 })

/-- Failing lanes of a stack's channels are remapped onto their spares; one with no spare left retires the stack (10 R335). Which
lanes fail is a value that no rule gives (log 5). -/
def trainLanes (s : State) (n : Nat) : State :=
  let (x, s) := s.draw
  let fails (c : Nat) : Nat := x / 4 ^ c % 4
  s.modCtl n (fun k => { k with
    lanes := (List.range 16).foldl (fun t c => Tab.mod 0 t c (fun u => min 2 (u + fails c))) k.lanes
    retired := k.retired || (List.range 16).any (fun c => decide (2 < Tab.get 0 k.lanes c + fails c)) })

/-- A plain stack that training has retired is emptied as in 14 R502. -/
def leavePlain (s : State) (st : Nat) : State :=
  if (s.ctl st).retired && !s.alloc.plainGone.contains st then (emptyPlain s st).getD s else s

/-- The training that every start makes: lanes are remapped and scan stacks enter scan mode. What is retired stays so (14 R505). -/
def retrain (s : State) : State :=
  let s := [8, 9, 10, 11].foldl leavePlain ((List.range 12).foldl trainLanes { s with hbm.serviceStopped := false })
  (List.range 256).foldl trainPc s

/-- The region table follows from the plain stacks that training has left retired. -/
def settleRegions (s : State) : State :=
  let gone := s.alloc.plainGone.filter (fun st => (s.ctl st).retired)
    ++ [8, 9, 10, 11].filter (fun st => (s.ctl st).retired && !s.alloc.plainGone.contains st)
  if gone = s.alloc.plainGone then s
  else { s with alloc.plainGone := gone, hbm.regions := regionsFor s.warden.policy gone }

/-- Training of a cold start: retired stacks are tested again, lanes are remapped, retired pseudo-channels are tested again, scan stacks enter scan
mode. A lane failure with no spare left retires its stack after its test. -/
def train (s : State) : State :=
  let s := (List.range 12).foldl retestStack { s with hbm.serviceStopped := false }
  let s := settleRegions ((List.range 384).foldl retestPc ((List.range 12).foldl trainLanes s))
  (List.range 256).foldl trainPc s

/-! ## Replay (step 5, 02 R37, R52, 06 R211) -/

/-- A collection after replay: not searchable until reloaded; its key pair is derived again and loaded unless it may not be. -/
def mountColl (s : State) (cid : Nat) (c : Coll) : Coll :=
  let keyed := !c.sealed || !(s.warden.sealedOff || s.warden.erased || s.warden.debugOpen)
  { c with
    searchable := false
    flashOnly := false
    keyed := keyed
    key := if keyed then collKey s cid c.createCsn c.sealed else [] }

/-- Live collections in the order of reload: descending COLL_PRIORITY, then ascending CID (R562). -/
def reloadOrder (s : State) : List W16 :=
  (byPriority (s.corpus.colls.filterMap (fun e => e.2.bind (fun c =>
    if c.destroyed.isNone && !c.flashOnly && c.keyed then some (e.1, c) else none)))).map (BitVec.ofNat 16)

/-- Collections that no scan space can take are flash-only (14 R504). -/
def fitAll (s : State) : State :=
  let out := s.corpus.colls.filterMap (fun e => e.2.bind (fun c => if c.destroyed.isNone && strandedColl s e.1 then some (e.1, c) else none))
  let s := out.foldl (fun s e => collEvent (s.setColl e.1 (some { e.2 with flashOnly := true })) evFlashOnly srcMaintBlock e.1) s
  fitScan (outOrder s) s

/-- The flash is mounted and the corpus stands in the allocator's map again, its reload still to come; the hold-up save area has its
pre-erased superblocks again (06 Table 6.2). -/
def mount (s : State) : State :=
  let m := s.flash.map
  let s := { s with corpus := { m with sides := retimed s m.sides, colls := m.colls.map (fun e => (e.1, e.2.map (mountColl s e.1))) } }
  let s := fitAll s
  { s with mod.reload := reloadOrder s, flash.preErased := 2,
           flash.imgs := s.flash.imgs.filter (fun e => m.blocks.any (fun b => b.2.any (fun b => b.img = some e.1))) }

/-- The end of the last CSN range recorded in flash. -/
def recorded (s : State) : Nat :=
  match s.csn.nextRange with
  | some (r, true) => r
  | _ => s.csn.rangeEnd

/-- The CSNs of a boot: CSN_CURRENT as replay restores it, the next above the last range recorded, whose successor is recorded now. -/
def restartCsn (s : State) (current : Nat) : State :=
  let last := recorded s
  { s with csn := { s.csn with current := current, next := last + 1, rangeEnd := last + rangeLen, nextRange := none, table := [], mirrors := [] } }

/-- Service begins: the QAU accepts commands, unless the warden is in ROM or the QAU is stopped. -/
def serve (s : State) : State :=
  { s with mod.accepting := !s.warden.romOnly, mod.phase := if s.warden.romOnly then 0 else if s.mod.reload.isEmpty then 5 else 4 }

/-! ## The hold-up save (15 R528-R530) -/

/-- A save saves only the counters and the signature index: in Vigil, or before step 5 has ended (R529, 16 R563). -/
def shortSave (s : State) : Bool := s.pwr.state = 4 || decide (s.mod.phase < 4)

/-- MiB of the save set: the journal tail and 16 bytes, with map deltas of at most 16 MiB and counters of at most 64 KiB, whose size
no rule gives (log 5). -/
def saveSize (s : State) : Nat × State :=
  let (x, s) := s.draw
  if shortSave s then (1, s) else (ceilDiv (tailBytes s + 16 + x % (16842752 + 1)) 1048576, s)

/-- What the save set brings back at the next start: everything up to CSN_CURRENT. -/
def saveCorpus (s : State) : State :=
  { s with flash.map := snapshot s s.csn.current, flash.mapCsn := s.csn.current, flash.programmed := s.flash.jsn, flash.tail := []
           csn.nextRange := s.csn.nextRange.map (fun r => (r.1, true)) }

/-- The save: `stored` tells whether its trailer is valid at the next start. Duration and energy within the bounds of R528, R529
are free; the save of a FULL reset draws no bank energy (16 R558). -/
def save (s : State) (stored fromInput : Bool) : State :=
  let short := shortSave s
  let (mib, s) := saveSize s
  let (us, s) := s.draw
  let (e, s) := s.draw
  let s := { s with
    hold.saveMib := mib
    hold.saveUs := us % (if short then 3001 else 12001)
    hold.saveEnergy := if fromInput then 0 else e % (if short then 501 else 3501)
    hold.saveValid := true
    hold.saveUsed := stored
    hold.saveBoot := s.life.boot
    hold.saveLife := if stored then some s.life.now else none
    hold.reportDue := true
    flash.preErased := s.flash.preErased - 1
    warden.savedSig := if stored then some (s.warden.sigNext, s.life.boot) else none }
  if short then s else if stored then saveCorpus s else { s with flash.tail := [], flash.programmed := s.flash.jsn }

/-- Every rail but the meter's is removed; pins are held until the start that releases them. The warden signs nothing after the save (13
R453). -/
def railsOff (s : State) : State :=
  let s := endContexts s
  let t := blocksOff s
  { t with csn.pins := s.csn.pins, mod.pwrgd := false, mod.phase := 0, warden.request := none, pwr := { Pwr.initial with railMv := 0 } }

/-- 15 R528: the hold-up save; the bank is left at a voltage that no rule gives. -/
def execHoldupSave (_c : SaveCause) (stored : Bool) (s : State) : Host.Outcome State Fault Refusal :=
  .next (if !s.mod.pwrgd then s
    else
      let s := railsOff (save s stored false)
      let (v, s) := s.draw
      { s with hold.bankMv := v % 4201, hold.charged := false, hold.below := true, hold.testing := 0, hold.connected := 0 })

/-! ## Cold start and FULL restart (16 R561) -/

/-- HOLD_SAVE (15). -/
def holdSaveReg (s : State) : Nat :=
  field s.hold.saveMib 48 16 + field s.hold.saveEnergy 32 16 + field s.hold.saveUs 16 16 + 2 * b2n s.hold.saveUsed + b2n s.hold.saveValid

/-- The bank at step 1: every section is in it and untested in this boot; after a power loss it has to be charged (R571). -/
def bankStart (s : State) (cold : Bool) : State :=
  { s with hold.connected := 63, hold.sects := [], hold.nextTest := 0, hold.testing := if cold then 0 else s.hold.testing,
           hold.charged := s.hold.charged && !cold, hold.below := s.hold.below || cold }

/-- Counters that the start finds: those of the save set, else those last written to flash (14 R507). -/
def restoreLife (s : State) : State :=
  let kept := s.hold.saveLife.getD s.life.stored
  { s with life.now := kept, life.stored := kept, hold.saveLife := none }

/-- Registers of every block at their reset values, but those that a restart keeps. -/
def resetBlocks (s : State) : State :=
  let s := blocksOff s
  { s with
    qau := Qau.initial
    links := Links.initial
    hbm.ctls := Tab.mapAll Stack.initial (fun c => { c with temp := 0, level := 0, cool := [], hot := false }) s.hbm.ctls
    pwr := Pwr.initial
    therm := ⟨[], 0, 0, 0, 0, 0, false⟩
    life.selKind := 0
    life.selIndex := 0
    mod := { Mod.initial with lastKind := s.mod.lastKind, lastCause := s.mod.lastCause } }

/-- The m events of a start: its cause, the end of debug, the save, the pins released (R565, 13 R476, 15 R537, 02 R60). -/
def startEvents (s : State) (debug : Bool) : State :=
  let s := postM s evResetCause srcMod noQueue s.mod.lastKind s.mod.lastCause 0
  let s := if debug then postM s evDebugOff srcWarden noQueue 2 0 0 else s
  let s := if s.hold.reportDue then postM { s with hold.reportDue := false } evSaveReport srcHold noQueue (holdSaveReg s) 0 0 else s
  noteBank (releasePins s)

/-- What follows the warden's own start: the other units, the policy, training and replay. -/
def bootRest (s : State) : State :=
  let t := train (loadPolicy (bootCores (bootUnits s)))
  restartCsn (mount t) t.flash.mapCsn

/-- Steps 1 to 5 of Table 16.7 (kind 0 COLD, 1 FULL). With the warden in ROM nothing else is started (13 R448),
and a fuse array whose check fails stops the boot at the warden's step 1 (R477). -/
def restart (s : State) (kind cause : Nat) : State :=
  let pins := s.csn.pins
  let debug := s.warden.debugOpen
  let t := resetBlocks s
  let t := { t with mod.lastKind := kind, mod.lastCause := cause, mod.startKind := kind, mod.pwrgd := true, csn.pins := pins }
  let t := restoreLife (bankStart t (kind = 0))
  let t := if kind = 0 then countFused t else t
  if t.warden.fuseFail then { wardenBoot t with warden.romOnly := true } else
  let t := wardenBoot t
  noteStart (startEvents (serve (if t.warden.romOnly then t else bootRest t)) debug)

/-- 16 R561: the input meets the start threshold, with no rail up. After a save the cause may be power, or an input that recovered
during it (R556). -/
def execColdStart (s : State) : Host.Outcome State Fault Refusal :=
  .next (if s.mod.pwrgd then s
    else
      let (x, s) := s.draw
      meterUp (restart s 0 (if s.hold.reportDue && x % 2 = 1 then 5 else 0)))

/-- Codes of LAST_CAUSE. -/
def causeCode : ResetCause → Nat
  | .resetN => 1
  | .modRst => 2
  | .management => 3
  | .watchdog => 4

/-- A reset request is accepted (MOD_RST.LOCK, MGMT_CFG). -/
def resetAllowed (s : State) (c : ResetCause) (lock : Bool) : Bool :=
  s.mod.pwrgd && (match c with
    | .modRst => !s.mod.rstLock
    | .management => !lock
    | _ => true)

/-- The answer to the management command RESET (Table 16.4): 1 accepted, 0 refused (log 6). -/
def resetSaid (s : State) (c : ResetCause) (ok : Bool) : State :=
  if c = .management then { s with rsp := .value (if ok then 1 else 0) } else s

/-- A hand-over of Syeno that runs comes to its end; a reset waits for it (R560, 14 R495). -/
def handoverEnds (s : State) : State :=
  if !s.warden.handover then s
  else match (heldClaims s).find? (fun c => c.2.state = 1 && updating (fun p _ => p = 4) c) with
    | none => s
    | some (n, c) =>
      match c.act with
      | .update _ u rest image k => answerBad (endUpdate s n c 4 u rest image k)
      | _ => s

/-- A FULL reset: the save from the input, then the restart. -/
def full (s : State) (cause : Nat) : State := restart (railsOff (save (handoverEnds s) true true)) 1 cause

/-- A cold start or FULL restart is in progress: the warden is in ROM, and the QAU has not accepted a command since (R560). -/
def starting (s : State) : Bool := s.warden.romOnly && s.mod.lastKind ≠ 2

/-- 16 R558: FULL reset; the watchdog asks for none. -/
def execFullReset (c : ResetCause) (s : State) : Host.Outcome State Fault Refusal :=
  let ok := resetAllowed s c s.links.fullLock && c ≠ .watchdog
  .next (resetSaid (if ok && !starting s then full s (causeCode c) else s) c ok)

/-! ## The exit from Vigil (16 R564, R572) -/

/-- Steps 4 to 8 of Table 16.7: the boot goes on, with no new measurement. -/
def leaveVigil (s : State) : State :=
  let s := { s with pwr.state := 0, pwr.target := 0, pwr.entering := false, pwr.byProtect := false, pwr.railMv := runRail s,
                    mod.startKind := 6, mod.kept := none, mod.startPosted := false }
  let s := retrain (loadPolicy (bootUnits s))
  noteStart (postM (serve (mount s)) evPowerState srcPwr noQueue 0 0 0)

/-- 16 R564: a wake request leaves Vigil; the answer is the state reached (log 6). Protective Rest holds the exit (15 R524). -/
def execWake (s : State) : Host.Outcome State Fault Refusal :=
  let s := if s.pwr.state = 4 && !s.pwr.protect && s.mod.pwrgd then leaveVigil s else s
  .next { s with rsp := .value (BitVec.ofNat 64 s.pwr.state) }

/-! ## WARM reset (16 R557, R568, 12 R436) -/

/-- The completions with ABORTED of the commands in flight on a queue: those with a completion not yet in the ring, its results as
they stand, and those fetched, with the results of Table 12.12 (zero for one that carries an envelope, R427). -/
def inFlight (s : State) (q : Nat) (x : Queue) : List (BitVec 256) :=
  (x.held.filterMap (fun r => r.done.map (fun _ => BitVec.ofNat 256 (setBits r.bytes.toNat 112 8 stAborted))))
  ++ ((s.qau.cmds.filter (fun c => c.queue = q)).map (fun c =>
    if c.plain.isSome then completionBytes c.queue c.tag stAborted 0 0 0 0 c.user
    else completionBytes c.queue c.tag stAborted c.r0 c.r1 (if c.delayed then 0x80 else 0) c.wait c.user))

/-- A queue after a WARM reset: disabled, its rings and settings kept; its q backlog is dropped. -/
def warmQueue (s : State) (q : Nat) (x : Queue) : Queue :=
  { Queue.initial with
    intv := x.intv, ien := x.ien, cqLog2 := x.cqLog2, sqLog2 := x.sqLog2, maint := x.maint, sqBase := x.sqBase, cqBase := x.cqBase,
    lost := x.lost + x.backlog, atReset := x.atReset ++ inFlight s q x }

def warmQau (s : State) : Qau :=
  let qs := s.qau.queues.foldl (fun t e => Tab.set Queue.initial t e.1 (warmQueue s e.1 e.2)) s.qau.queues
  { s.qau with queues := qs, cmds := [], irqs := [], evdrop := min 65535 ((s.qau.queues.map (fun e => e.2.backlog)).foldl (· + ·) 0) }

/-- Engines keep ENG_CTL; everything they run has ended (11 R393). -/
def warmEng (s : State) : Eng :=
  { Eng.initial with
    engines := Tab.mapAll Engine.initial (fun g => { Engine.initial with ucode := g.ucode, drain := g.drain, lapok := g.lapok }) s.eng.engines
    nextGroup := s.eng.nextGroup, resvA := s.eng.resvA, resvB := s.eng.resvB, floors := s.eng.floors, freeMin := s.eng.freeMin,
    preemptUs := s.eng.preemptUs }

def warmReel (s : State) : Reel :=
  { Reel.initial with
    pauseMax := s.reel.pauseMax, dshare := s.reel.dshare, mode := s.reel.mode, cfg := s.reel.cfg
    weevils := Tab.mapAll Weevil.initial (fun v => { Weevil.initial with ucode := v.ucode, passThrough := v.passThrough }) s.reel.weevils }

/-- Controllers keep training, remap state and modes; their counts and logs start again. -/
def warmHbm (s : State) : Hbm :=
  { s.hbm with
    ctls := Tab.mapAll Stack.initial (fun c => { c with
      ce := 0, ue := 0, mis := 0, dieCe := 0, dieUe := 0, poison := 0, accErr := 0, logClass := 0, logCause := 0, logDpa := 0,
      pending := [], engFence := [] }) s.hbm.ctls
    pchs := Tab.mapAll Pch.initial (fun p => { p with pendingChange := false, zeroing := false, nextBanks := 0, wbuf := 0, postponed := 0 }) s.hbm.pchs }

/-- RoCEv2 and PCIe function state are lost; data ports and the management port stay up. -/
def warmLinks (s : State) : Links :=
  { s.links with regs := [], received := [], flrs := 0, pcieUp := false, pcieWidth := 0, pcieGen := 0, msixOn := [], msixTable := [], msixPend := [],
                 msixSent := [] }

/-- The power controller keeps PWR_CFG and its readings; the module restarts in Run. -/
def warmPwr (s : State) : Pwr :=
  { s.pwr with state := 0, target := 0, entering := false, byProtect := false, withheld := false, owner := none, after := none,
               railMv := if s.pwr.state ≤ 1 then s.pwr.railMv else runRail s }

/-- The corpus as the replay of the HBM journal leaves it (Table 16.6 step 5), every block swept and sound. -/
def warmCorpus (s : State) : Corpus :=
  let m := snapshot s s.csn.current
  { m with sides := retimed s m.sides }

/-- A block does not pass the verification sweep of a WARM reset: it stood quarantined, or a signature of it fails. -/
def sweepFails (b : Block) : Bool := hQuar b.hdr || sigFails b .none (hGroups b.hdr)

/-- Step 6 of a WARM reset: each block that fails is reloaded under 04 R139; one that no image brings back stays quarantined. `s`: the
state before the reset. -/
def verifyBlocks (s t : State) : State :=
  t.corpus.blocks.foldl (fun t e => match e.2, s.block e.1 with
    | some b, some b0 =>
      if sweepFails b0 then
        let t := imageRead t b
        (match imageUnder t b with
         | some i => t.setBlock e.1 (some (reloaded b i))
         | none => t.setBlock e.1 (some { b with hdr := hSign (hSetFlag b.hdr 2 true) }))
      else t
    | _, _ => t) t

/-- Steps 1 to 7 of Table 16.6. -/
def warm (s : State) (cause : Nat) : State :=
  let s := endContexts (handoverEnds s)
  let t := { s with
    qau := warmQau s
    corpus := warmCorpus s
    flash.tail := s.flash.tail.map (fun e => { e with cmd := none })
    flash.channels := Tab.mapAll Channel.initial (fun c => { c with
      state := if c.state = 2 then 2 else 0, corrHi := 0, retry := 0, recon := 0, excl := 0, keys := c.state ≠ 2, jobs := [],
      results := [] }) s.flash.channels
    reel := warmReel s
    sel := Sel.initial
    hbm := warmHbm s
    eng := warmEng s
    maint := { claims := sectionTest s, drops := 0, refused := 0, weevilSlots := [], swapBack := none }
    pwr := warmPwr s
    therm.groups := Tab.mapAll Group.initial (fun g => { g with peak := 0 }) s.therm.groups
    links := warmLinks s
    warden.handover := false
    mod := { s.mod with lastKind := 2, lastCause := cause, stoppedUnits := [], accepting := !s.hbm.serviceStopped && !s.warden.romOnly } }
  let t := verifyBlocks s (bootCores (bootUnits t))
  let t := applyLocks t ((t.warden.policy.map (·.locks)).getD [])
  let t := postM (restartCsn t s.csn.current) evResetCause srcMod noQueue 2 cause 0
  let t := noteBank (endDebug (endHolders t) 2)
  if t.pwr.protect then startEntry t 2 none none true else t

/-- A WARM reset is carried out, in Vigil as the exit of R564; none while a start is in progress (R560). -/
def warmOrWake (s : State) (cause : Nat) : State :=
  if s.pwr.state = 4 then (if s.pwr.protect then s else leaveVigil s)
  else if s.mod.accepting || s.hbm.serviceStopped then warm s cause
  else s

/-- 16 R557: WARM reset; RESET_N asks for none. -/
def execWarmReset (c : ResetCause) (s : State) : Host.Outcome State Fault Refusal :=
  let ok := resetAllowed s c s.links.warmLock && c ≠ .resetN
  .next (resetSaid (if ok then warmOrWake s (causeCode c) else s) c ok)

/-- 16 R559: a control unit has missed its heartbeats for 100 ms: a WARM reset and an event, three times within an hour; after
that the unit stays stopped. -/
def execWatchdog (u : Fin 7) (s : State) : Host.Outcome State Fault Refusal :=
  let recent := s.mod.watchdogs.filter (fun t => decide (s.secs - t < 3600))
  .next (if !(s.mod.accepting || s.hbm.serviceStopped) || s.pwr.state = 4 || s.mod.stoppedUnits.contains u.val then s
    else if 3 ≤ recent.length then { s with mod.watchdogs := recent, mod.stoppedUnits := s.mod.stoppedUnits ++ [u.val] }
    else
      let s := warm { s with mod.watchdogs := recent ++ [s.secs] } 4
      postM s evWatchdog srcMod noQueue u.val (recent.length + 1) 0)

/-- 16 R556: the operator OS restarts the cores alone. -/
def execCoreRestart (s : State) : Host.Outcome State Fault Refusal := .next (bootCores s)

/-! ## Scan-form reload (R562) -/

/-- The blocks of a collection are read from their scan-form images, their headers from the allocator map (R562, 04 R139). -/
def reloadBlocks (s : State) (cid : Nat) : State :=
  s.corpus.blocks.foldl (fun s e => match e.2 with
    | none => s
    | some b => if hCid b.hdr = cid then
        let s := imageRead s b
        (match imageUnder s b with
         | none => s
         | some i => s.setBlock e.1 (some (reloaded b i)))
      else s) s

/-- 16 R562: the collection in turn is reloaded whole and becomes searchable; protective Rest and every state but Run hold the
reload. One that is no longer to be reloaded leaves the order. -/
def execScanFormReload (cid : BitVec 16) (s : State) : Host.Outcome State Fault Refusal :=
  .next (match s.mod.reload with
    | [] => s
    | x :: rest =>
      if x ≠ cid || !s.mod.accepting || s.pwr.state ≠ 0 || s.pwr.protect then s
      else
        let s := reloadBlocks s cid.toNat
        let t := { s with mod.reload := rest, mod.phase := if rest.isEmpty then 5 else s.mod.phase }
        noteStart (match s.coll cid.toNat with
          | some c =>
            if c.destroyed.isNone && !c.flashOnly && c.keyed then
              collEvent (t.setColl cid.toNat (some { c with searchable := true })) evSearchable srcMaintBlock cid.toNat
            else t
          | none => t))

end Sys2Proof.Machine
end

