-- ==== Sys2Proof/Machine/Window.lean ====
section
/-! DEFINITION. The commands of a Weevil's window (04 R133-R142): the v2 commands of Table 4.10 and the V1 area. Where Table 4.10
gives operands no place, they stand from byte 8 of the entry on in the order in which the table names them (log 12). -/

namespace Sys2Proof.Machine

/-! ## The command at the front -/

/-- The entry at the front of Weevil `w`'s window, if its OPCODE is `op`: requester and bytes. -/
def winFront (s : State) (w op : Nat) : Option (Nat × List Byte) :=
  match (s.weevil w).accepted with
  | (_, r, bs) :: _ => if byteAt bs 0 = op then some (r, bs) else none
  | [] => none

/-- What a window command answers. -/
structure WinAnswer where
  s : State
  status : Nat
  result : Nat
  body : List Byte
  deriving DecidableEq, Repr

def winSay (s : State) (status : Nat) : WinAnswer := ⟨s, status, 0, []⟩

/-- The front command with opcode `op` from a requester of the table runs and is answered; another requester is DENIED (R136). -/
def runWindow (s : State) (w op : Nat) (rs : List Nat) (run : State → List Byte → WinAnswer) : State :=
  if asleep s then s else
  match winFront s w op with
  | none => s
  | some (r, bs) =>
    if rs.contains r then
      let a := run s bs
      respond a.s w a.status a.result a.body
    else respond s w winDenied 0 []

def arg0 (bs : List Byte) : Nat := le bs 4 4

/-- `n` bytes of the DATA area from offset `o` on; none beyond its end. -/
def dataBytes (s : State) (w o n : Nat) : Option (List Byte) :=
  if o + n ≤ winV1 - winData then some (s.bytes (windowBase w + winData + o) n) else none

/-! ## Headers and lists -/

/-- Header bytes under the mask, whose bit i stands for bytes 2i and 2i + 1 (log 12). -/
def maskBytes (old new : List Byte) (mask : Nat) : List Byte :=
  (List.range 128).map (fun i => if bit mask (i / 2) then new.getD i 0 else old.getD i 0)

/-- The first row of a pseudo-channel's row area stands at this offset (Table 4.1). -/
def rowArea : Nat := 0x2800000

/-- The records that a block's rows hold in memory (Table 4.3). -/
def rowRecords (s : State) (w : Nat) (h : Header) : List ScanRec :=
  recordsFrom h (fun o => s.byte (placeOf (w / 32) (w % 32) (1024 * hRow h) + o))

/-- Two headers name the same rows in the same layout. -/
def sameRows (a b : Header) : Bool := hRow a = hRow b && hFormat a = hFormat b && hGroups a = hGroups b

/-- The records of a header's rows: of a held block with those rows first, then as memory holds them. -/
def recordsOf (s : State) (w : Nat) (h : Header) : List ScanRec :=
  let held := ((heldBlocks s w).find? (fun e => sameRows e.2.hdr h)).map (·.2.recs)
  let xs := (held.getD []).take (hCount h)
  xs ++ (rowRecords s w h).drop xs.length

/-- The byte of memory that the allocator finds at a DPA: a physical place, or data of a region. -/
def byteFor (s : State) (a : Nat) : Byte :=
  if isPlace a then s.byte a else ((regionOf s a).map (fun e => s.byte (locate e.1 e.2))).getD 0

/-- The identity line that a header names (04 R101): that of a held block with the same DPA, else as memory holds it, entry r in
bits 68r to 68r + 67. -/
def identLine (s : State) (w : Nat) (h : Header) : List (BitVec 68) :=
  match (heldBlocks s w).find? (fun e => hIdent e.2.hdr = hIdent h) with
  | some e => e.2.ident
  | none =>
    let x := ofLe ((List.range 2176).map (fun i => byteFor s (hIdent h + i)))
    (List.range (hCount h)).map (fun r => BitVec.ofNat 68 (bits x (68 * r) 68))

/-- The block that a header names: its rows and its identity line as they stand, and its entry of the refine extent table. -/
def freshBlock (s : State) (w : Nat) (h : Header) (extent : BitVec 128) : Block := ⟨h, recordsOf s w h, identLine s w h, extent, none⟩

/-- The header of a block, all zero where there is none. -/
def headerAt (s : State) (w h : Nat) : Header := ((s.block (blockKey w h)).map (·.hdr)).getD 0

/-- A header is written and signed again; where it names other rows, another count or another identity line, its block is what
stands there. -/
def putHeader (s : State) (w h : Nat) (x : Header) : State :=
  let x := hSign x
  let b := match s.block (blockKey w h) with
    | some b =>
      if sameRows b.hdr x && hCount b.hdr = hCount x && hIdent b.hdr = hIdent x then { b with hdr := x } else freshBlock s w x b.extent
    | none => freshBlock s w x 0
  s.setBlock (blockKey w h) (some b)

/-- Operands of HDR_WRITE; an index of 327,680 or above, or a DATA offset beyond its area, is BAD_CMD (log 26). -/
def runHdrWrite (w : Nat) (s : State) (bs : List Byte) : WinAnswer :=
  match decide (arg0 bs < 327680), dataBytes s w (le bs 16 4) 128 with
  | true, some new =>
    let old := leBytes 128 (headerAt s w (arg0 bs)).toNat
    winSay (putHeader s w (arg0 bs) (BitVec.ofNat 1024 (ofLe (maskBytes old new (le bs 8 8))))) winOk
  | _, _ => winSay s winBadCmd

/-- 04 R136: HDR_WRITE. -/
def execHdrWrite (w : WeevilId) (s : State) : Host.Outcome State Fault Refusal :=
  .next (runWindow s w.val 0x01 [3] (runHdrWrite w.val))

/-- Entries put into a list from position `i` on. -/
def putEntries (xs : List (BitVec 128)) (i : Nat) (new : List (BitVec 128)) : List (BitVec 128) :=
  let xs := xs ++ List.replicate (i + new.length - xs.length) 0
  xs.take i ++ new ++ xs.drop (i + new.length)

/-- Operands of EXCL_WRITE: header index in bytes 8-11, EXCL_N in 12, entries written in 13, the first one's place in 14, and
three entries of 16 bytes from byte 16 on. A list of 8,192 or above, an EXCL_N above 32, more than three entries or a place beyond
the list is BAD_CMD (log 26). -/
def runExclWrite (w : Nat) (s : State) (bs : List Byte) : WinAnswer :=
  let l := arg0 bs
  let h := le bs 8 4
  let n := byteAt bs 12
  let k := byteAt bs 13
  let i := byteAt bs 14
  match s.block (blockKey w h) with
  | none => winSay s winBadCmd
  | some b =>
    if l < 8192 ∧ n ≤ 32 ∧ k ≤ 3 ∧ i + k ≤ 32 then
      let new := (List.range k).map (fun j => BitVec.ofNat 128 (le bs (16 + 16 * j) 16))
      let xs := putEntries (Tab.get [] s.corpus.excl (exKey w l)) i new
      let s := setExcl s w l xs
      winSay (putHeader s w h (hset (hset b.hdr 32 2 l) 34 1 n)) winOk
    else winSay s winBadCmd

/-- 04 R136: EXCL_WRITE. -/
def execExclWrite (w : WeevilId) (s : State) : Host.Outcome State Fault Refusal :=
  .next (runWindow s w.val 0x02 [3] (runExclWrite w.val))

/-- 04 R136, 02 R48: SETTLE, at the CSN of bytes 8-15; BAD_CMD where the index has no block (log 26). -/
def execSettle (w : WeevilId) (s : State) : Host.Outcome State Fault Refusal :=
  .next (runWindow s w.val 0x03 [3] (fun s bs =>
    if (s.block (blockKey w.val (arg0 bs))).isSome then winSay (settleBlock s w.val (arg0 bs) (le bs 8 8)) winOk
    else winSay s winBadCmd))

/-- 04 R139, R140: REPAIR_READY: the reloaded copy is in service, REPAIRED set and QUARANTINED cleared (log 26), and is swept for
the slots that owe it. Of a header that is
absent or not quarantined it is BAD_CMD (log 26). -/
def execRepairReady (w : WeevilId) (s : State) : Host.Outcome State Fault Refusal :=
  .next (runWindow s w.val 0x04 [3] (fun s bs =>
    match s.block (blockKey w.val (arg0 bs)) with
    | none => winSay s winBadCmd
    | some b =>
      if hQuar b.hdr then
        let s := putHeader s w.val (arg0 bs) (hSetFlag (hSetFlag b.hdr 2 false) 3 true)
        winSay (s.modWeevil w.val (fun v => { v with repair := v.repair ++ [arg0 bs] })) winOk
      else winSay s winBadCmd))

/-! ## Pauses and microcode (R141, R142) -/

def setPaused (s : State) (w : Nat) (b : Bool) : State := s.modWeevil w (fun v => { v with paused := b })

/-- 04 R141: PAUSE. -/
def execPause (w : WeevilId) (s : State) : Host.Outcome State Fault Refusal :=
  .next (runWindow s w.val 0x08 [9] (fun s _ => winSay (setPaused s w.val true) winOk))

/-- 04 R141: RESUME. -/
def execWeevilResume (w : WeevilId) (s : State) : Host.Outcome State Fault Refusal :=
  .next (runWindow s w.val 0x09 [9] (fun s _ => winSay (setPaused s w.val false) winOk))

def evPauseTimeout : Nat := 0x0023

/-- 04 R141: a pause has lasted REEL_CTL.PAUSEMAX_US, and the Weevil resumes. -/
def execPauseTimeout (w : WeevilId) (s : State) : Host.Outcome State Fault Refusal :=
  .next (if (s.weevil w.val).paused then
      postM (setPaused s w.val false) evPauseTimeout (0x20 + w.val / 32) noQueue w.val 0 0
    else s)

/-- Operands of UCODE_STAGE: DATA offset in bytes 8-11, length in bytes 12-15; a length of 0 or above 64 KiB is BAD_CMD (log 26). -/
def runUcodeStage (w : Nat) (s : State) (bs : List Byte) : WinAnswer :=
  let n := le bs 12 4
  if n = 0 ∨ 65536 < n then winSay s winBadCmd
  else match dataBytes s w (le bs 8 4) n with
    | none => winSay s winBadCmd
    | some image =>
      if imageOk s 2 image then winSay (s.modWeevil w (fun v => { v with staged := some image })) winOk
      else winSay s winDenied

/-- 04 R142: UCODE_STAGE takes only an image that the warden has approved. -/
def execUcodeStage (w : WeevilId) (s : State) : Host.Outcome State Fault Refusal :=
  .next (runWindow s w.val 0x0A [9] (runUcodeStage w.val))

/-- 04 R142: UCODE_SWAP; all slot state and the walk position are kept. The swap empties the staged store (log 26), and with nothing
staged it is BAD_CMD (log 12). -/
def execUcodeSwap (w : WeevilId) (s : State) : Host.Outcome State Fault Refusal :=
  .next (runWindow s w.val 0x0B [9] (fun s _ =>
    match (s.weevil w.val).staged with
    | none => winSay s winBadCmd
    | some image => winSay (measureUnit (s.modWeevil w.val (fun v => { v with
        staged := none, image := some image, ucode := (Config.imageVersion image).truncate 16 })) 2 w.val image) winOk))

/-! ## STATE_READ and SELFTEST -/

/-- WDONE of a slot that is not sealed, 0 otherwise (R113). -/
def wdone (s : State) (n : Nat) : Nat :=
  let r := s.slot n
  if r.busy && r.loaded && !r.ctx.any (·.sealed) then
    ((List.range 256).filter (fun w => (Tab.get WSlot.free (s.weevil w).wslots n).phase = 3)).length
  else 0

/-- The answer to STATE_READ from byte 8 on: position, mode, throttle level, microcode version, WDONE of 9 bits a slot:
the layout is the model's choice (log 26). -/
def stateBody (s : State) (w : Nat) : List Byte :=
  let v := s.weevil w
  leBytes 4 v.pos ++ leBytes 1 (b2n v.paced) ++ leBytes 1 v.level ++ leBytes 2 v.ucode.toNat
    ++ leBytes 36 ((List.range 32).foldl (fun a n => a + field (wdone s n) (9 * n) 9) 0)

/-- 04 R136: STATE_READ. -/
def execStateRead (w : WeevilId) (s : State) : Host.Outcome State Fault Refusal :=
  .next (runWindow s w.val 0x10 [0, 1, 3, 9] (fun s _ => ⟨s, winOk, 0, stateBody s w.val⟩))

/-- 04 R136: SELFTEST of a Weevil; `result` is what the test finds. -/
def execWeevilSelftest (w : WeevilId) (result : W32) (s : State) : Host.Outcome State Fault Refusal :=
  .next (runWindow s w.val 0x18 [9] (fun s _ =>
    ⟨if result = 0 then s else askAuto s (.pcRetire w.val), winOk, result.toNat, []⟩))

/-! ## Direct scans (R136, R137) -/

/-- `n` bytes from offset `o` of pseudo-channel `w` lie in a direct-scan region, in the row area. -/
def dscanRegion (s : State) (w o n : Nat) : Bool :=
  decide (rowArea ≤ o ∧ o + n ≤ 0x46C80000)
  && s.hbm.regions.any (fun e => e.2.any (fun g => g.dscan && g.raw && g.interleave = 2 && g.pc = w % 32
    && g.stackList.headD 12 = w / 32
    && decide (g.first * extentBytes ≤ o ∧ o + n ≤ (g.first + g.extents) * extentBytes)))

/-- Direct scans have time: always with no active slot; beside active slots only in FREE mode with a share (R132, R136). -/
def dscanTime (s : State) (w : Nat) : Bool :=
  (slotsIn (s.weevil w).wslots 2).isEmpty || (!(s.weevil w).paced && s.reel.dshare ≠ 0)

/-- The first `k` of scored items, score descending, then key ascending. -/
def firstK (k : Nat) (xs : List (Int × Nat)) : List (Int × Nat) :=
  xs.foldl (fun acc x => (insertBy (fun a b => decide (b.1 < a.1) || (a.1 = b.1 && decide (a.2 < b.2))) x acc).take k) []

/-- Entries of a result; those beyond the records scanned are open (log 5). -/
def resultBytes (s : State) (k size : Nat) (f : Int × Nat → List Byte) (xs : List (Int × Nat)) : List Byte × State :=
  let (rest, s) := drawBytes (size * (k - xs.length)) s
  (xs.flatMap f ++ rest, s)

/-- Operands of DSCAN: LAYOUT (FORMAT and CODE as in Table 4.2) in byte 8, M in 9, k in 10, record count in 12-15, region offset
in 16-23, DATA offsets of the LUT, the scoring set and the result in 24-27, 28-31 and 32-35. A k outside 1 to 64, a count
outside 1 to 16,777,216, a FORMAT above 1, an M of neither code or a place outside its area is BAD_CMD (log 26). -/
def runDscan (w : Nat) (s : State) (bs : List Byte) : WinAnswer :=
  let fmt := byteAt bs 8 % 4
  let pq8 := bit (byteAt bs 8) 2
  let m := byteAt bs 9
  let k := byteAt bs 10
  let n := le bs 12 4
  let off := le bs 16 8
  let c := if pq8 then m else m / 2
  let size := c + (if fmt = 0 then 8 else 16)
  let kk := if pq8 then 256 else 16
  match dataBytes s w (le bs 24 4) (m * kk), dataBytes s w (le bs 28 4) 32, dataBytes s w (le bs 32 4) (8 * k) with
  | some lut, some set, some _ =>
    if decide (fmt ≤ 1) && decide (1 ≤ k ∧ k ≤ 64) && decide (1 ≤ n ∧ n ≤ 16777216)
        && (if pq8 then m = 8 || m = 16 else m = 16 || m = 32 || m = 64 || m = 128) && dscanRegion s w off (n * size) then
      let g : GenCtx := ⟨setOfBytes set, lut, []⟩
      let base := placeOf (w / 32) (w % 32) off
      let xs := (List.range n).map (fun i =>
        ((scoreOf 0 fmt 0 m pq8 g (ScanRec.ofBytes c fmt (s.bytes (base + i * size) size))).1, i))
      let (out, s) := resultBytes s k 8 (fun x => leBytes 4 x.2 ++ leBytes 4 (ofSigned 32 x.1)) (firstK k xs)
      winSay (s.setBytes (windowBase w + winData + le bs 32 4) out) winOk
    else winSay s winBadCmd
  | _, _, _ => winSay s winBadCmd

/-- 04 R136: DSCAN. -/
def execDscan (w : WeevilId) (s : State) : Host.Outcome State Fault Refusal :=
  .next (if s.pwr.state = 0 && dscanTime s w.val then runWindow s w.val 0x11 [0, 1] (runDscan w.val) else s)

/-! ## The V1 area (R137) -/

def v1Word (s : State) (w o : Nat) : Nat := ofLe (s.bytes (windowBase w + winV1 + o) 8)
def v1Say (s : State) (w st : Nat) : State :=
  (s.setBytes (windowBase w + v1Status) (leBytes 8 st)).modWeevil w (fun v => { v with v1Run := false })

/-- The v1 score: the sum of the 16 LUT entries of a PQ4 code with M = 16. -/
def v1Score (lut code : List Byte) : Int := lutSum false lut code 0 16

/-- The scan of a V1 driver. -/
def runV1 (s : State) (w : Nat) : State :=
  let base := v1Word s w 0x08
  let n := v1Word s w 0x10
  let k := v1Word s w 0x18
  if base % 16 = 0 && decide (1 ≤ n ∧ n ≤ 16777216) && decide (1 ≤ k ∧ k ≤ 64) && dscanRegion s w base (16 * n) then
    let lut := s.bytes (windowBase w + winV1 + 0x1000) 256
    let p := placeOf (w / 32) (w % 32) base
    let xs := (List.range n).map (fun i => let r := s.bytes (p + 16 * i) 16; (v1Score lut (r.take 8), le r 8 8))
    let (out, s) := resultBytes s k 16 (fun x => leBytes 8 x.2 ++ leBytes 4 (ofSigned 32 x.1) ++ zeros 4) (firstK k xs)
    v1Say (s.setBytes (windowBase w + v1Result) out) w 1
  else v1Say s w 2

/-- 04 R137: GO starts a scan. -/
def execV1Go (w : WeevilId) (s : State) : Host.Outcome State Fault Refusal :=
  .next (if (s.weevil w.val).v1Run && dscanTime s w.val then runV1 s w.val else s)

/-- 04 R137: ABORT stops the scan. -/
def execV1Abort (w : WeevilId) (s : State) : Host.Outcome State Fault Refusal :=
  .next (if (s.weevil w.val).v1Run && (s.byte (windowBase w.val + winV1)).getLsbD 1 then v1Say s w.val 4 else s)

end Sys2Proof.Machine
end

