-- ==== Sys2Proof/Machine/Registers.lean ====
section
/-! DEFINITION. The registers as software sees them (00 R10-R18): the value of every register of the map, the read that
clears, the write by access code; and the management commands that report them or that relay (16 R555). -/

namespace Sys2Proof.Machine

/-! ## Values, block by block -/

/-- MOD_RST; REQ reads zero. -/
def modRst (s : State) : Nat := field s.mod.lastKind 56 8 + field s.mod.lastCause 48 8 + 4 * b2n s.mod.rstLock

def readMod (s : State) (o : Nat) : Nat :=
  if o = 0 then modId
  else if o = 0x10 then modRst s
  else if o = 0x18 then modStart s
  else if 0x1000 ≤ o ∧ o < 0x3000 then (Tab.get 0 s.qau.irqTgt ((o - 0x1000) / 8)).toNat
  else 0

/-- The registers of a queue (12). -/
def readQueue (x : Queue) (r : Nat) : Nat :=
  match r with
  | 0x00 => field x.session.toNat 52 12 + field x.intv.toNat 41 11 + field (b2n x.ien) 40 1 + field x.cqLog2.toNat 36 4
      + field x.sqLog2.toNat 32 4 + 2 * b2n x.maint + b2n x.enable
  | 0x08 => x.sqBase.toNat
  | 0x10 => x.cqBase.toNat
  | 0x28 => field x.tags.toNat 32 32 + field x.sqHead 22 10 + field x.cqTail 10 12 + field (b2n x.phase) 9 1
      + field (b2n (x.enable && x.full)) 8 1 + field x.err 0 4
  | _ => 0

/-- Commands fetched and not yet completed: those in hand, and those whose completion waits for its ring. -/
def inFlightCount (s : State) : Nat :=
  s.qau.cmds.length + ((s.qau.queues.map (fun e => (e.2.held.filter (·.done.isSome)).length)).foldl (· + ·) 0)

def readQau (s : State) (o : Nat) : Nat :=
  if o = 0 then field s.qau.evq 22 10 + field (b2n s.qau.even) 21 1
  else if o = 8 then field (inFlightCount s) 48 16 + field s.qau.evdrop 32 16
    + field ((s.qau.queues.filter (·.2.enable)).length) 10 11
  else if 0x10000 ≤ o ∧ o < 0x20000 then readQueue (s.queue ((o - 0x10000) / 0x40)) (o % 0x40)
  else 0

/-- REEL_SLOTSTATn (04 R113). -/
def slotStat (s : State) (n : Nat) : Nat :=
  let r := s.slot n
  if !r.busy then field 0xFFFF 32 16
  else
    let x := (r.ctx.map some).getD ((s.cmd r.cmd).bind (fun c => match c.job with
      | .search j => some j.ctx
      | _ => none))
    let head := field 1 63 1 + field r.queue 22 10 + field r.tag 17 5
    match x with
    | none => head + field 0xFFFF 32 16
    | some x =>
      if x.sealed then head + field 1 62 1 + field 0xFFFF 32 16
      else head + field (b2n x.range) 61 1 + field (b2n x.statsFull) 60 1 + field (wdone s n) 48 9 + field x.cid.toNat 32 16

def readReel (s : State) (o : Nat) : Nat :=
  if o = 0 then field s.reel.pauseMax 16 16 + field s.reel.dshare 8 8 + 2 * b2n (pacedReq s) + b2n s.reel.mode
  else if o = 8 then field s.reel.scans 32 32 + field s.reel.lastUs 0 32
  else if 0x100 ≤ o ∧ o < 0x200 then (classMask s ((o - 0x100) / 8)).toNat
  else if 0x200 ≤ o ∧ o < 0x300 then slotStat s ((o - 0x200) / 8)
  else 0

def readSel (s : State) (o : Nat) : Nat :=
  if o = 0 then field s.sel.dups 48 16 + field s.sel.dupinc 32 16 + field s.sel.thrSent 16 16
  else if 0x100 ≤ o ∧ o < 0x140 then
    field (Tab.get 0 s.sel.entries ((o - 0x100) / 8)) 32 32 + field (Tab.get 0 s.sel.stallUs ((o - 0x100) / 8)) 0 32
  else 0

/-- ALLOC_SIDEFILL (02). -/
def readAlloc (s : State) (o : Nat) : Nat :=
  if o = 0x40 then field (sideUsed s) 32 25 + field s.alloc.busyPct 8 8 + field s.alloc.urgentPct 0 8 else 0

/-- Milliseconds left of a pin's lease: the time base has whole seconds, so the part within them is free (log 5). -/
def leaseLeft (s : State) (p : Pin) : Nat :=
  let d := s.secs - p.takenAt
  p.leaseMs - (if d = 0 then Config.free s.freeCtr % 1000 else (d - 1) * 1000 + Config.free s.freeCtr % 2000)

def readCsn (s : State) (o : Nat) : Nat :=
  if o = 0 then s.csn.current
  else if o = 8 then horizon s
  else if 0x100 ≤ o ∧ o < 0x180 then (if (s.pinAt ((o - 0x100) / 8)).held then (s.pinAt ((o - 0x100) / 8)).csn else 0)
  else if 0x180 ≤ o ∧ o < 0x200 then
    let p := s.pinAt ((o - 0x180) / 8)
    if p.held then field p.queue 44 10 + field p.session.toNat 32 12 + field (leaseLeft s p) 12 20 + 1 else field 0xFFF 32 12
  else 0

/-- HBMC_TIM (10 R365): the intervals in use, those of Table 10.8 or the longer ones of the parameter page. What level 3 uses is
not stated (log 5). -/
def hbmTim (s : State) (n : Nat) : Nat :=
  let l := (s.ctl n).level
  let x := Config.free s.freeCtr
  let longer (i v : Nat) : Nat := max v (Config.pageTiming n i).toNat
  let refi := if l = 0 then 3900 else if l < 3 ∨ x % 2 = 0 then 1950 else 3900
  let faw := if l < 2 then 16 else if l = 2 ∨ x / 2 % 2 = 0 then 32 else 16
  field refi 48 16 + field (min 225 (Config.pageTiming n 5).toNat) 40 8 + field (longer 0 160) 32 8 + field (longer 1 faw) 24 8
    + field (longer 2 42) 16 8 + field (longer 3 14) 8 8 + field (longer 4 14) 0 8

def readHbmc (s : State) (c n o : Nat) : Nat :=
  let k := s.ctl n
  if o = 0 then
    field k.temp 56 8 + field k.level 54 2 + field (if n < 8 then 1 else 0) 53 1 + field (b2n k.retired) 52 1
      + field (32 - (k.lanes.map (·.2)).foldl (· + ·) 0) 40 8
  else if o = 8 then
    field k.ce 48 16 + field k.ue 40 8 + field k.mis 32 8 + field k.dieCe 20 12 + field k.dieUe 14 6 + field k.poison 8 6
      + field k.accErr 0 8
  else if o = 0x10 then field k.logClass 57 4 + field k.logCause 49 4 + field k.logDpa 0 49
  else if o = 0x18 then hbmTim s n
  else if o = 0x108 then (Tab.get 0 k.pending c).toNat
  else if 0x200 ≤ o ∧ o < 0x300 then
    let p := s.pch (32 * n + (o - 0x200) / 8)
    field (b2n p.scan) 63 1 + field (b2n p.pendingChange) 62 1 + field (b2n p.zeroing) 61 1 + p.banks.toNat
  else if 0x10000 ≤ o ∧ o < 0x12000 then le (regionBytes s ((o - 0x10000) / 32)) (o % 32) 8
  else 0

/-- A number whose bit `i` says `f i`, for 32 bits. -/
def bitmap32 (f : Nat → Bool) : Nat := (List.range 32).foldl (fun a i => a + field (b2n (f i)) i 1) 0

def readWvg (s : State) (n o : Nat) : Nat :=
  if o = 0 then
    field (s.weevil (32 * n)).ucode.toNat 32 16 + field (s.ctl n).level 30 2 + field (Tab.get 0 s.reel.quar n) 0 16
  else if o = 8 then
    field (bitmap32 (fun i => (s.weevil (32 * n + i)).paused)) 32 32 + bitmap32 (fun i => (s.pch (32 * n + i)).scan)
  else 0

/-- A sealed session's stage runs on the engine (07 R244). -/
def sealedWork (s : State) (g : Engine) : Bool :=
  match g.work with
  | .context c => (s.ctx c).any (fun x => x.isStage && x.isSealed)
  | .lutStd k => (s.cmd k).any (·.isSealed)
  | .stage k => (s.cmd k).any (·.isSealed)
  | .encode k => (s.cmd k).any (·.isSealed)
  | _ => false

/-- A DMA operation of the context waits for its page, and no operation of another unit can proceed (11 Table 11.4). -/
def pagesIn (s : State) (g : Engine) : Bool :=
  match g.work with
  | .context c => (s.ctx c).any (fun x => x.pageAt.isSome
      && [OcUnit.vector, .matrix, .expansion, .lut, .selection, .reduction].all (fun u => (frontOp x u).isNone))
  | _ => false

/-- ENG_STAT.STATE. -/
def engState (s : State) (g : Engine) : Nat :=
  if g.updating then 6
  else match g.work with
    | .idle => if g.isDrained then 5 else 0
    | .lap _ => 8
    | _ => if sealedWork s g then 7 else if pagesIn s g then 2 else 1

/-- R235 forces STRICT: a search stage runs, or lap mode. -/
def strictWork (s : State) (g : Engine) : Bool :=
  match g.work with
  | .context c => (s.ctx c).any (·.isStage)
  | .lutStd _ => true
  | .stage _ => true
  | .lap _ => true
  | _ => false

/-- PROG: no rule gives the standard programs a measurement, so theirs is free (log 5). -/
def engProg (s : State) (g : Engine) : Nat :=
  match g.work with
  | .context c => ((s.ctx c).map (·.prog.toNat)).getD 0
  | .idle => 0
  | .lap _ => 0
  | _ => Config.free s.freeCtr

def readEng (s : State) (e o : Nat) : Nat :=
  let g := s.engine e
  if o = 0 then
    let st := engState s g
    field g.ucode.toNat 48 16 + field st 44 4 + field (if g.work = .idle then 0 else engClass s g) 42 2
      + field (b2n (strictWork s g)) 41 1 + (if st = 7 then 0 else field g.fault 24 8 + field (engProg s g) 0 24)
  else if o = 8 then 2 * b2n g.lapok + b2n g.drain
  else 0

def readSched (s : State) (o : Nat) : Nat :=
  if o = 0 then field 6 16 4 + field s.eng.resvB 4 4 + field s.eng.resvA 0 4
  else if o = 8 then
    field (slotWaiters s).length 48 16 + field (128 - (contexts s).length - stdStages s) 40 8 + field s.eng.saving 36 4
      + field s.eng.preempts 16 16 + field s.eng.slotWait 0 16
  else if 0x1000 ≤ o ∧ o < 0x3000 then floorOf s ((o - 0x1000) / 8)
  else 0

def readMmu (s : State) (o : Nat) : Nat :=
  if o = 0 then field s.eng.freeMin 16 32 + field s.eng.preemptUs 0 16
  else if o = 8 then field (freeFrames s + sealedFrames s) 32 32 + field s.eng.pageins 16 16 + field s.eng.evicts 0 16
  else 0

/-- Channel-die firmware of FCD `n` is being swapped: its registers read zero (14 Table 14.7). -/
def dieSwaps (s : State) (n : Nat) : Bool :=
  (allClaims s).any (fun c => c.2.state = 1 && (match c.2.act with
    | .update 6 u _ _ _ => u = 5 + n
    | .refetch 6 u => u = 5 + n
    | _ => false))

def readFcd (s : State) (n o : Nat) : Nat :=
  if n ≠ 0 ∨ dieSwaps s n then 0
  else if o = 0 then field s.flash.sparePct 40 8 + field s.flash.freeUnits 0 40
  else if o = 8 then s.flash.engback
  else 0

/-- CLASS of a channel (06 Table 6.1): both classes are rated 3,000 program and erase cycles. -/
def channelClass (b : Nat) : Nat := if Config.channelHigh b then 2 else 1

def readBor (s : State) (b o : Nat) : Nat :=
  let c := s.channel b
  if o = 0 then
    field c.fw.toNat 48 16 + field (channelClass b) 36 4 + field c.state 34 2
      + field (if s.mod.pwrgd && s.mod.phase ≠ 0 then sparesLeft s b else 0) 0 32
  else if o = 8 then field c.corrHi 48 16 + field c.retry 32 16 + field c.recon 16 16 + field c.excl 0 16
  else 0

def readNet (s : State) (o : Nat) : Nat :=
  if 0x100 ≤ o ∧ o < 0x110 then
    let p := s.netPort ((o - 0x100) / 8)
    field p.up.toNat 56 8 + field p.media 36 4 + field p.modPower.toNat 24 8 + field (b2n p.macsec) 16 1 + field p.width 8 2
      + field p.rate 0 2
  else 0

def readPcie (s : State) (o : Nat) : Nat :=
  let l := s.links
  if o = 0 then field l.qcount 32 11 + field l.qbase 16 10 + field l.maxGen 2 2 + b2n l.pcieOn
  else if o = 8 then field l.flrs 16 16 + field (b2n l.pcieUp) 8 1 + field l.pcieWidth 4 4 + field l.pcieGen 0 3
  else 0

def readMgmt (s : State) (o : Nat) : Nat :=
  let l := s.links
  if o = 0 then field l.ipv4.toNat 32 32 + 2 * b2n l.fullLock + b2n l.warmLock
  else if o = 8 then field Config.slotId.toNat 59 5 + field l.mgmtAddr.toNat 2 32 + field l.mgmtRate 0 2
  else 0

/-- PWR_PACE: the module bound rounded up to 500 µs (15 R517). -/
def pwrPace (s : State) : Nat := field (500 * ceilDiv s.pwr.bound 500000) 16 32 + s.pwr.pace.toNat
def pwrInput (s : State) : Nat := field s.pwr.pinW 32 16 + field s.pwr.iin 16 16 + field s.pwr.vin 0 16

def readPwr (s : State) (o : Nat) : Nat :=
  if o = 0 then
    field s.pwr.railMv 48 16 + field (b2n s.pwr.protect) 10 1 + field (b2n s.pwr.entering) 9 1 + field s.pwr.target 6 3
      + field s.pwr.state 0 3
  else if o = 8 then field s.pwr.capW 16 12 + field s.pwr.opsel 0 2
  else if o = 0x10 then pwrPace s
  else if o = 0x18 then pwrInput s
  else 0

def thermGrp (s : State) (g : Nat) : Nat :=
  field (groupLevel s g) 16 2 + field (s.group g).peak 8 8 + field (groupTemp s g) 0 8

def readTherm (s : State) (o : Nat) : Nat := if 0x100 ≤ o ∧ o < 0x190 then thermGrp s ((o - 0x100) / 8) else 0

def readHold (s : State) (o : Nat) : Nat :=
  let h := s.hold
  if o = 0 then
    field (bankEnergy s) 48 16 + field h.bankMv 32 16 + field h.testing 9 3 + field (b2n h.charged) 8 1 + field (b2n h.below) 7 1
      + h.connected.toNat
  else if o = 8 then holdSaveReg s
  else if 0x100 ≤ o ∧ o < 0x130 then
    let x := sectAt s ((o - 0x100) / 8)
    field (b2n x.removed) 32 1 + field x.esr 16 16 + field x.capUf 0 16
  else 0

def readMeter (s : State) (o : Nat) : Nat :=
  let m := s.meter
  if o = 0 then m.energy.toNat
  else if o = 8 then field m.power.toNat 32 16 + field m.curr.toNat 16 16 + m.volt.toNat
  else if o = 0x10 then
    field (b2n m.present) 63 1 + field (b2n m.sealIntact) 62 1 + field (b2n m.fault) 61 1 + field (b2n (logFull s)) 60 1
      + field m.lrsVer.toNat 44 16 + field m.log.length 32 11 + field m.sigsLeft 0 21
  else if o = 0x40 then field (b2n m.busy) 62 1 + field m.result 48 8 + field (signWait s) 0 32
  else if o = 0x48 then m.logIdx
  else if 0x50 ≤ o ∧ o < 0x70 then
    match m.log[m.logIdx]? with
    | none => ones64
    | some e => le e.bytes (o - 0x50) 8
  else if 0x1000 ≤ o ∧ o < 0x2000 then le m.rbuf (o - 0x1000) 8
  else 0

def readWarden (s : State) (o : Nat) : Nat :=
  let w := s.warden
  if o = 0 then w.buf.toNat * 2 ^ 18
  else if o = 8 then field (b2n w.request.isSome) 63 1 + field w.result 48 8 + field w.rlen 0 17
  else if o = 0x10 then
    field (b2n w.owner.isSome) 63 1 + field (b2n w.debugOpen) 62 1 + field w.tamper 60 2 + field (sessions s).length 48 12
      + field ((w.policy.map (·.version)).getD 0) 0 32
  else 0

/-- MAINT_CLAIMn (14). -/
def claimReg (s : State) (n : Nat) : Nat :=
  match s.claim n with
  | none => 0
  | some c =>
    let r := (c.act.resource).getD (0, 0)
    field 1 63 1 + field (c.stateNow s) 60 3 + field c.act.cls 57 3 + field (b2n c.auto) 56 1 + field c.act.subop 48 8 + field r.1 44 4
      + field r.2 32 9 + (if c.auto then 0 else field c.queue 22 10 + field c.tag 17 5)

def readMaint (s : State) (o : Nat) : Nat :=
  if o = 0 then
    field (allClaims s).length 56 8 + field ((allClaims s).filter (fun c => c.2.state = 0)).length 48 8 + field s.maint.drops 32 16
      + field s.maint.refused 16 16
  else if 0x100 ≤ o ∧ o < 0x300 then claimReg s ((o - 0x100) / 8)
  else 0

/-- LIFE_DATA for the selection in force (14 R508); a kind above 4 is given no value (log 5). -/
def lifeData (s : State) : Nat :=
  let i := s.life.selIndex.toNat
  match s.life.selKind with
  | 0 => 0
  | 1 => if i < 2 ^ 21 ∧ i % 65536 < superblocks then eraseCount s (i / 65536) (i % 65536) else ones64
  | 2 =>
    let st := i / 2 ^ 14
    if st < 12 ∧ bits i 6 2 = 0 ∧ bits i 13 1 = 0 ∧ i % 64 < 48 then
      let b := bankAt s (bankKey st (bits i 8 5) (i % 64))
      let rows := s.alloc.retiredRows.filter (fun id => id / 2 ^ 21 = st * 32 + bits i 8 5 && id % 2 ^ 21 / 24576 = i % 64)
      field b.spares 0 8 + field ((b.chain.map (·.2)).foldl max 0) 8 2 + field rows.length 16 16
    else ones64
  | 3 => if i < 4096 ∧ bits i 5 3 = 0 then Tab.get 0 s.life.now.therm (i / 256 * 32 + i % 32) else ones64
  | 4 =>
    if i < 32 then
      let cs := s.life.now.erase.filter (fun e => e.1 / 65536 = i)
      field ((cs.map (·.2)).foldl (· + ·) 0 / superblocks) 0 32 + field ((cs.map (·.2)).foldl max 0) 32 32
    else ones64
  | _ => Config.free s.freeCtr % 2 ^ 64

def readLife (s : State) (o : Nat) : Nat :=
  if o = 0 then field s.life.now.poh 0 48
  else if o = 8 then s.life.boot % 2 ^ 64
  else if o = 0x10 then s.life.now.scans % 2 ^ 64
  else if o = 0x18 then field s.warden.sigNext 0 40
  else if o = 0x100 then field s.life.selKind 32 4 + s.life.selIndex.toNat
  else if o = 0x108 then lifeData s
  else 0

def readDebug (s : State) (o : Nat) : Nat :=
  let w := s.warden
  if o = 0 then
    field (b2n w.debugOpen) 63 1 + field (b2n w.scrub) 62 1 + field (if w.debugOpen then w.lease - s.secs else 0) 0 17
  else 0

/-! ## The map (00 R10-R13, Table 0.3) -/

/-- Value of the register at offset `o` of block `blk`, as core `c` reads it; zero where none is assigned (R12). -/
def regValue (s : State) (c blk o : Nat) : Nat :=
  if blockOff s blk then 0
  else if blk = 0x00 then readMod s o
  else if blk = 0x01 then readQau s o
  else if blk = 0x02 then readReel s o
  else if blk = 0x03 then readSel s o
  else if blk = 0x04 then readAlloc s o
  else if blk = 0x05 then readCsn s o
  else if 0x10 ≤ blk ∧ blk < 0x1C then readHbmc s c (blk - 0x10) o
  else if 0x20 ≤ blk ∧ blk < 0x28 then readWvg s (blk - 0x20) o
  else if 0x30 ≤ blk ∧ blk < 0x60 then readEng s (blk - 0x30) o
  else if blk = 0x60 then readMmu s o
  else if blk = 0x62 then readSched s o
  else if 0x70 ≤ blk ∧ blk < 0x72 then readFcd s (blk - 0x70) o
  else if 0x72 ≤ blk ∧ blk < 0x92 then readBor s (blk - 0x72) o
  else if blk = 0xA0 then readNet s o
  else if blk = 0xA1 then readPcie s o
  else if blk = 0xA2 then readMgmt s o
  else if blk = 0xB0 then readPwr s o
  else if blk = 0xB1 then readTherm s o
  else if blk = 0xB2 then readHold s o
  else if blk = 0xB8 then readMeter s o
  else if blk = 0xC0 then readWarden s o
  else if blk = 0xD0 then readMaint s o
  else if blk = 0xD1 then readLife s o
  else if blk = 0xE0 then readDebug s o
  else 0

/-- The RC fields of a register that was read return to zero (00 R14, R16). -/
def clearRc (s : State) (blk o : Nat) : State :=
  if blockOff s blk then s
  else if blk = 0x01 ∧ o = 8 then { s with qau.evdrop := 0 }
  else if blk = 0x03 ∧ o = 0 then { s with sel.dups := 0, sel.dupinc := 0, sel.thrSent := 0 }
  else if blk = 0x03 ∧ 0x100 ≤ o ∧ o < 0x140 then
    { s with sel.entries := Tab.set 0 s.sel.entries ((o - 0x100) / 8) 0, sel.stallUs := Tab.set 0 s.sel.stallUs ((o - 0x100) / 8) 0 }
  else if 0x10 ≤ blk ∧ blk < 0x1C ∧ o = 8 then
    s.modCtl (blk - 0x10) (fun k => { k with ce := 0, ue := 0, mis := 0, dieCe := 0, dieUe := 0, poison := 0, accErr := 0 })
  else if 0x20 ≤ blk ∧ blk < 0x28 ∧ o = 0 then { s with reel.quar := Tab.set 0 s.reel.quar (blk - 0x20) 0 }
  else if blk = 0x60 ∧ o = 8 then { s with eng.pageins := 0, eng.evicts := 0 }
  else if blk = 0x62 ∧ o = 8 then { s with eng.preempts := 0, eng.slotWait := 0 }
  else if 0x72 ≤ blk ∧ blk < 0x92 ∧ o = 8 then
    s.modChannel (blk - 0x72) (fun c => { c with corrHi := 0, retry := 0, recon := 0, excl := 0 })
  else if blk = 0xA1 ∧ o = 8 then { s with links.flrs := 0 }
  else if blk = 0xB1 ∧ 0x100 ≤ o ∧ o < 0x190 then s.modGroup ((o - 0x100) / 8) (fun g => { g with peak := 0 })
  else if blk = 0xD0 ∧ o = 0 then { s with maint.drops := 0, maint.refused := 0 }
  else s

/-- An access of `size` bytes at `a` is one that the registers take: 64 bits, aligned (R11), in the register space. -/
def regAccess (a size : Nat) : Bool := size = 8 && a % 8 = 0 && decide (0x10000000000 ≤ a) && decide (a < 0x10010000000)
def regBlock (a : Nat) : Nat := (a - 0x10000000000) / 0x100000
def regOffset (a : Nat) : Nat := (a - 0x10000000000) % 0x100000

/-! ### BAR0 of the endpoint (16 R550, R551) -/

/-- The register of an exposed queue that a BAR0 offset reaches, as its offset in block QAU. -/
def bar0Queue (s : State) (o : Nat) : Option Nat :=
  if o % 8 = 0 ∧ o < 0x40 * s.links.qcount then some (0x10000 + 0x40 * (s.links.qbase + o / 0x40) + o % 0x40) else none

/-- A word of the MSI-X table: address, or data with the mask bit of the vector's control. -/
def msixWord (s : State) (i : Nat) : Nat :=
  let x := (Tab.get 0 s.links.msixTable i).toNat
  if i % 2 = 0 then x else field x 0 32 + field (b2n (!Tab.get false s.links.msixOn (i / 2))) 32 1

/-- What BAR0 presents at an offset: exposed queues, the MSI-X table, its pending bits; a read of 4 bytes has the half that it names. -/
def bar0Value (s : State) (o size : Nat) : Nat :=
  let word (a : Nat) : Nat :=
    match bar0Queue s a with
    | some q => regValue s 0 0x01 q
    | none =>
      if 0x800000 ≤ a ∧ a < 0x804000 then msixWord s ((a - 0x800000) / 8)
      else if 0x900000 ≤ a ∧ a < 0x900080 then
        (List.range 64).foldl (fun n i => n + field (b2n (Tab.get false s.links.msixPend (64 * ((a - 0x900000) / 8) + i))) i 1) 0
      else 0
  if !s.links.pcieUp || blockOff s 0xA1 then 0
  else if size = 8 ∧ o % 8 = 0 then word o
  else if size = 4 ∧ o % 4 = 0 then bits (word (o / 8 * 8)) (8 * (o % 8)) 32
  else 0

/-- 00 R16: a register is read by core `c`; its RC fields clear. An access of another width or alignment reads zero (R11). -/
def execRegisterReadClear (m : Master) (a : Dpa) (size : Nat) (s : State) : Host.Outcome State Fault Refusal :=
  let b := regBlock a.toNat
  let o := regOffset a.toNat
  .next (match m with
    | .core c =>
      if regAccess a.toNat size then
        { clearRc s b o with rsp := .value (BitVec.ofNat 64 (regValue s c.val b o)), freeCtr := s.freeCtr + 1 }
      else { s with rsp := .value 0 }
    | .bar0 => { s with rsp := .value (BitVec.ofNat 64 (bar0Value s a.toNat size)) })

/-! ## Writes (00 R14, R17) -/

/-- The state that a row's own meaning gives, for the registers that have rows of their own. -/
def after (s : State) : Host.Outcome State Fault Refusal → State
  | .next t => t
  | _ => s

/-- MOD_RST: LOCK is written if it is open; REQ acts unless LOCK was 1. -/
def writeModRst (s : State) (v : Nat) : State :=
  let go := !s.mod.rstLock && resetAllowed s .modRst false
  let t := putRstLock (softOpen s (csrDpa 0 0x10)) v s
  if go && v % 4 = 1 then warmOrWake t 2
  else if go && v % 4 = 2 then full t 2
  else t

/-- The registers of queue `q`; its bases take no write while ENABLE reads 1 (12 R402). -/
def writeQueue (s : State) (q : QueueId) (r : Nat) (v : W64) : State :=
  let base := BitVec.ofNat 49 (v.toNat % 2 ^ 49 / 4096 * 4096)
  match r with
  | 0x00 => after s (if bit v.toNat 0 then execQueueEnable q v s else execQueueDisable q v s)
  | 0x08 => s.modQueue q.val (fun y => { y with sqBase := if y.enable then y.sqBase else base })
  | 0x10 => s.modQueue q.val (fun y => { y with cqBase := if y.enable then y.cqBase else base })
  | 0x18 => after s (execQauSqtail q v s)
  | 0x20 => after s (execQauCqhead q v s)
  | _ => s

def writeQau (s : State) (o : Nat) (v : W64) : State :=
  if o = 0 then flushM { s with qau.evq := bits v.toNat 22 10, qau.even := bit v.toNat 21 }
  else if o = 0x10 then after s (execQauAbort v s)
  else if 0x10000 ≤ o ∧ o < 0x20000 then writeQueue s (Fin.ofNat 1024 ((o - 0x10000) / 0x40)) (o % 0x40) v
  else s

/-- WARDEN_MBREQ: BUF, then GO. -/
def writeMbreq (s : State) (v : Nat) : State :=
  let s := { s with warden.buf := BitVec.ofNat 31 (bits v 18 31) }
  if bit v 63 then mailboxGo s else s

/-- A write of 64 bits by core `c`; no effect where nothing can be written (R12). -/
def writeReg (s : State) (c : CoreId) (blk o : Nat) (v : W64) : State :=
  let put (f : Open → Nat → State → State) : State := f (softOpen s (csrDpa blk o)) v.toNat s
  if blockOff s blk then s
  else if blk = 0x00 ∧ o = 0x10 then writeModRst s v.toNat
  else if blk = 0x00 ∧ 0x1000 ≤ o ∧ o < 0x3000 then
    { s with qau.irqTgt := Tab.set 0 s.qau.irqTgt ((o - 0x1000) / 8) (BitVec.ofNat 7 v.toNat) }
  else if blk = 0x01 then writeQau s o v
  else if blk = 0x02 ∧ o = 0 then put putReelCtl
  else if blk = 0x02 ∧ 0x100 ≤ o ∧ o < 0x200 then put (putSlotCfg ((o - 0x100) / 8))
  else if blk = 0x04 ∧ o = 0x40 then put putSidefill
  else if 0x10 ≤ blk ∧ blk < 0x1C ∧ o = 0x100 then after s (execHbmcSfence c (Fin.ofNat 12 (blk - 0x10)) v s)
  else if 0x30 ≤ blk ∧ blk < 0x60 ∧ o = 8 then put (putEngCtl (blk - 0x30))
  else if blk = 0x60 ∧ o = 0 then put putMmuCfg
  else if blk = 0x62 ∧ o = 0 then put putSchedCfg
  else if blk = 0x62 ∧ 0x1000 ≤ o ∧ o < 0x3000 then put (putQClass ((o - 0x1000) / 8))
  else if blk = 0x70 ∧ o = 8 then put putFcdCfg
  else if blk = 0xA0 ∧ 0x100 ≤ o ∧ o < 0x110 then after s (execNetPortWrite (Fin.ofNat 2 ((o - 0x100) / 8)) v s)
  else if blk = 0xA1 ∧ o = 0 then put putPcieCfg
  else if blk = 0xA2 ∧ o = 0 then put putMgmtCfg
  else if blk = 0xB0 ∧ o = 8 then put putPwrCfg
  else if blk = 0xB8 ∧ 0x20 ≤ o ∧ o < 0x40 then { s with meter.nonce := Tab.set 0 s.meter.nonce ((o - 0x20) / 8) v }
  else if blk = 0xB8 ∧ o = 0x40 then after s (execMeterSign v s)
  else if blk = 0xB8 ∧ o = 0x48 then { s with meter.logIdx := bits v.toNat 0 10 }
  else if blk = 0xC0 ∧ o = 0 then writeMbreq s v.toNat
  else if blk = 0xD1 ∧ o = 0x100 then
    { s with life.selKind := bits v.toNat 32 4, life.selIndex := BitVec.ofNat 32 v.toNat }
  else s

/-- A vector is masked or not; one that is pending is sent as it is enabled (PRESUMED, log 59). -/
def maskVector (s : State) (v : Nat) (masked : Bool) : State :=
  let s := { s with links.msixOn := Tab.set false s.links.msixOn v (!masked) }
  if !masked && Tab.get false s.links.msixPend v then
    { s with links.msixPend := Tab.set false s.links.msixPend v false, links.msixSent := s.links.msixSent ++ [v] }
  else s

/-- A word of the MSI-X table is written. -/
def putMsix (s : State) (i x : Nat) : State :=
  let s := { s with links.msixTable := Tab.set 0 s.links.msixTable i (BitVec.ofNat 64 (if i % 2 = 0 then x else x % 2 ^ 32)) }
  if i % 2 = 0 then s else maskVector s (i / 2) (bit x 32)

/-- A host's write through BAR0 (16 R550, R551): to an exposed queue's register, or to the MSI-X table in words or halves of them. -/
def bar0Write (s : State) (o size : Nat) (v : W64) : State :=
  let table := decide (0x800000 ≤ o) && decide (o < 0x804000)
  let i := (o - 0x800000) / 8
  if !s.links.pcieUp || blockOff s 0xA1 then s
  else if size = 8 ∧ o % 8 = 0 then
    (match bar0Queue s o with
     | some q => writeReg s 0 0x01 q v
     | none => if table then putMsix s i v.toNat else s)
  else if size = 4 ∧ o % 4 = 0 ∧ table then
    (let w := msixWord s i
     putMsix s i (if o % 8 = 0 then field (bits w 32 32) 32 32 + v.toNat % 2 ^ 32 else field v.toNat 32 32 + w % 2 ^ 32))
  else s

/-- 00 R14: a register is written, each field by its access code. -/
def execCsrWrite (m : Master) (a : Dpa) (size : Nat) (v : W64) (s : State) : Host.Outcome State Fault Refusal :=
  .next (match m with
    | .core c => if regAccess a.toNat size then writeReg s c (regBlock a.toNat) (regOffset a.toNat) v else s
    | .bar0 => bar0Write s a.toNat size v)

/-! ## The management port (16 R555, Table 16.4) -/

/-- 16 R555: GET_START answers MOD_START. -/
def execGetStart (s : State) : Host.Outcome State Fault Refusal :=
  .next { s with rsp := .value (BitVec.ofNat 64 (modStart s)) }

/-- 16 R555: a warden request is relayed; BUSY while the warden has one. In ROM the warden takes none (13 R448). -/
def execMailbox (type : W32) (echo : W64) (body : List Byte) (s : State) : Host.Outcome State Fault Refusal :=
  .next (if s.warden.romOnly then { s with rsp := .denied }
    else if s.warden.request.isSome then { s with rsp := .value (BitVec.ofNat 64 stBusy) }
    else takeRequest s ⟨type.toNat, echo, body, none, none⟩ body.length)

/-- The warden leaves ROM with a new Syeno image: the boot goes on from the measurement (13 R448). -/
def leaveRom (s : State) (image : List Byte) : State :=
  let s := { s with
    flash.images := Tab.set [] s.flash.images 4 image
    flash.incoming := Tab.set [] s.flash.incoming 4 []
    flash.directory := Tab.set 0 s.flash.directory (dirKey 4 0) (Config.imageVersion image)
    warden.digests := s.warden.digests ++ [Config.shake256 image]
    warden.romOnly := false }
  noteStart (serve (bootRest (measureBoot s)))

/-- 16 R555: an image arrives by PLDM: a MAINT UPDATE under R491 that no queue asked for; in ROM, a Syeno image alone is taken. The
answer is a status of Table 12.12 (log 6). -/
def execFirmwareUpdate (part : Byte) (one : Bool) (unit : BitVec 16) (image : List Byte) (s : State) :
    Host.Outcome State Fault Refusal :=
  let p := part.toNat
  let say (s : State) (st : Nat) : State := { s with rsp := .value (BitVec.ofNat 64 st) }
  .next (if !unitsNamed p one unit.toNat then say s stBadCmd
    else if !imageOk s p image then say s stDenied
    else if s.warden.romOnly then (if p = 4 && !s.warden.fuseFail then say (leaveRom s image) stOk else say s stDenied)
    else
      match (if p = 8 then [] else namedUnits p one unit.toNat) with
      | [] => say (storeImage s p image) stOk
      | u :: us =>
        match ask (storeImage s p image) (.update p u us image 0) true 0 0 0 with
        | .refused t => say (settleImages t p) stBusy
        | .dropped t => say (settleImages t p) stBusy
        | .entry t _ => say t stOk)

/-- 16 R555: the sensors of platform monitoring: a thermal group, PWR_INPUT, PWR_PACE and the coolant flow, as their registers have
them; reading them clears nothing. -/
def execPlatformMonitoring (g : Fin 18) (s : State) : Host.Outcome State Fault Refusal :=
  .next { s with rsp := .bytes (leBytes 8 (thermGrp s g.val) ++ leBytes 8 (pwrInput s) ++ leBytes 8 (pwrPace s) ++ leBytes 2 s.therm.flow) }

/-- 16 R555: FRU data, whose bytes its own specification fixes. -/
def execFruData (s : State) : Host.Outcome State Fault Refusal := .next { s with rsp := .bytes Config.fruBytes }

end Sys2Proof.Machine
end

