-- ==== Sys2Proof/Machine/Dispatch.lean ====
section
/-! DEFINITION. What each command does: one arm for each constructor of Instr, each a direct call of that command's
meaning. -/

namespace Sys2Proof.Machine

def exec (i : Instr) (s : State) : Host.Outcome State Fault Refusal :=
  match i with
  | .qauSqtail q v => Sys2Proof.Machine.execQauSqtail q v s
  | .qauCqhead q v => Sys2Proof.Machine.execQauCqhead q v s
  | .queueEnable q v => Sys2Proof.Machine.execQueueEnable q v s
  | .queueDisable q v => Sys2Proof.Machine.execQueueDisable q v s
  | .queueDrainEnd q => Sys2Proof.Machine.execQueueDrainEnd q s
  | .qauAbort v => Sys2Proof.Machine.execQauAbort v s
  | .search q => Sys2Proof.Machine.execSearch q s
  | .range q => Sys2Proof.Machine.execRange q s
  | .insertBatch q => Sys2Proof.Machine.execInsertBatch q s
  | .deleteBatch q => Sys2Proof.Machine.execDeleteBatch q s
  | .upsertBatch q => Sys2Proof.Machine.execUpsertBatch q s
  | .pin q => Sys2Proof.Machine.execPin q s
  | .unpin q => Sys2Proof.Machine.execUnpin q s
  | .flush q => Sys2Proof.Machine.execFlush q s
  | .stats q => Sys2Proof.Machine.execStats q s
  | .selftest q => Sys2Proof.Machine.execSelftest q s
  | .power q => Sys2Proof.Machine.execPower q s
  | .create q => Sys2Proof.Machine.execCreate q s
  | .destroy q => Sys2Proof.Machine.execDestroy q s
  | .genInstall q => Sys2Proof.Machine.execGenInstall q s
  | .sample q => Sys2Proof.Machine.execSample q s
  | .launch q => Sys2Proof.Machine.execLaunch q s
  | .resume q => Sys2Proof.Machine.execResume q s
  | .kill q => Sys2Proof.Machine.execKill q s
  | .pinRelease q => Sys2Proof.Machine.execPinRelease q s
  | .update q => Sys2Proof.Machine.execUpdate q s
  | .refetch src part unit => Sys2Proof.Machine.execRefetch src part unit s
  | .bypass q ch => Sys2Proof.Machine.execBypass q ch s
  | .rowRemap st p bank row => Sys2Proof.Machine.execRowRemap st p bank row s
  | .rowRetire st p bank row => Sys2Proof.Machine.execRowRetire st p bank row s
  | .laneRemap st chan => Sys2Proof.Machine.execLaneRemap st chan s
  | .flashRetire ch block package => Sys2Proof.Machine.execFlashRetire ch block package s
  | .pcRetire src p => Sys2Proof.Machine.execPcRetire src p s
  | .stackRetire src st => Sys2Proof.Machine.execStackRetire src st s
  | .channelRewrite ch => Sys2Proof.Machine.execChannelRewrite ch s
  | .holdupTest src sect => Sys2Proof.Machine.execHoldupTest src sect s
  | .ieee1500 q st chan w data => Sys2Proof.Machine.execIeee1500 q st chan w data s
  | .collPriority q => Sys2Proof.Machine.execCollPriority q s
  | .claimStart n => Sys2Proof.Machine.execClaimStart n s
  | .claimWaitTimeout n => Sys2Proof.Machine.execClaimWaitTimeout n s
  | .fenceHoldEnd q t => Sys2Proof.Machine.execFenceHoldEnd q t s
  | .slotAdmit n => Sys2Proof.Machine.execSlotAdmit n s
  | .returnToRun => Sys2Proof.Machine.execReturnToRun s
  | .scanBlock w f => Sys2Proof.Machine.execScanBlock w f s
  | .backPressureRelease w => Sys2Proof.Machine.execBackPressureRelease w s
  | .chainCand p => Sys2Proof.Machine.execChainCand p s
  | .thresholdReceive p n => Sys2Proof.Machine.execThresholdReceive p n s
  | .chainStats p => Sys2Proof.Machine.execChainStats p s
  | .chainLeave p => Sys2Proof.Machine.execChainLeave p s
  | .refineReadDone b o => Sys2Proof.Machine.execRefineReadDone b o s
  | .refineResult b => Sys2Proof.Machine.execRefineResult b s
  | .payloadReadDone q t o => Sys2Proof.Machine.execPayloadReadDone q t o s
  | .lapChunk e failed => Sys2Proof.Machine.execLapChunk e failed s
  | .batchCommit q t failed => Sys2Proof.Machine.execBatchCommit q t failed s
  | .journalProgramDone => Sys2Proof.Machine.execJournalProgramDone s
  | .csnRange => Sys2Proof.Machine.execCsnRange s
  | .checkpoint => Sys2Proof.Machine.execCheckpoint s
  | .mergeHandover cid es pl sigOk => Sys2Proof.Machine.execMergeHandover cid es pl sigOk s
  | .blockMove k src pl sigOk => Sys2Proof.Machine.execBlockMove k src pl sigOk s
  | .csnBackfill ref => Sys2Proof.Machine.execCsnBackfill ref s
  | .exclusionSettle w h => Sys2Proof.Machine.execExclusionSettle w h s
  | .reclaim r => Sys2Proof.Machine.execReclaim r s
  | .blockReload w h readback => Sys2Proof.Machine.execBlockReload w h readback s
  | .hdrWrite w => Sys2Proof.Machine.execHdrWrite w s
  | .exclWrite w => Sys2Proof.Machine.execExclWrite w s
  | .settle w => Sys2Proof.Machine.execSettle w s
  | .repairReady w => Sys2Proof.Machine.execRepairReady w s
  | .pause w => Sys2Proof.Machine.execPause w s
  | .weevilResume w => Sys2Proof.Machine.execWeevilResume w s
  | .pauseTimeout w => Sys2Proof.Machine.execPauseTimeout w s
  | .ucodeStage w => Sys2Proof.Machine.execUcodeStage w s
  | .ucodeSwap w => Sys2Proof.Machine.execUcodeSwap w s
  | .stateRead w => Sys2Proof.Machine.execStateRead w s
  | .dscan w => Sys2Proof.Machine.execDscan w s
  | .weevilSelftest w result => Sys2Proof.Machine.execWeevilSelftest w result s
  | .v1Go w => Sys2Proof.Machine.execV1Go w s
  | .v1Abort w => Sys2Proof.Machine.execV1Abort w s
  | .nop e => Sys2Proof.Machine.execNop e s
  | .endProg e => Sys2Proof.Machine.execEndProg e s
  | .stageEnd e => Sys2Proof.Machine.execStageEnd e s
  | .trap e => Sys2Proof.Machine.execTrap e s
  | .getf e => Sys2Proof.Machine.execGetf e s
  | .clrf e => Sys2Proof.Machine.execClrf e s
  | .rdcnt e => Sys2Proof.Machine.execRdcnt e s
  | .add e => Sys2Proof.Machine.execAdd e s
  | .sub e => Sys2Proof.Machine.execSub e s
  | .mul e => Sys2Proof.Machine.execMul e s
  | .div e => Sys2Proof.Machine.execDiv e s
  | .and e => Sys2Proof.Machine.execAnd e s
  | .or e => Sys2Proof.Machine.execOr e s
  | .xor e => Sys2Proof.Machine.execXor e s
  | .shift e => Sys2Proof.Machine.execShift e s
  | .minmax e => Sys2Proof.Machine.execMinmax e s
  | .cmp e => Sys2Proof.Machine.execCmp e s
  | .addi e => Sys2Proof.Machine.execAddi e s
  | .andi e => Sys2Proof.Machine.execAndi e s
  | .shifti e => Sys2Proof.Machine.execShifti e s
  | .li e => Sys2Proof.Machine.execLi e s
  | .lc e => Sys2Proof.Machine.execLc e s
  | .fop e => Sys2Proof.Machine.execFop e s
  | .amov e => Sys2Proof.Machine.execAmov e s
  | .aadd e => Sys2Proof.Machine.execAadd e s
  | .aaddi e => Sys2Proof.Machine.execAaddi e s
  | .alc e => Sys2Proof.Machine.execAlc e s
  | .tset e => Sys2Proof.Machine.execTset e s
  | .tfld e => Sys2Proof.Machine.execTfld e s
  | .tget e => Sys2Proof.Machine.execTget e s
  | .br e => Sys2Proof.Machine.execBr e s
  | .jal e => Sys2Proof.Machine.execJal e s
  | .jr e => Sys2Proof.Machine.execJr e s
  | .loop e => Sys2Proof.Machine.execLoop e s
  | .varith e => Sys2Proof.Machine.execVarith e s
  | .vcmp e => Sys2Proof.Machine.execVcmp e s
  | .vsel e => Sys2Proof.Machine.execVsel e s
  | .vcvt e => Sys2Proof.Machine.execVcvt e s
  | .vperm e => Sys2Proof.Machine.execVperm e s
  | .vbcast e => Sys2Proof.Machine.execVbcast e s
  | .vext e => Sys2Proof.Machine.execVext e s
  | .vsrnd e => Sys2Proof.Machine.execVsrnd e s
  | .vld e => Sys2Proof.Machine.execVld e s
  | .vst e => Sys2Proof.Machine.execVst e s
  | .plogic e => Sys2Proof.Machine.execPlogic e s
  | .pset e => Sys2Proof.Machine.execPset e s
  | .pcnt e => Sys2Proof.Machine.execPcnt e s
  | .mopen e => Sys2Proof.Machine.execMopen e s
  | .mmul e => Sys2Proof.Machine.execMmul e s
  | .mclose e => Sys2Proof.Machine.execMclose e s
  | .mdrop e => Sys2Proof.Machine.execMdrop e s
  | .macc e => Sys2Proof.Machine.execMacc e s
  | .xpnd e => Sys2Proof.Machine.execXpnd e s
  | .ldist e => Sys2Proof.Machine.execLdist e s
  | .lbound e => Sys2Proof.Machine.execLbound e s
  | .thrc e => Sys2Proof.Machine.execThrc e s
  | .topk e => Sys2Proof.Machine.execTopk e s
  | .rsum e => Sys2Proof.Machine.execRsum e s
  | .rmv e => Sys2Proof.Machine.execRmv e s
  | .rmaxsum e => Sys2Proof.Machine.execRmaxsum e s
  | .dld e => Sys2Proof.Machine.execDld e s
  | .dst e => Sys2Proof.Machine.execDst e s
  | .dcpy e => Sys2Proof.Machine.execDcpy e s
  | .amo e => Sys2Proof.Machine.execAmo e s
  | .aaddt e => Sys2Proof.Machine.execAaddt e s
  | .wvx e => Sys2Proof.Machine.execWvx e s
  | .sfence e => Sys2Proof.Machine.execSfence e s
  | .twait e => Sys2Proof.Machine.execTwait e s
  | .fence e => Sys2Proof.Machine.execFence e s
  | .windec e => Sys2Proof.Machine.execWindec e s
  | .opComplete e u => Sys2Proof.Machine.execOpComplete e u s
  | .executionFault e c => Sys2Proof.Machine.execExecutionFault e c s
  | .budgetReached e => Sys2Proof.Machine.execBudgetReached e s
  | .pageIn e => Sys2Proof.Machine.execPageIn e s
  | .pageInDone c => Sys2Proof.Machine.execPageInDone c s
  | .pageinPreempt c => Sys2Proof.Machine.execPageinPreempt c s
  | .eviction c va => Sys2Proof.Machine.execEviction c va s
  | .evictionWriteDone c va fla => Sys2Proof.Machine.execEvictionWriteDone c va fla s
  | .preempt e => Sys2Proof.Machine.execPreempt e s
  | .contextRestore c e => Sys2Proof.Machine.execContextRestore c e s
  | .workStart k e => Sys2Proof.Machine.execWorkStart k e s
  | .contextTimeout c => Sys2Proof.Machine.execContextTimeout c s
  | .engCtlDrain e v => Sys2Proof.Machine.execEngCtlDrain e v s
  | .engCtlLapok e v => Sys2Proof.Machine.execEngCtlLapok e v s
  | .drained e => Sys2Proof.Machine.execDrained e s
  | .memoryRead r a n f => Sys2Proof.Machine.execMemoryRead r a n f s
  | .memoryWrite r a bs f => Sys2Proof.Machine.execMemoryWrite r a bs f s
  | .memoryAtomic r a ty op x cmp => Sys2Proof.Machine.execMemoryAtomic r a ty op x cmp s
  | .writeBufferDrain p => Sys2Proof.Machine.execWriteBufferDrain p s
  | .refresh p postpone => Sys2Proof.Machine.execRefresh p postpone s
  | .patrolScrub a f => Sys2Proof.Machine.execPatrolScrub a f s
  | .sensorRead ts => Sys2Proof.Machine.execSensorRead ts s
  | .thermalClear g => Sys2Proof.Machine.execThermalClear g s
  | .protectiveRestClear => Sys2Proof.Machine.execProtectiveRestClear s
  | .bankModeChange p part => Sys2Proof.Machine.execBankModeChange p part s
  | .hbmcSfence c st v => Sys2Proof.Machine.execHbmcSfence c st v s
  | .scanFenceDone r p => Sys2Proof.Machine.execScanFenceDone r p s
  | .stackStopsAnswering st => Sys2Proof.Machine.execStackStopsAnswering st s
  | .openRowProgram row => Sys2Proof.Machine.execOpenRowProgram row s
  | .flashScrub fla o high fresh => Sys2Proof.Machine.execFlashScrub fla o high fresh s
  | .garbageCollection fla fresh => Sys2Proof.Machine.execGarbageCollection fla fresh s
  | .wearRelocation sb fresh => Sys2Proof.Machine.execWearRelocation sb fresh s
  | .getIdentity => Sys2Proof.Machine.execGetIdentity s
  | .attest => Sys2Proof.Machine.execAttest s
  | .challenge => Sys2Proof.Machine.execChallenge s
  | .auditRead => Sys2Proof.Machine.execAuditRead s
  | .claim => Sys2Proof.Machine.execClaim s
  | .transfer => Sys2Proof.Machine.execTransfer s
  | .policy => Sys2Proof.Machine.execPolicy s
  | .time => Sys2Proof.Machine.execTime s
  | .sessionOpen => Sys2Proof.Machine.execSessionOpen s
  | .debugUnlock => Sys2Proof.Machine.execDebugUnlock s
  | .debugEnd => Sys2Proof.Machine.execDebugEnd s
  | .extend => Sys2Proof.Machine.execExtend s
  | .debugLeaseExpiry => Sys2Proof.Machine.execDebugLeaseExpiry s
  | .grantExpiry k => Sys2Proof.Machine.execGrantExpiry k s
  | .pinExpired n => Sys2Proof.Machine.execPinExpired n s
  | .tamper detector => Sys2Proof.Machine.execTamper detector s
  | .watchdog u => Sys2Proof.Machine.execWatchdog u s
  | .coldStart => Sys2Proof.Machine.execColdStart s
  | .scanFormReload cid => Sys2Proof.Machine.execScanFormReload cid s
  | .warmReset c => Sys2Proof.Machine.execWarmReset c s
  | .fullReset c => Sys2Proof.Machine.execFullReset c s
  | .holdupSave c stored => Sys2Proof.Machine.execHoldupSave c stored s
  | .bankCharged => Sys2Proof.Machine.execBankCharged s
  | .capStep watts => Sys2Proof.Machine.execCapStep watts s
  | .railReturn => Sys2Proof.Machine.execRailReturn s
  | .paceSample laps => Sys2Proof.Machine.execPaceSample laps s
  | .boundRecompute => Sys2Proof.Machine.execBoundRecompute s
  | .powerStateReached => Sys2Proof.Machine.execPowerStateReached s
  | .wake => Sys2Proof.Machine.execWake s
  | .flowSample flow => Sys2Proof.Machine.execFlowSample flow s
  | .counterFlush => Sys2Proof.Machine.execCounterFlush s
  | .thermalHistogramSample => Sys2Proof.Machine.execThermalHistogramSample s
  | .meterSign v => Sys2Proof.Machine.execMeterSign v s
  | .meterSignDone => Sys2Proof.Machine.execMeterSignDone s
  | .meterInstUpdate power curr volt mj => Sys2Proof.Machine.execMeterInstUpdate power curr volt mj s
  | .meterSave => Sys2Proof.Machine.execMeterSave s
  | .sealOpen => Sys2Proof.Machine.execSealOpen s
  | .sealClose key => Sys2Proof.Machine.execSealClose key s
  | .lrsUpdate version authentic => Sys2Proof.Machine.execLrsUpdate version authentic s
  | .paramChange number authentic => Sys2Proof.Machine.execParamChange number authentic s
  | .ifUpdate version authentic => Sys2Proof.Machine.execIfUpdate version authentic s
  | .logCleared => Sys2Proof.Machine.execLogCleared s
  | .netPortWrite p v => Sys2Proof.Machine.execNetPortWrite p v s
  | .linkTrained p r => Sys2Proof.Machine.execLinkTrained p r s
  | .rdmaWrite r a bs => Sys2Proof.Machine.execRdmaWrite r a bs s
  | .rdmaRead r a n => Sys2Proof.Machine.execRdmaRead r a n s
  | .send qp bs => Sys2Proof.Machine.execSend qp bs s
  | .functionLevelReset k => Sys2Proof.Machine.execFunctionLevelReset k s
  | .pcieCfgWrite v => Sys2Proof.Machine.execPcieCfgWrite v s
  | .getStart => Sys2Proof.Machine.execGetStart s
  | .mailbox type echo body => Sys2Proof.Machine.execMailbox type echo body s
  | .firmwareUpdate part one unit image => Sys2Proof.Machine.execFirmwareUpdate part one unit image s
  | .platformMonitoring g => Sys2Proof.Machine.execPlatformMonitoring g s
  | .fruData => Sys2Proof.Machine.execFruData s
  | .allocSidefillWrite v => Sys2Proof.Machine.execAllocSidefillWrite v s
  | .reelCtlWrite v => Sys2Proof.Machine.execReelCtlWrite v s
  | .fcdCfgWrite v => Sys2Proof.Machine.execFcdCfgWrite v s
  | .schedCfgWrite v => Sys2Proof.Machine.execSchedCfgWrite v s
  | .mmuCfgWrite v => Sys2Proof.Machine.execMmuCfgWrite v s
  | .pwrCfgWrite v => Sys2Proof.Machine.execPwrCfgWrite v s
  | .registerReadClear m a size => Sys2Proof.Machine.execRegisterReadClear m a size s
  | .csrWrite m a size v => Sys2Proof.Machine.execCsrWrite m a size v s
  | .claimEnd n result cap esr => Sys2Proof.Machine.execClaimEnd n result cap esr s
  | .inputRange vin => Sys2Proof.Machine.execInputRange vin s
  | .portDown p => Sys2Proof.Machine.execPortDown p s
  | .meterFault code => Sys2Proof.Machine.execMeterFault code s
  | .coreRestart => Sys2Proof.Machine.execCoreRestart s

end Sys2Proof.Machine
end

