-- ==== Sys2Proof/WellFormed.lean ====
section
/-! DEFINITION. The commands of the block that name a thing which exists: what the type of an operand does not bound already
(a row of a bank, a header index, the sensors of one read together) is bounded here. A command outside these bounds is no
command of the block; its meaning still ends in a next state. -/

namespace Sys2Proof

/-- Header indices in use of a block of Weevil headers (04 R98). -/
def headerOk (h : Nat) : Bool := decide (h < 327680)

/-- Units of a part of the update store (14 Table 14.7). -/
def unitCount : Nat → Nat
  | 1 => 48
  | 2 => 256
  | 3 => 32
  | 4 => 1
  | 5 => 5
  | 6 => 7
  | 7 => 3
  | 8 => 1
  | _ => 0

/-- A place for a new block (04 R97, R98): its header index and its first row. -/
def Place.wf (p : Place) : Bool := headerOk p.header && decide (p.row < 24576)

def Reclaimable.wf : Reclaimable → Bool
  | .side n => decide (n < 16777216)
  | .block _ h => headerOk h
  | .generation _ _ => true
  | .collection _ => true

def ScanFail.wf : ScanFail → Bool
  | .group g => decide (g < 256)
  | .none => true
  | .header => true
  | .attr => true
  | .slotWord _ => true

/-- Sizes of one register access (00 R11): a CSR access is 8 bytes, and the other sizes of a load or store are taken as faults. -/
def accessSizeOk (n : Nat) : Bool := decide (n = 1 ∨ n = 2 ∨ n = 4 ∨ n = 8)

/-- The checks of a command's operands. -/
def Instr.wf (i : Instr) : Bool :=
  match i with
  | .refetch _ part unit => decide (unit < unitCount part.val)
  | .rowRemap _ _ _ row => decide (row < 24576)
  | .rowRetire _ _ _ row => decide (row < 24576)
  | .flashRetire _ block _ => decide (block < 65536)
  | .scanBlock _ f => f.wf
  | .mergeHandover _ es pl _ => !es.isEmpty && decide (es.length ≤ 256) && es.all (fun n => decide (n < 16777216)) && pl.wf
  | .blockMove _ src pl _ => !src.isEmpty && src.all (fun e => headerOk e.2) && (pl.map Place.wf).getD true
  | .exclusionSettle _ h => headerOk h
  | .reclaim r => r.wf
  | .blockReload _ h _ => headerOk h
  | .memoryRead _ _ n _ => decide (1 ≤ n)
  | .memoryWrite _ _ bs _ => !bs.isEmpty
  | .sensorRead ts => decide (ts.length = 18)
  | .openRowProgram _ => true
  | .paceSample ps => decide (ps.length = 10)
  | .rdmaWrite _ _ bs => !bs.isEmpty
  | .rdmaRead _ _ n => decide (1 ≤ n)
  | .send _ bs => !bs.isEmpty
  | .mailbox _ _ body => decide (body.length ≤ 131056)
  | .firmwareUpdate part _ _ _ => decide (1 ≤ part.toNat) && decide (part.toNat ≤ 8)
  | .registerReadClear _ _ size => accessSizeOk size
  | .csrWrite _ _ size _ => accessSizeOk size
  | _ => true

end Sys2Proof
end

