-- ==== Sys2Proof/Safety.lean ====
section
/-! DEFINITION. The terms in which claims are stated: the parts of State, what a command may write, the canonical forms, and
the invariants. -/

namespace Sys2Proof.Machine

/-- The parts of State, one for each of its fields. -/
inductive Blk where
  | pending
  | freeCtr
  | secs
  | rsp
  | mod
  | qau
  | csn
  | alloc
  | corpus
  | flash
  | reel
  | sel
  | hbm
  | eng
  | warden
  | maint
  | life
  | pwr
  | therm
  | hold
  | meter
  | links
  deriving DecidableEq, Repr

/-- What a state holds outside some of its parts: those parts at their reset values. Two states that agree here differ in
nothing but those parts. -/
def State.without (s : State) (bs : List Blk) : State :=
  { pending := if .pending ∈ bs then State.reset.pending else s.pending,
    freeCtr := if .freeCtr ∈ bs then State.reset.freeCtr else s.freeCtr,
    secs := if .secs ∈ bs then State.reset.secs else s.secs,
    rsp := if .rsp ∈ bs then State.reset.rsp else s.rsp,
    mod := if .mod ∈ bs then State.reset.mod else s.mod,
    qau := if .qau ∈ bs then State.reset.qau else s.qau,
    csn := if .csn ∈ bs then State.reset.csn else s.csn,
    alloc := if .alloc ∈ bs then State.reset.alloc else s.alloc,
    corpus := if .corpus ∈ bs then State.reset.corpus else s.corpus,
    flash := if .flash ∈ bs then State.reset.flash else s.flash,
    reel := if .reel ∈ bs then State.reset.reel else s.reel,
    sel := if .sel ∈ bs then State.reset.sel else s.sel,
    hbm := if .hbm ∈ bs then State.reset.hbm else s.hbm,
    eng := if .eng ∈ bs then State.reset.eng else s.eng,
    warden := if .warden ∈ bs then State.reset.warden else s.warden,
    maint := if .maint ∈ bs then State.reset.maint else s.maint,
    life := if .life ∈ bs then State.reset.life else s.life,
    pwr := if .pwr ∈ bs then State.reset.pwr else s.pwr,
    therm := if .therm ∈ bs then State.reset.therm else s.therm,
    hold := if .hold ∈ bs then State.reset.hold else s.hold,
    meter := if .meter ∈ bs then State.reset.meter else s.meter,
    links := if .links ∈ bs then State.reset.links else s.links }

/-- The parts of State that a command may write; it leaves every other part as it is. No command writes the queue of waiting
commands, and the meter belongs to its own rows and to a write of block METER's registers (15 R533). -/
def writesOf : Instr → List Blk
  | .qauSqtail _ _ | .qauCqhead _ _ | .queueEnable _ _ | .queueDisable _ _ | .queueDrainEnd _ | .flush _ | .stats _
  | .fenceHoldEnd _ _ | .grantExpiry _ | .functionLevelReset _ => [.qau, .hbm, .warden, .links]
  | .qauAbort _ => [.freeCtr, .qau, .csn, .corpus, .flash, .reel, .sel, .hbm, .eng, .warden, .maint, .links]
  | .search _ | .range _ => [.freeCtr, .qau, .csn, .hbm, .eng, .warden, .maint, .links]
  | .insertBatch _ | .deleteBatch _ | .upsertBatch _ => [.qau, .csn, .hbm, .eng, .warden, .links]
  | .pin _ | .unpin _ | .pinRelease _ => [.qau, .csn, .hbm, .warden, .links]
  | .selftest _ | .refetch _ _ _ | .bypass _ _ | .rowRemap _ _ _ _ | .rowRetire _ _ _ _ | .laneRemap _ _
  | .flashRetire _ _ _ | .pcRetire _ _ | .stackRetire _ _ | .channelRewrite _ | .holdupTest _ _ | .ieee1500 _ _ _ _ _
  | .claimStart _ => [.qau, .corpus, .flash, .hbm, .eng, .warden, .maint, .hold, .links]
  | .update _ => [.freeCtr, .qau, .corpus, .flash, .hbm, .eng, .warden, .maint, .hold, .links]
  | .power _ => [.qau, .hbm, .warden, .pwr, .links]
  | .create _ | .destroy _ => [.qau, .csn, .corpus, .flash, .hbm, .warden, .links]
  | .genInstall _ | .collPriority _ => [.qau, .corpus, .flash, .hbm, .warden, .links]
  | .sample _ => [.freeCtr, .qau, .corpus, .flash, .reel, .hbm, .eng, .warden, .links]
  | .launch _ | .resume _ => [.qau, .hbm, .eng, .warden, .links]
  | .kill _ => [.qau, .flash, .hbm, .eng, .warden, .links]
  | .claimWaitTimeout _ => [.qau, .hbm, .warden, .maint, .links]
  | .slotAdmit _ => [.freeCtr, .qau, .reel, .eng, .maint]
  | .returnToRun => [.freeCtr, .qau, .csn, .corpus, .flash, .reel, .hbm, .eng, .warden, .maint, .pwr, .hold, .links]
  | .scanBlock _ _ => [.freeCtr, .qau, .corpus, .reel, .sel, .hbm, .eng, .warden, .links]
  | .backPressureRelease _ => [.freeCtr, .reel, .sel]
  | .chainCand _ => [.freeCtr, .qau, .reel, .sel, .hbm, .eng, .warden, .links]
  | .thresholdReceive _ _ => [.reel, .eng]
  | .chainStats _ => [.reel, .sel, .eng]
  | .chainLeave _ => [.freeCtr, .qau, .flash, .reel, .sel, .hbm, .eng, .warden, .life, .links]
  | .refineReadDone _ _ => [.freeCtr, .qau, .corpus, .flash, .hbm, .eng, .warden, .maint, .hold, .links]
  | .refineResult _ => [.freeCtr, .qau, .flash, .hbm, .eng, .warden, .links]
  | .payloadReadDone _ _ _ => [.freeCtr, .qau, .corpus, .flash, .hbm, .eng, .warden, .maint, .hold, .links]
  | .lapChunk _ _ => [.freeCtr, .hbm, .eng]
  | .eviction _ _ | .engCtlDrain _ _ | .engCtlLapok _ _ | .drained _ | .schedCfgWrite _ | .mmuCfgWrite _ => [.eng]
  | .batchCommit _ _ _ => [.qau, .csn, .alloc, .corpus, .flash, .hbm, .warden, .links]
  | .journalProgramDone => [.qau, .csn, .flash, .hbm, .warden, .links]
  | .csnRange => [.csn, .flash]
  | .checkpoint | .fcdCfgWrite _ => [.flash]
  | .openRowProgram _ => [.freeCtr, .qau, .corpus, .flash, .hbm, .eng, .warden, .links]
  | .mergeHandover _ _ _ _ | .blockMove _ _ _ _ => [.freeCtr, .qau, .csn, .corpus, .flash, .hbm, .warden, .links]
  | .csnBackfill _ => [.csn, .corpus]
  | .exclusionSettle _ _ => [.corpus]
  | .blockReload _ _ _ => [.freeCtr, .qau, .corpus, .flash, .hbm, .warden, .links]
  | .reclaim _ => [.mod, .qau, .alloc, .corpus, .flash, .hbm, .links]
  | .hdrWrite _ | .exclWrite _ | .settle _ | .repairReady _ => [.corpus, .reel, .hbm]
  | .pause _ | .weevilResume _ | .ucodeStage _ | .stateRead _ | .v1Abort _ => [.reel, .hbm]
  | .ucodeSwap _ => [.freeCtr, .reel, .hbm, .warden]
  | .weevilSelftest _ _ => [.qau, .corpus, .flash, .reel, .hbm, .eng, .warden, .maint, .hold, .links]
  | .bankModeChange _ _ => [.mod, .qau, .corpus, .reel, .hbm, .warden, .links]
  | .pauseTimeout _ => [.qau, .reel, .hbm, .links]
  | .dscan _ | .v1Go _ => [.freeCtr, .reel, .hbm]
  | .nop _ | .endProg _ | .trap _ | .getf _ | .clrf _ | .add _ | .sub _ | .mul _ | .div _ | .and _ | .or _ | .xor _
  | .shift _ | .minmax _ | .cmp _ | .addi _ | .andi _ | .shifti _ | .li _ | .lc _ | .fop _ | .amov _ | .aadd _ | .aaddi _
  | .alc _ | .tset _ | .tfld _ | .tget _ | .br _ | .jal _ | .jr _ | .loop _ | .varith _ | .vcmp _ | .vsel _ | .vcvt _
  | .vperm _ | .vbcast _ | .vext _ | .vsrnd _ | .vld _ | .vst _ | .plogic _ | .pset _ | .pcnt _ | .mopen _ | .mmul _
  | .mclose _ | .mdrop _ | .macc _ | .xpnd _ | .ldist _ | .lbound _ | .thrc _ | .topk _ | .rsum _ | .rmv _ | .rmaxsum _
  | .dld _ | .dst _ | .dcpy _ | .amo _ | .aaddt _ | .wvx _ | .sfence _ | .twait _ | .fence _ | .windec _
  | .budgetReached _ => [.freeCtr, .qau, .flash, .reel, .sel, .hbm, .eng, .warden, .links]
  | .rdcnt _ => [.freeCtr, .qau, .flash, .reel, .sel, .hbm, .eng, .warden, .links]
  | .executionFault _ _ => [.freeCtr, .qau, .csn, .corpus, .flash, .reel, .sel, .hbm, .eng, .warden, .maint, .links]
  | .stageEnd _ | .tamper _ => [.freeCtr, .qau, .csn, .corpus, .flash, .reel, .sel, .hbm, .eng, .warden, .links]
  | .opComplete _ _ => [.freeCtr, .corpus, .reel, .hbm, .eng]
  | .pageInDone _ => [.freeCtr, .qau, .corpus, .flash, .reel, .hbm, .eng, .warden, .links]
  | .pageinPreempt _ => [.freeCtr, .eng]
  | .preempt _ => [.freeCtr, .qau, .eng, .maint]
  | .pageIn _ => [.freeCtr, .qau, .corpus, .reel, .hbm, .eng, .links]
  | .evictionWriteDone _ _ _ => [.freeCtr, .corpus, .flash, .reel, .hbm, .eng]
  | .contextRestore _ _ | .workStart _ _ => [.freeCtr, .qau, .reel, .sel, .hbm, .eng, .warden, .maint, .links]
  | .contextTimeout _ => [.qau, .flash, .hbm, .eng, .links]
  | .memoryRead _ _ _ _ => [.freeCtr, .rsp, .hbm]
  | .memoryWrite _ _ _ _ => [.rsp, .corpus, .reel, .hbm]
  | .memoryAtomic _ _ _ _ _ _ | .rdmaWrite _ _ _ | .rdmaRead _ _ _ => [.rsp, .hbm]
  | .writeBufferDrain _ | .refresh _ _ | .hbmcSfence _ _ _ | .scanFenceDone _ _ => [.hbm]
  | .patrolScrub _ _ => [.freeCtr, .hbm]
  | .sensorRead _
  | .flowSample _ => [.freeCtr, .qau, .csn, .corpus, .flash, .reel, .sel, .hbm, .eng, .warden, .maint, .pwr, .therm, .links]
  | .thermalClear _ => [.qau, .hbm, .therm, .links]
  | .protectiveRestClear | .railReturn | .paceSample _ | .boundRecompute | .pwrCfgWrite _ => [.pwr]
  | .stackStopsAnswering _ => [.mod, .reel, .hbm]
  | .flashScrub _ _ _ _ => [.freeCtr, .qau, .corpus, .flash, .hbm, .eng, .warden, .maint, .hold, .links]
  | .garbageCollection _ _
  | .wearRelocation _ _ => [.freeCtr, .qau, .corpus, .flash, .hbm, .eng, .warden, .maint, .life, .hold, .links]
  | .getIdentity | .attest | .challenge | .auditRead | .claim | .time | .sessionOpen | .extend | .mailbox _ _ _ => [.rsp, .qau, .hbm, .warden, .links]
  | .transfer => [.rsp, .qau, .csn, .corpus, .flash, .hbm, .warden, .links]
  | .policy => [.freeCtr, .rsp, .mod, .qau, .alloc, .flash, .reel, .hbm, .eng, .warden, .pwr, .links]
  | .debugUnlock => [.freeCtr, .rsp, .qau, .csn, .corpus, .flash, .hbm, .eng, .warden, .links]
  | .debugEnd => [.freeCtr, .rsp, .mod, .qau, .corpus, .hbm, .warden, .links]
  | .debugLeaseExpiry => [.freeCtr, .mod, .qau, .corpus, .hbm, .warden, .links]
  | .pinExpired _ => [.qau, .csn, .hbm, .links]
  | .watchdog _ =>
    [.freeCtr, .rsp, .mod, .qau, .csn, .alloc, .corpus, .flash, .reel, .sel, .hbm, .eng, .warden, .maint, .pwr, .therm, .hold, .links]
  | .warmReset _ => [.freeCtr, .rsp, .mod, .qau, .csn, .alloc, .corpus, .flash, .reel, .sel, .hbm, .eng, .warden, .maint, .pwr, .therm, .hold, .links]
  | .coldStart =>
    [.freeCtr, .mod, .qau, .csn, .alloc, .corpus, .flash, .reel, .sel, .hbm, .eng, .warden, .maint, .pwr, .therm, .hold, .life, .meter, .links]
  | .fullReset _ => [.freeCtr, .rsp, .mod, .qau, .csn, .alloc, .corpus, .flash, .reel, .sel, .hbm, .eng, .warden, .maint, .pwr, .therm, .hold, .life, .links]
  | .scanFormReload _ => [.freeCtr, .mod, .qau, .corpus, .flash, .hbm, .warden, .links]
  | .holdupSave _ _ => [.freeCtr, .mod, .qau, .csn, .alloc, .corpus, .flash, .reel, .sel, .hbm, .eng, .warden, .maint, .pwr, .hold, .links]
  | .bankCharged => [.qau, .hbm, .hold, .links]
  | .capStep _ => [.freeCtr, .qau, .hbm, .pwr, .links]
  | .powerStateReached =>
    [.freeCtr, .mod, .qau, .csn, .alloc, .corpus, .flash, .reel, .sel, .hbm, .eng, .warden, .maint, .pwr, .hold, .links]
  | .wake => [.freeCtr, .rsp, .mod, .qau, .alloc, .corpus, .flash, .reel, .hbm, .eng, .warden, .pwr, .links]
  | .counterFlush => [.life]
  | .thermalHistogramSample => [.secs, .life]
  | .meterSign _ | .meterInstUpdate _ _ _ _ | .meterSave | .lrsUpdate _ _ | .paramChange _ _ | .ifUpdate _ _
  | .logCleared => [.meter]
  | .meterSignDone | .sealOpen | .sealClose _ | .meterFault _ => [.qau, .hbm, .meter, .links]
  | .send _ _ | .pcieCfgWrite _ => [.links]
  | .netPortWrite _ _ | .linkTrained _ _ | .portDown _ => [.freeCtr, .mod, .qau, .hbm, .links]
  | .getStart | .platformMonitoring _ | .fruData => [.rsp]
  | .firmwareUpdate _ _ _ _ =>
    [.freeCtr, .rsp, .mod, .qau, .csn, .alloc, .corpus, .flash, .reel, .hbm, .eng, .warden, .maint, .pwr, .hold, .links]
  | .allocSidefillWrite _ => [.alloc]
  | .reelCtlWrite _ => [.reel]
  | .registerReadClear _ _ _ => [.freeCtr, .rsp, .qau, .flash, .reel, .sel, .hbm, .eng, .maint, .therm, .links]
  | .csrWrite _ _ _ _ => [.freeCtr, .rsp, .mod, .qau, .csn, .alloc, .corpus, .flash, .reel, .sel, .hbm, .eng, .warden, .maint, .life, .pwr, .therm, .hold, .meter, .links]
  | .claimEnd _ _ _ _ =>
    [.freeCtr, .rsp, .mod, .qau, .alloc, .corpus, .flash, .reel, .hbm, .eng, .warden, .maint, .life, .hold, .links]
  | .inputRange _ => [.qau, .hbm, .pwr, .links]
  | .coreRestart => [.mod]

/-! ## Canonical forms and invariants -/

/-- HBM in its canonical form: places rise strictly, and no entry is listed that holds what an unlisted byte reads as. -/
def Memory.wf (s : State) : Bool := Tab.wf 0 s.hbm.mem

/-- The meter's log holds at most 1,024 entries, numbered on from one another up to the next number (15 R535), and no more
signatures are left than the key has; a signature in the making has an index left for it (15 R534). -/
structure MeterInv (s : State) : Prop where
  room : s.meter.log.length ≤ 1024
  numbered : s.meter.log.map (·.seq) = List.range' (s.meter.logSeq - s.meter.log.length) s.meter.log.length
  counted : s.meter.log.length ≤ s.meter.logSeq
  indices : s.meter.sigsLeft ≤ sigCount
  signing : s.meter.busy = true → s.meter.sigsLeft ≠ 0

/-- A command of block METER, or one that can write its registers. -/
def isMeterRow : Instr → Bool
  | .meterSign _ | .meterSignDone | .meterInstUpdate _ _ _ _ | .meterSave | .sealOpen | .sealClose _ | .lrsUpdate _ _
  | .paramChange _ _ | .ifUpdate _ _ | .logCleared | .meterFault _ => true
  | _ => false

/-! ## How claims speak of a command's effect -/

/-- `t` differs from `s` in the listed parts at most. -/
def keepsBut (s t : State) (bs : List Blk) : Prop := t.without bs = s.without bs

/-- No owner lock in force holds a bit of the register at `dpa` (00 R17). -/
abbrev unlocked (s : State) (dpa : Nat) : Prop := lockedBits s dpa = 0

/-- The module is not in Vigil, where most blocks take no write and read zero (15 Table 15.2). -/
abbrev awake (s : State) : Prop := s.pwr.state ≠ 4

/-! ## Ocelm: an instruction that its row issues -/

/-- The context `c` with record `x` runs on engine `e` within its budget, the word at its PC is `b` with opcode `op`, nothing holds
its issue back, and it passes every check of 08 R263. -/
abbrev Issues (s : State) (e : EngineId) (op : Nat) (u : OcUnit) (plan : State → Ctx → Iw → Plan) (c : Nat) (x : Ctx) (b : W64) : Prop :=
  runningOn s e.val = some (c, x) ∧ x.spent = false ∧ x.wordAt x.pc = some b ∧ iOp b.toNat = op ∧
    stalled x u b.toNat (plan s x b.toNat) = false ∧ fenceFirst x (plan s x b.toNat) = false ∧
    (plan s x b.toNat).trap x u b.toNat = none

/-- An instruction of the front end is complete: the context with its effect, counted, at the next PC. -/
def issuedTo (s : State) (c : Nat) (y : Ctx) (b : W64) (next : Nat) : Host.Outcome State Fault Refusal :=
  .next (s.setCtx c (some (y.issued' b.toNat next)))

/-- An instruction of another unit stands last in the queue of the context's operations, with its operands as read at issue and
the records of what it touches (07 R223, R227, R228). -/
def Ctx.queued (x : Ctx) (u : OcUnit) (b : W64) (p : Plan) : Ctx :=
  ({ x.issued' b.toNat (x.pc + 8) with issued := x.issued + 1, ops := x.ops ++ [capture x u b.toNat] }).recordUse u b.toNat p

/-- s[FD] takes a result; EF.SAT is set where it saturated. -/
def Ctx.scalar (x : Ctx) (b : W64) (v : W64) (sat : Bool) : Ctx :=
  (if sat then { x with ef := x.ef ||| 1#5 } else x).setS (iFd b.toNat) v

/-- An integer narrowed to the signed 64-bit range, and whether it lies outside it. -/
def narrow64 (v : Int) : W64 := BitVec.ofInt 64 (max (-9223372036854775808) (min 9223372036854775807 v))
def outside64 (v : Int) : Bool := decide (v < -9223372036854775808 ∨ 9223372036854775807 < v)

/-! ## Commands of a queue -/

/-- The oldest fetched command of a queue is `c`, of this opcode, and passes the first check of Table 12.3. -/
abbrev Fetched (s : State) (q : QueueId) (op : Nat) (c : Cmd) : Prop :=
  oldest s q.val (fun k => k.opcode = op) = some c ∧ stepOne c = true

/-- The MAINT command `c` of a subop stands at its queue, whose MAINT bit is set; its body `bs` is read, leaving the state `s'`, and its
result buffer can be reached (12 R422). -/
abbrev MaintRead (s s' : State) (q : QueueId) (sub : Nat) (c : Cmd) (bs : List Byte) : Prop :=
  maintCmd s q.val sub = some c ∧ stepOne c = true ∧ (s.queue q.val).maint = true ∧ maintBody s c = (s', some bs, true) ∧
    (c.rlen = 0 || reachable s' c.raddr c.rlen) = true ∧ admissionStopped s' = false

/-- The claim that an activity would hold, as it stands while it waits (14 R482). -/
def asks (s : State) (a : Activity) (auto : Bool) (cmd queue tag : Nat) : Claim := ⟨0, a, auto, cmd, queue, tag, [], s.secs, false⟩

/-- Entry `n` of the claim table is the one the activity takes, and the matrix and the limits let it start (14 R482-R485). -/
abbrev Claims (s : State) (a : Activity) (auto : Bool) (n : Nat) : Prop :=
  freeClaim s auto = some n ∧ (outcome s a auto none = .both ∨ outcome s a auto none = .pause)

/-- What an activity of a command leaves that takes entry `n` at once: the claim runs, and the command stays with it. -/
def claimed (s : State) (c : Cmd) (a : Activity) (n : Nat) (phase : Phase) : State :=
  (runEntry s n (asks s a false c.seq c.queue c.tag)).setCmd { c with phase := phase }

end Sys2Proof.Machine
end

