-- ==== Sys2Proof/Certificates/Slice0/Obligations.lean ====
section
/-! DEFINITION. The statements for the provers, each about one command or all of them, from the numbered rules of spec/. -/

section

open Sys2Proof Sys2Proof.Machine

/-- A step with command c at the front of the queue is exec of c on the state with the rest of the queue; with an empty queue
the step changes nothing (the model's choice, log 9). -/
def Obligations.StepRunsFrontCommand : Prop :=
  (∀ (c : Instr) (rest : List Instr) (s : State), step { s with pending := c :: rest } = exec c { s with pending := rest }) ∧
  ∀ s : State, s.pending = [] → step s = .next s

/-- Every command on every state answers a next state: whatever goes wrong is reported in a status, a record or an error
register, and the block goes on. -/
def Obligations.EveryCommandAnswersNext : Prop :=
  ∀ (i : Instr) (s : State), ∃ t, exec i s = .next t

/-- For every command and state, the next state differs from the state in the parts of the table writesOf at most: the parts of
the state that the rules of that command's row, and of what it starts at once, write. The queue of waiting commands is in no row
of the table. -/
def Obligations.CommandsWriteOnlyTheirParts : Prop :=
  ∀ (i : Instr) (s : State), ∃ t, exec i s = .next t ∧ keepsBut s t (writesOf i) ∧ t.pending = s.pending

/-- The reset state meets the meter's invariant, its memory is in canonical form (no byte is listed; that an unlisted byte reads
0 is the model's choice, log 3), and no command waits. -/
def Obligations.ResetMeetsInvariants : Prop :=
  MeterInv State.reset ∧ Memory.wf State.reset = true ∧ State.reset.pending = []

/-- From every state that meets the meter's invariant (at most 1,024 log entries, with consecutive numbers up to the next one;
at most 2^20 signatures left; a signature in the making has an index left), whatever command a step runs, the state after it
meets the invariant. That the numbers start at 0 and go on after a clearing is the model's reading (log 21). -/
def Obligations.StepKeepsMeterInvariant : Prop :=
  ∀ s t : State, MeterInv s → step s = .next t → MeterInv t

/-- Registers are 64 bits wide and aligned: a write of another size, or at an address that is no multiple of 8, changes nothing
at all; such a read answers zero and changes no register. -/
def Obligations.NarrowAccessLeavesRegisters : Prop :=
  ∀ (c : CoreId) (a : Dpa) (size : Nat) (v : W64) (s : State), size ≠ 8 ∨ a.toNat % 8 ≠ 0 →
    exec (.csrWrite (.core c) a size v) s = .next s ∧ exec (.registerReadClear (.core c) a size) s = .next { s with rsp := .value 0 }

/-- For every block ID below 256 that Table 0.3 does not assign and every aligned offset in it, a 64-bit write changes nothing,
and a 64-bit read answers zero and changes nothing but the answer and the model's counter of free values (log 5). -/
def Obligations.UnassignedBlocksReadZero : Prop :=
  ∀ (c : CoreId) (blk off : Nat) (v : W64) (s : State), blk < 256 → off < 0x100000 → off % 8 = 0 →
    blk ∉ [0x00, 0x01, 0x02, 0x03, 0x04, 0x05, 0x60, 0x62, 0xA0, 0xA1, 0xA2, 0xB0, 0xB1, 0xB2, 0xB8, 0xC0, 0xD0, 0xD1, 0xE0] →
    ¬ (0x10 ≤ blk ∧ blk < 0x1C) → ¬ (0x20 ≤ blk ∧ blk < 0x28) → ¬ (0x30 ≤ blk ∧ blk < 0x60) → ¬ (0x70 ≤ blk ∧ blk < 0x92) →
    exec (.csrWrite (.core c) (BitVec.ofNat 49 (csrDpa blk off)) 8 v) s = .next s ∧
    exec (.registerReadClear (.core c) (BitVec.ofNat 49 (csrDpa blk off)) 8) s =
      .next { s with rsp := .value 0, freeCtr := s.freeCtr + 1 }

/-- Outside Vigil, a read of QAU_STAT, SEL_STAT, HBMC_ERRn, SCHED_STAT, MMU_STAT, BOR_ERRn, PCIE_STAT, THERM_GRPn or MAINT_STAT
answers the value the register had, returns its read-clear counters to zero and leaves the rest of the state as it was, but for
the model's counter of free values (log 5). A read of PWR_INPUT, as an example of a register without such a field, changes the
answer and that counter alone. -/
def Obligations.ReadsClearTheirCounters : Prop :=
  ∀ (c : CoreId) (s : State), awake s →
    let read (blk off : Nat) : Host.Outcome State Fault Refusal :=
      exec (.registerReadClear (.core c) (BitVec.ofNat 49 (csrDpa blk off)) 8) s
    let told (blk off : Nat) : State :=
      { s with rsp := .value (BitVec.ofNat 64 (regValue s c.val blk off)), freeCtr := s.freeCtr + 1 }
    read 0x01 8 = .next { told 0x01 8 with qau.evdrop := 0 } ∧
    read 0x03 0 = .next { told 0x03 0 with sel.dups := 0, sel.dupinc := 0, sel.thrSent := 0 } ∧
    (∀ n : Fin 12, read (0x10 + n.val) 8 = .next ((told (0x10 + n.val) 8).modCtl n.val (fun k =>
      { k with ce := 0, ue := 0, mis := 0, dieCe := 0, dieUe := 0, poison := 0, accErr := 0 }))) ∧
    read 0x62 8 = .next { told 0x62 8 with eng.preempts := 0, eng.slotWait := 0 } ∧
    read 0x60 8 = .next { told 0x60 8 with eng.pageins := 0, eng.evicts := 0 } ∧
    (∀ b : Fin 32, read (0x72 + b.val) 8 = .next ((told (0x72 + b.val) 8).modChannel b.val (fun k =>
      { k with corrHi := 0, retry := 0, recon := 0, excl := 0 }))) ∧
    read 0xA1 8 = .next { told 0xA1 8 with links.flrs := 0 } ∧
    (∀ g : Fin 18, read 0xB1 (0x100 + 8 * g.val) = .next ((told 0xB1 (0x100 + 8 * g.val)).modGroup g.val (fun k =>
      { k with peak := 0 }))) ∧
    read 0xD0 0 = .next { told 0xD0 0 with maint.drops := 0, maint.refused := 0 } ∧
    read 0xB0 0x18 = .next (told 0xB0 0x18)

/-- A core's 64-bit write at the address of PWR_CFG or METER_SIGN, in every state, and outside Vigil at the address of
ALLOC_SIDEFILL, REEL_CTL, FCD_CFG, SCHED_CFG, MMU_CFG, PCIE_CFG, NET_PORTp, ENG_CTLe, HBMC_SFENCEn, QAU_SQTAILq, QAU_CQHEADq or
QAU_ABORT, answers what the row of that register answers with the same value. -/
def Obligations.CsrWriteActsAsTheRow : Prop :=
  ∀ (c : CoreId) (v : W64) (s : State),
    let write (blk off : Nat) : Host.Outcome State Fault Refusal :=
      exec (.csrWrite (.core c) (BitVec.ofNat 49 (csrDpa blk off)) 8 v) s
    write 0xB0 8 = exec (.pwrCfgWrite v) s ∧ write 0xB8 0x40 = exec (.meterSign v) s ∧
    (awake s →
    write 0x04 0x40 = exec (.allocSidefillWrite v) s ∧ write 0x02 0 = exec (.reelCtlWrite v) s ∧
    write 0x70 8 = exec (.fcdCfgWrite v) s ∧ write 0x62 0 = exec (.schedCfgWrite v) s ∧
    write 0x60 0 = exec (.mmuCfgWrite v) s ∧ write 0xA1 0 = exec (.pcieCfgWrite v) s ∧ write 0x01 0x10 = exec (.qauAbort v) s ∧
    (∀ p : Fin 2, write 0xA0 (0x100 + 8 * p.val) = exec (.netPortWrite p v) s) ∧
    (∀ e : EngineId, write (0x30 + e.val) 8 = exec (.engCtlLapok e v) s) ∧
    (∀ n : StackId, write (0x10 + n.val) 0x100 = exec (.hbmcSfence c n v) s) ∧
    (∀ q : QueueId, write 0x01 (0x10000 + 0x40 * q.val + 0x18) = exec (.qauSqtail q v) s) ∧
    ∀ q : QueueId, write 0x01 (0x10000 + 0x40 * q.val + 0x20) = exec (.qauCqhead q v) s)

/-- With no owner lock on the register, a write of ALLOC_SIDEFILL with URGENT_PCT outside 50-85 or BUSY_PCT outside URGENT_PCT +
5 to 95, of REEL_CTL with PAUSEMAX_US outside 10-500 or DSHARE above 25, of MMU_CFG with FREEMIN below 64 or above 5 % of the
frames of the pool, or PREEMPT_US outside 20-5,000, or of PWR_CFG with CAP_W outside 1,600-2,400 or OPSEL 3, answers the same
state. -/
def Obligations.OutOfRangeSettingsStay : Prop :=
  ∀ (v : W64) (s : State),
    (unlocked s (csrDpa 0x04 0x40) → bits v.toNat 0 8 < 50 ∨ 85 < bits v.toNat 0 8 ∨ bits v.toNat 8 8 < bits v.toNat 0 8 + 5 ∨
      95 < bits v.toNat 8 8 → exec (.allocSidefillWrite v) s = .next s) ∧
    (unlocked s (csrDpa 0x02 0) → bits v.toNat 16 16 < 10 ∨ 500 < bits v.toNat 16 16 ∨ 25 < bits v.toNat 8 8 →
      exec (.reelCtlWrite v) s = .next s) ∧
    (unlocked s (csrDpa 0x60 0) → bits v.toNat 16 32 < 64 ∨ freeMinMax s < bits v.toNat 16 32 ∨ bits v.toNat 0 16 < 20 ∨
      5000 < bits v.toNat 0 16 → exec (.mmuCfgWrite v) s = .next s) ∧
    (unlocked s (csrDpa 0xB0 8) → bits v.toNat 16 12 < 1600 ∨ 2400 < bits v.toNat 16 12 ∨ bits v.toNat 0 2 = 3 →
      exec (.pwrCfgWrite v) s = .next s)

/-- Outside Vigil and with no owner lock on the register, a write of ALLOC_SIDEFILL, REEL_CTL, FCD_CFG, SCHED_CFG, MMU_CFG,
PWR_CFG or PCIE_CFG with every field in its range answers the state in which the fields hold the values written (for FCD_CFG
also the free units of the refine area, which takes what the backing store leaves, log 34; for PWR_CFG the rail's set point; for
PCIE_CFG the link, down where ENABLE is cleared), and which is otherwise the same. -/
def Obligations.SettingsTakeEffect : Prop :=
  ∀ (v : W64) (s : State), awake s →
    (unlocked s (csrDpa 0x04 0x40) → 50 ≤ bits v.toNat 0 8 → bits v.toNat 0 8 ≤ 85 → bits v.toNat 0 8 + 5 ≤ bits v.toNat 8 8 →
      bits v.toNat 8 8 ≤ 95 →
      exec (.allocSidefillWrite v) s = .next { s with alloc.urgentPct := bits v.toNat 0 8, alloc.busyPct := bits v.toNat 8 8 }) ∧
    (unlocked s (csrDpa 0x02 0) → 10 ≤ bits v.toNat 16 16 → bits v.toNat 16 16 ≤ 500 → bits v.toNat 8 8 ≤ 25 →
      exec (.reelCtlWrite v) s = .next { s with
        reel.pauseMax := bits v.toNat 16 16, reel.dshare := bits v.toNat 8 8, reel.mode := bit v.toNat 0 }) ∧
    (unlocked s (csrDpa 0x70 8) → 1 ≤ bits v.toNat 0 8 → bits v.toNat 0 8 ≤ engbackMax → backUnits s ≤ bits v.toNat 0 8 →
      exec (.fcdCfgWrite v) s = .next { s with
        flash.engback := bits v.toNat 0 8
        flash.freeUnits := s.flash.freeUnits + s.flash.engback * 62500000 - bits v.toNat 0 8 * 62500000 }) ∧
    (unlocked s (csrDpa 0x62 0) → 1 ≤ bits v.toNat 0 4 → bits v.toNat 0 4 ≤ 8 → 1 ≤ bits v.toNat 4 4 → bits v.toNat 4 4 ≤ 8 →
      8 + bits v.toNat 0 4 ≤ lapokIn s 0 → 8 + bits v.toNat 4 4 ≤ lapokIn s 1 →
      exec (.schedCfgWrite v) s = .next { s with eng.resvA := bits v.toNat 0 4, eng.resvB := bits v.toNat 4 4 }) ∧
    (unlocked s (csrDpa 0x60 0) → 64 ≤ bits v.toNat 16 32 → bits v.toNat 16 32 ≤ freeMinMax s → 20 ≤ bits v.toNat 0 16 →
      bits v.toNat 0 16 ≤ 5000 →
      exec (.mmuCfgWrite v) s = .next { s with eng.freeMin := bits v.toNat 16 32, eng.preemptUs := bits v.toNat 0 16 }) ∧
    (unlocked s (csrDpa 0xB0 8) → 1600 ≤ bits v.toNat 16 12 → bits v.toNat 16 12 ≤ 2400 → bits v.toNat 0 2 ≠ 3 →
      exec (.pwrCfgWrite v) s = .next { s with
        pwr.capW := bits v.toNat 16 12, pwr.opsel := bits v.toNat 0 2, pwr.railMv := railFor s (bits v.toNat 0 2) }) ∧
    (unlocked s (csrDpa 0xA1 0) → bits v.toNat 16 10 + bits v.toNat 32 11 ≤ 1024 → bits v.toNat 2 2 ≠ 3 →
      exec (.pcieCfgWrite v) s = .next { s with
        links.qcount := bits v.toNat 32 11, links.qbase := bits v.toNat 16 10, links.maxGen := bits v.toNat 2 2,
        links.pcieOn := bit v.toNat 0, links.pcieUp := bit v.toNat 0 && s.links.pcieUp,
        links.pcieWidth := if bit v.toNat 0 then s.links.pcieWidth else 0,
        links.pcieGen := if bit v.toNat 0 then s.links.pcieGen else 0 })

/-- Outside Vigil, whatever the owner locks hold: let each field of ALLOC_SIDEFILL, REEL_CTL, FCD_CFG, SCHED_CFG, MMU_CFG,
PWR_CFG or PCIE_CFG become what the write makes of it (the bits written where no lock in force holds the field, else what it
held). Where those values are in range, the write of the register answers the state with just those values (for FCD_CFG also the
free units of the refine area, log 34; for PWR_CFG the rail's set point; for PCIE_CFG the link, down where ENABLE is cleared);
where one of them is out of range, it answers the same state. -/
def Obligations.SettingsWritesComplete : Prop :=
  ∀ (v : W64) (s : State), awake s →
    let new (dpa lo len old : Nat) : Nat := if softOpen s dpa lo len then bits v.toNat lo len else old
    let newBit (dpa lo : Nat) (old : Bool) : Bool := if softOpen s dpa lo 1 then bit v.toNat lo else old
    (let u := new (csrDpa 0x04 0x40) 0 8 s.alloc.urgentPct
     let b := new (csrDpa 0x04 0x40) 8 8 s.alloc.busyPct
     ((50 ≤ u ∧ u ≤ 85 ∧ u + 5 ≤ b ∧ b ≤ 95) →
       exec (.allocSidefillWrite v) s = .next { s with alloc.urgentPct := u, alloc.busyPct := b }) ∧
     (¬ (50 ≤ u ∧ u ≤ 85 ∧ u + 5 ≤ b ∧ b ≤ 95) → exec (.allocSidefillWrite v) s = .next s)) ∧
    (let p := new (csrDpa 0x02 0) 16 16 s.reel.pauseMax
     let d := new (csrDpa 0x02 0) 8 8 s.reel.dshare
     ((10 ≤ p ∧ p ≤ 500 ∧ d ≤ 25) → exec (.reelCtlWrite v) s = .next { s with
       reel.pauseMax := p, reel.dshare := d, reel.mode := newBit (csrDpa 0x02 0) 0 s.reel.mode }) ∧
     (¬ (10 ≤ p ∧ p ≤ 500 ∧ d ≤ 25) → exec (.reelCtlWrite v) s = .next s)) ∧
    (let n := new (csrDpa 0x70 8) 0 8 s.flash.engback
     ((1 ≤ n ∧ n ≤ engbackMax ∧ backUnits s ≤ n) → exec (.fcdCfgWrite v) s = .next { s with
       flash.engback := n, flash.freeUnits := s.flash.freeUnits + s.flash.engback * 62500000 - n * 62500000 }) ∧
     (¬ (1 ≤ n ∧ n ≤ engbackMax ∧ backUnits s ≤ n) → exec (.fcdCfgWrite v) s = .next s)) ∧
    (let a := new (csrDpa 0x62 0) 0 4 s.eng.resvA
     let b := new (csrDpa 0x62 0) 4 4 s.eng.resvB
     ((1 ≤ a ∧ a ≤ 8 ∧ 1 ≤ b ∧ b ≤ 8 ∧ 8 + a ≤ lapokIn s 0 ∧ 8 + b ≤ lapokIn s 1) →
       exec (.schedCfgWrite v) s = .next { s with eng.resvA := a, eng.resvB := b }) ∧
     (¬ (1 ≤ a ∧ a ≤ 8 ∧ 1 ≤ b ∧ b ≤ 8 ∧ 8 + a ≤ lapokIn s 0 ∧ 8 + b ≤ lapokIn s 1) → exec (.schedCfgWrite v) s = .next s)) ∧
    (let f := new (csrDpa 0x60 0) 16 32 s.eng.freeMin
     let p := new (csrDpa 0x60 0) 0 16 s.eng.preemptUs
     ((64 ≤ f ∧ f ≤ freeMinMax s ∧ 20 ≤ p ∧ p ≤ 5000) →
       exec (.mmuCfgWrite v) s = .next { s with eng.freeMin := f, eng.preemptUs := p }) ∧
     (¬ (64 ≤ f ∧ f ≤ freeMinMax s ∧ 20 ≤ p ∧ p ≤ 5000) → exec (.mmuCfgWrite v) s = .next s)) ∧
    (let c := new (csrDpa 0xB0 8) 16 12 s.pwr.capW
     let p := new (csrDpa 0xB0 8) 0 2 s.pwr.opsel
     ((1600 ≤ c ∧ c ≤ 2400 ∧ p ≠ 3) → exec (.pwrCfgWrite v) s = .next { s with
       pwr.capW := c, pwr.opsel := p, pwr.railMv := railFor s p }) ∧
     (¬ (1600 ≤ c ∧ c ≤ 2400 ∧ p ≠ 3) → exec (.pwrCfgWrite v) s = .next s)) ∧
    (let n := new (csrDpa 0xA1 0) 32 11 s.links.qcount
     let b := new (csrDpa 0xA1 0) 16 10 s.links.qbase
     let g := new (csrDpa 0xA1 0) 2 2 s.links.maxGen
     let on := newBit (csrDpa 0xA1 0) 0 s.links.pcieOn
     ((b + n ≤ 1024 ∧ g ≠ 3) → exec (.pcieCfgWrite v) s = .next { s with
       links.qcount := n, links.qbase := b, links.maxGen := g, links.pcieOn := on, links.pcieUp := on && s.links.pcieUp,
       links.pcieWidth := if on then s.links.pcieWidth else 0, links.pcieGen := if on then s.links.pcieGen else 0 }) ∧
     (¬ (b + n ≤ 1024 ∧ g ≠ 3) → exec (.pcieCfgWrite v) s = .next s))

/-- With no owner lock on the register, a write of FCD_CFG with ENGBACK outside its range or below the backing store in use, of
SCHED_CFG with a reserve outside 1-8 or one that leaves fewer than 8 engines of a half with LAPOK set outside the reserve, of
PCIE_CFG with QBASE + QCOUNT above 1,024 or MAXGEN 3, and of ENG_CTL with LAPOK cleared where fewer than 8 other engines of its
half have LAPOK set, answers the same state. -/
def Obligations.BoundedSettingsStay : Prop :=
  ∀ (v : W64) (s : State),
    (unlocked s (csrDpa 0x70 8) → bits v.toNat 0 8 = 0 ∨ engbackMax < bits v.toNat 0 8 ∨ bits v.toNat 0 8 < backUnits s →
      exec (.fcdCfgWrite v) s = .next s) ∧
    (unlocked s (csrDpa 0x62 0) → bits v.toNat 0 4 = 0 ∨ 8 < bits v.toNat 0 4 ∨ bits v.toNat 4 4 = 0 ∨ 8 < bits v.toNat 4 4 ∨
      lapokIn s 0 < 8 + bits v.toNat 0 4 ∨ lapokIn s 1 < 8 + bits v.toNat 4 4 → exec (.schedCfgWrite v) s = .next s) ∧
    (unlocked s (csrDpa 0xA1 0) → 1024 < bits v.toNat 16 10 + bits v.toNat 32 11 ∨ bits v.toNat 2 2 = 3 →
      exec (.pcieCfgWrite v) s = .next s) ∧
    ∀ e : EngineId, unlocked s (csrDpa (0x30 + e.val) 8) → (s.engine e.val).lapok = true → bit v.toNat 1 = false →
      ((List.range 24).filter (fun i => decide (24 * (e.val / 24) + i ≠ e.val) && (s.engine (24 * (e.val / 24) + i)).lapok)).length < 8 →
      exec (.engCtlLapok e v) s = .next s ∧ exec (.engCtlDrain e v) s = .next s

/-- Where an owner lock in force holds the field, a write of its register leaves URGENT_PCT, BUSY_PCT, PAUSEMAX_US, DSHARE,
ENGBACK, RESV_A, RESV_B, FREEMIN, PREEMPT_US, CAP_W, OPSEL, QCOUNT, QBASE, MAXGEN and LAPOK as they were. -/
def Obligations.LockedFieldsKeepTheirValue : Prop :=
  ∀ (v : W64) (s t : State),
    (exec (.allocSidefillWrite v) s = .next t →
      (softOpen s (csrDpa 0x04 0x40) 0 8 = false → t.alloc.urgentPct = s.alloc.urgentPct) ∧
      (softOpen s (csrDpa 0x04 0x40) 8 8 = false → t.alloc.busyPct = s.alloc.busyPct)) ∧
    (exec (.reelCtlWrite v) s = .next t →
      (softOpen s (csrDpa 0x02 0) 16 16 = false → t.reel.pauseMax = s.reel.pauseMax) ∧
      (softOpen s (csrDpa 0x02 0) 8 8 = false → t.reel.dshare = s.reel.dshare)) ∧
    (exec (.fcdCfgWrite v) s = .next t → softOpen s (csrDpa 0x70 8) 0 8 = false → t.flash.engback = s.flash.engback) ∧
    (exec (.schedCfgWrite v) s = .next t →
      (softOpen s (csrDpa 0x62 0) 0 4 = false → t.eng.resvA = s.eng.resvA) ∧
      (softOpen s (csrDpa 0x62 0) 4 4 = false → t.eng.resvB = s.eng.resvB)) ∧
    (exec (.mmuCfgWrite v) s = .next t →
      (softOpen s (csrDpa 0x60 0) 16 32 = false → t.eng.freeMin = s.eng.freeMin) ∧
      (softOpen s (csrDpa 0x60 0) 0 16 = false → t.eng.preemptUs = s.eng.preemptUs)) ∧
    (exec (.pwrCfgWrite v) s = .next t →
      (softOpen s (csrDpa 0xB0 8) 16 12 = false → t.pwr.capW = s.pwr.capW) ∧
      (softOpen s (csrDpa 0xB0 8) 0 2 = false → t.pwr.opsel = s.pwr.opsel)) ∧
    (exec (.pcieCfgWrite v) s = .next t →
      (softOpen s (csrDpa 0xA1 0) 32 11 = false → t.links.qcount = s.links.qcount) ∧
      (softOpen s (csrDpa 0xA1 0) 16 10 = false → t.links.qbase = s.links.qbase) ∧
      (softOpen s (csrDpa 0xA1 0) 2 2 = false → t.links.maxGen = s.links.maxGen)) ∧
    ∀ e : EngineId, exec (.engCtlDrain e v) s = .next t → softOpen s (csrDpa (0x30 + e.val) 8) 1 1 = false →
      (t.engine e.val).lapok = (s.engine e.val).lapok

/-- Outside Vigil and with no owner lock on it, a write of ENG_CTL that leaves LAPOK set gives the engine the LAPOK and DRAIN
written (DRAIN stays 1 during an update and after a permanent drain), clears DRAINED where DRAIN is cleared, and changes nothing
else. An engine that drains and holds no work becomes DRAINED, UPDATING where an update waits for it; one that still works, or
does not drain, is left as it is. -/
def Obligations.EngineDrainEffects : Prop :=
  (∀ (e : EngineId) (v : W64) (s : State), awake s → unlocked s (csrDpa (0x30 + e.val) 8) → bit v.toNat 1 = true →
    let t := s.modEngine e.val (fun g => { g with
      lapok := true, drain := bit v.toNat 0 || (s.engine e.val).updating || (s.engine e.val).permanent,
      isDrained := g.isDrained && (bit v.toNat 0 || (s.engine e.val).updating || (s.engine e.val).permanent) })
    exec (.engCtlDrain e v) s = .next t ∧ exec (.engCtlLapok e v) s = .next t) ∧
  ∀ (e : EngineId) (s : State),
    ((s.engine e.val).drain = true → (s.engine e.val).work = .idle →
      exec (.drained e) s = .next (s.modEngine e.val (fun g => { g with isDrained := true, updating := updatesEngine s e.val }))) ∧
    ((s.engine e.val).drain = false ∨ (s.engine e.val).work ≠ .idle → exec (.drained e) s = .next s)

/-- A command that is no row of the meter and no register write leaves every part of the meter as it was: resets, hold-up saves
and power states among them; a COLD_START does so unless the meter itself had lost its power (METER_SAVE) and comes up with the
register that it stored (R532). A write of a register outside block METER leaves the meter as it was; one in block METER sets a
nonce, selects a log entry, or makes the sign request of METER_SIGN, and does nothing else to the state. -/
def Obligations.MeterIsApart : Prop :=
  (∀ (i : Instr) (s t : State), exec i s = .next t → isMeterRow i = false → (∀ c a n v, i ≠ .csrWrite c a n v) →
    (i = .coldStart → s.meter.off = false) → t.meter = s.meter) ∧
  ∀ (c : Master) (a : Dpa) (n : Nat) (v : W64) (s t : State), exec (.csrWrite c a n v) s = .next t →
    (c = .bar0 ∨ regBlock a.toNat ≠ 0xB8 → t.meter = s.meter) ∧
    (c ≠ .bar0 → regBlock a.toNat = 0xB8 → t = s ∨ exec (.meterSign v) s = .next t ∨
      (∃ x, t = { s with meter.nonce := x }) ∨ ∃ x, t = { s with meter.logIdx := x })

/-- A write of METER_SIGN while BUSY is 1 changes nothing. A GO that is taken keeps the nonce registers' values as the nonce of
this request; a nonce written while BUSY is 1 goes into the nonce registers and leaves the nonce of the request being made as it
was. -/
def Obligations.SignRequestsAndNonces : Prop :=
  ∀ (v : W64) (s : State),
    (s.meter.busy = true → exec (.meterSign v) s = .next s) ∧
    (∀ t, exec (.meterSign v) s = .next t → s.meter.busy = false → t.meter.busy = true →
      t.meter.signNonce = (List.range 4).map (fun i => Tab.get 0 s.meter.nonce i)) ∧
    ∀ (c : CoreId) (i : Fin 4),
      exec (.csrWrite (.core c) (BitVec.ofNat 49 (csrDpa 0xB8 (0x20 + 8 * i.val))) 8 v) s =
        .next { s with meter.nonce := Tab.set 0 s.meter.nonce i.val v }

/-- A GO while none is in the making: with no signature left, or with the KEY_LOW entry due and the log full (the model's
choice, log 50), the result is FAULT; else within 900 s of the last request taken it is BUSY; else the request is taken: BUSY
reads 1, the time is kept, and the nonce held is the request's. A write without GO changes nothing. When the signature is made,
METER_RBUF holds the reading over its 144-byte body with its index and signature, one index is used, and BUSY clears; with the
KEY_LOW entry due and a log that has filled since, the result is FAULT and no index is used (log 50); with another number than
65,536 and more than one left nothing else changes. -/
def Obligations.SignatureIsMade : Prop :=
  (∀ (v : W64) (s : State), bit v.toNat 63 = false → exec (.meterSign v) s = .next s) ∧
  (∀ (v : W64) (s : State), bit v.toNat 63 = true → s.meter.busy = false →
    (s.meter.sigsLeft = 0 ∨ (s.meter.sigsLeft = 65536 ∧ 1024 ≤ s.meter.log.length) →
      exec (.meterSign v) s = .next { s with meter.result := stFault }) ∧
    (s.meter.sigsLeft ≠ 0 → (s.meter.sigsLeft = 65536 → s.meter.log.length < 1024) →
      (∀ k, s.meter.lastSign = some k → k + 9000 > s.meter.ticks → exec (.meterSign v) s = .next { s with meter.result := stBusy }) ∧
      ((∀ k, s.meter.lastSign = some k → k + 9000 ≤ s.meter.ticks) →
        exec (.meterSign v) s = .next { s with
          meter.busy := true
          meter.lastSign := some s.meter.ticks
          meter.signNonce := (List.range 4).map (fun i => Tab.get 0 s.meter.nonce i) }))) ∧
  ∀ s : State,
    (s.meter.busy = false → exec .meterSignDone s = .next s) ∧
    (s.meter.busy = true → s.meter.sigsLeft = 65536 → 1024 ≤ s.meter.log.length →
      exec .meterSignDone s = .next { s with meter.busy := false, meter.result := stFault }) ∧
    (s.meter.busy = true → s.meter.sigsLeft ≠ 65536 → 2 ≤ s.meter.sigsLeft →
      exec .meterSignDone s = .next { s with
        meter.rbuf := readingBody s ++ leBytes 4 (sigCount - s.meter.sigsLeft) ++
          padTo 2816 (Config.meterSignature (sigCount - s.meter.sigsLeft) (readingBody s))
        meter.busy := false, meter.result := stOk, meter.sigsLeft := s.meter.sigsLeft - 1, meter.rangeLeft := false })

/-- When a signature is made with 65,536 indices left, and the log has room, entry 6 (KEY_LOW) is logged with the 65,535 left;
when it is made with one left and the log has room, entry 7 (KEY_EXHAUSTED) is logged, and none is left. The energy register
stays as it was. -/
def Obligations.KeyWarningsAreLogged : Prop :=
  ∀ s : State, s.meter.busy = true → s.meter.log.length < 1024 →
    (s.meter.sigsLeft = 65536 → ∃ t, exec .meterSignDone s = .next t ∧ t.meter.sigsLeft = 65535 ∧ t.meter.energy = s.meter.energy ∧
      t.meter.log = s.meter.log ++ [⟨s.meter.logSeq, 6, s.meter.energy, s.meter.ticks / 10, 65535#64⟩]) ∧
    (s.meter.sigsLeft = 1 → ∃ t, exec .meterSignDone s = .next t ∧ t.meter.sigsLeft = 0 ∧ t.meter.energy = s.meter.energy ∧
      t.meter.log = s.meter.log ++ [⟨s.meter.logSeq, 7, s.meter.energy, s.meter.ticks / 10, 0#64⟩])

/-- An update of METER_INST sets power, current and voltage, adds the energy of the 100 ms, counts the tick, marks the next
reading where the current lies outside 3-72 A, and changes nothing else. A save at power loss writes the energy register to
non-volatile memory and leaves the meter without power; the next cold start takes up the register stored, whatever its check of
the store finds (free, log 65). -/
def Obligations.EnergyAccumulates : Prop :=
  (∀ (p c v : BitVec 16) (mj : BitVec 32) (s : State), exec (.meterInstUpdate p c v mj) s = .next { s with
    meter.power := p, meter.curr := c, meter.volt := v, meter.ticks := s.meter.ticks + 1
    meter.energy := s.meter.energy + mj.zeroExtend 64
    meter.rangeLeft := s.meter.rangeLeft || decide (c.toNat < 300 ∨ 7200 < c.toNat) }) ∧
  (∀ s : State, exec .meterSave s = .next { s with meter.nvEnergy := s.meter.energy, meter.off := true }) ∧
  ∀ s : State, s.mod.pwrgd = false → s.meter.off = true →
    ∃ t, exec .coldStart s = .next t ∧ t.meter.energy = s.meter.nvEnergy ∧ t.meter.off = false

/-- With room in the log: closing the seal with the authority's key when it is open, an authentic update of the legally relevant
software or of a parameter with the seal open, an authentic update of the reporting interface, and the opening of the seal when
it is intact each append the entry of Table 15.7 and have their effect; a failure sets FAULT and appends entry 8. With 1,024
entries the closing and the updates change nothing, the opening is not logged (the model's choice, log 50), and a failure sets
FAULT and adds 1 to the last entry's DATA. Without the signature that Table 15.7 asks for (the vendor's for the reporting
interface, else the authority's) nothing changes, nor, but for the reporting interface, with the seal intact; a second opening
changes nothing. That the closing needs an open seal and the interface's update neither state of it is the model's reading (log
72). A clearing leaves one entry, of type 9, with the number of entries cleared. What the rules post beside is a METER_SEAL or
METER_FAULT event, so beyond the meter only the queues' records, memory and links may differ. -/
def Obligations.MeterLogGrows : Prop :=
  let add (s : State) (m : Meter) (type : Nat) (data : W64) : Meter :=
    { m with log := s.meter.log ++ [⟨s.meter.logSeq, type, s.meter.energy, s.meter.ticks / 10, data⟩], logSeq := s.meter.logSeq + 1 }
  (∀ (s : State) (key version : W64) (lrs : BitVec 16), s.meter.log.length < 1024 →
    (s.meter.sealIntact = true → ∃ t, exec .sealOpen s = .next t ∧ keepsBut s t [.qau, .hbm, .links, .meter] ∧
      t.meter = add s { s.meter with sealIntact := false } 1 0) ∧
    (s.meter.sealIntact = false →
      (∃ t, exec (.sealClose key) s = .next t ∧ keepsBut s t [.qau, .hbm, .links, .meter] ∧
        t.meter = add s { s.meter with sealIntact := true } 2 key) ∧
      exec (.lrsUpdate lrs true) s = .next { s with meter := add s { s.meter with lrsVer := lrs } 3 (lrs.zeroExtend 64) } ∧
      exec (.paramChange key true) s = .next { s with meter := add s s.meter 4 key }) ∧
    exec (.ifUpdate version true) s = .next { s with meter := add s s.meter 5 version } ∧
    ∃ t, exec (.meterFault key) s = .next t ∧ keepsBut s t [.qau, .hbm, .links, .meter] ∧
      t.meter = add s { s.meter with fault := true } 8 key) ∧
  (∀ (s : State) (key version : W64) (lrs : BitVec 16) (signed : Bool), s.meter.log.length = 1024 →
    exec (.sealClose key) s = .next s ∧ exec (.lrsUpdate lrs signed) s = .next s ∧ exec (.paramChange key signed) s = .next s ∧
    exec (.ifUpdate version signed) s = .next s ∧
    (∃ t, exec .sealOpen s = .next t ∧ t.meter = { s.meter with sealIntact := false }) ∧
    ∃ t, exec (.meterFault key) s = .next t ∧
      t.meter = { s.meter with fault := true, log := modAt s.meter.log 1023 (fun e => { e with data := e.data + 1 }) }) ∧
  (∀ (s : State) (key version : W64) (lrs : BitVec 16),
    exec (.lrsUpdate lrs false) s = .next s ∧ exec (.paramChange key false) s = .next s ∧ exec (.ifUpdate version false) s = .next s ∧
    (s.meter.sealIntact = true → exec (.sealClose key) s = .next s ∧ exec (.lrsUpdate lrs true) s = .next s ∧
      exec (.paramChange key true) s = .next s) ∧
    (s.meter.sealIntact = false → exec .sealOpen s = .next s)) ∧
  ∀ s : State, exec .logCleared s = .next { s with
    meter.log := [⟨s.meter.logSeq, 9, s.meter.energy, s.meter.ticks / 10, BitVec.ofNat 64 s.meter.log.length⟩]
    meter.logSeq := s.meter.logSeq + 1 }

/-- Outside Vigil a write of NET_PORTp with a mode of Table 16.3, or RATE 3 with any WIDTH (log 58, the model's reading), other
than the port's own gives the port that mode, down and untried, and may complete the start (START_DONE); with a combination the
table does not have, or the port's own mode, it changes nothing. Outside Vigil, a function-level or hot reset of the PCIe
function disables the exposed queues, clears the MSI-X enables and counts the reset; PERST# takes the link down beside. The
training of a data port that is configured and that no start or update has stopped, below Hush, with no refusal for its power
class, leaves up the interfaces that came up among those of its width, and marks it tried; the loss of the port's signal leaves
it down. M0 comes up at a rate of Table 16.4 (1000BASE-X alone in Vigil), with its own address where IPV4 holds one; PCIe comes
up below Hush while it is enabled, at a width it has and a generation up to MAXGEN; the loss of either's partner leaves it down.
Only the parts named can change beside. -/
def Obligations.PortsTrainAndFall : Prop :=
  (∀ (p : Fin 2) (v : W64) (s : State), awake s →
    let x := s.netPort p.val
    (modeOk (bits v.toNat 0 2) (bits v.toNat 8 2) = false → exec (.netPortWrite p v) s = .next s) ∧
    (bits v.toNat 0 2 = x.rate → bits v.toNat 8 2 = x.width → bit v.toNat 16 = x.macsec → exec (.netPortWrite p v) s = .next s) ∧
    (modeOk (bits v.toNat 0 2) (bits v.toNat 8 2) = true →
      bits v.toNat 0 2 ≠ x.rate ∨ bits v.toNat 8 2 ≠ x.width ∨ bit v.toNat 16 ≠ x.macsec →
      exec (.netPortWrite p v) s = .next (noteStart (s.modNetPort p.val (fun y => { y with
        rate := bits v.toNat 0 2, width := bits v.toNat 8 2, macsec := bit v.toNat 16, up := 0, tried := false }))))) ∧
  (∀ s : State, awake s →
    let u := { (exposed s).foldl disableQueue s with
      links.flrs := satAdd 16 ((exposed s).foldl disableQueue s).links.flrs 1, links.msixOn := [] }
    keepsBut s u [.qau, .hbm, .warden, .links] ∧ exec (.functionLevelReset .functionLevel) s = .next u ∧
    exec (.functionLevelReset .hot) s = .next u ∧
    exec (.functionLevelReset .perst) s = .next { u with links.pcieUp := false, links.pcieWidth := 0, links.pcieGen := 0 }) ∧
  (∀ (p : Fin 2) (r : LinkResult) (s : State), s.pwr.state < 3 → unitStopped s (16 + p.val) = false → (s.netPort p.val).rate ≠ 3 → r.outcome = 0 → r.modPower.toNat ≤ 30 →
    ∃ t, exec (.linkTrained (Fin.castLE (by decide) p) r) s = .next t ∧ (t.netPort p.val).tried = true ∧
      (t.netPort p.val).up = BitVec.ofNat 8 (r.up.toNat % 2 ^ interfaces (s.netPort p.val).width) ∧
      keepsBut s t [.freeCtr, .mod, .qau, .hbm, .links]) ∧
  (∀ (p : Fin 2) (s : State), (s.netPort p.val).up ≠ 0 →
    ∃ t, exec (.portDown (Fin.castLE (by decide) p)) s = .next t ∧ (t.netPort p.val).up = 0 ∧
      keepsBut s t [.freeCtr, .mod, .qau, .hbm, .links]) ∧
  (∀ (r : LinkResult) (s : State), unitStopped s 18 = false → r.outcome = 0 → 1 ≤ r.rate.toNat → r.rate.toNat ≤ 3 →
    (s.pwr.state = 4 → r.rate.toNat = 1) →
    ∃ t, exec (.linkTrained 2 r) s = .next t ∧ t.links.mgmtRate = r.rate.toNat ∧
      (s.links.ipv4 ≠ 0 → t.links.mgmtAddr = s.links.ipv4) ∧ keepsBut s t [.freeCtr, .qau, .hbm, .links]) ∧
  (∀ (r : LinkResult) (s : State), s.pwr.state < 3 → s.links.pcieOn = true → r.outcome = 0 → 4 ≤ r.rate.toNat →
    r.rate.toNat ≤ 6 - s.links.maxGen → r.lanes.toNat ∈ [1, 4, 8, 16] →
    ∃ t, exec (.linkTrained 3 r) s = .next t ∧ t.links.pcieUp = true ∧ t.links.pcieWidth = r.lanes.toNat ∧
      t.links.pcieGen = r.rate.toNat ∧ keepsBut s t [.qau, .hbm, .links]) ∧
  ∀ s : State,
    (s.links.mgmtRate ≠ 0 → ∃ t, exec (.portDown 2) s = .next t ∧ t.links.mgmtRate = 0 ∧ t.links.mgmtAddr = 0 ∧
      keepsBut s t [.qau, .hbm, .links]) ∧
    (s.links.pcieUp = true → ∃ t, exec (.portDown 3) s = .next t ∧ t.links.pcieUp = false ∧ t.links.pcieWidth = 0 ∧
      t.links.pcieGen = 0 ∧ keepsBut s t [.qau, .hbm, .links]) ∧
    (s.links.mgmtRate = 0 → exec (.portDown 2) s = .next s) ∧ (s.links.pcieUp = false → exec (.portDown 3) s = .next s)

/-- On one of the 16,384 queue pairs, with a data port up in Run or Poise: a write inside a registration that admits writes is
the write of those bytes by requester class 5, a read inside a registration is its read, and either outside of one is refused
and changes nothing but the answer; a SEND is received behind those before it. A registration that an access finds is one of
4,096 keys and spans the access. With no port up, on another queue pair, or outside Run and Poise (log 58, the model's reading),
none of them has an effect. -/
def Obligations.RdmaStaysInItsRegistration : Prop :=
  (∀ (qp key : Nat) (a : Dpa) (bs : List Byte) (n : Nat) (f : Finding) (s : State), rdmaRuns s = true → qp < 16384 →
    ((registered s key a.toNat bs.length).any (·.write) = true →
      exec (.rdmaWrite ⟨qp, key, f⟩ a bs) s = .next { (s.write 5 a.toNat bs f).1 with
        rsp := if (s.write 5 a.toNat bs f).2 then .none else .denied }) ∧
    ((registered s key a.toNat bs.length).any (·.write) = false →
      exec (.rdmaWrite ⟨qp, key, f⟩ a bs) s = .next { s with rsp := .denied }) ∧
    ((registered s key a.toNat n).isSome = true → exec (.rdmaRead ⟨qp, key, f⟩ a n) s = .next { (s.read 5 a.toNat n f).1 with
        rsp := match (s.read 5 a.toNat n f).2 with
          | some bs => .bytes bs
          | none => .denied }) ∧
    (registered s key a.toNat n = none → exec (.rdmaRead ⟨qp, key, f⟩ a n) s = .next { s with rsp := .denied }) ∧
    exec (.send qp bs) s = .next { s with links.received := s.links.received ++ [(qp, bs)] }) ∧
  (∀ (key a n : Nat) (g : Registration) (s : State), registered s key a n = some g →
    key < 4096 ∧ Tab.get none s.links.regs key = some g ∧ g.base ≤ a ∧ a + n ≤ g.base + g.len) ∧
  ∀ (qp key : Nat) (a : Dpa) (bs : List Byte) (n : Nat) (f : Finding) (s : State), rdmaRuns s = false ∨ 16384 ≤ qp →
    exec (.rdmaWrite ⟨qp, key, f⟩ a bs) s = .next s ∧ exec (.rdmaRead ⟨qp, key, f⟩ a n) s = .next s ∧ exec (.send qp bs) s = .next s

/-- GET_START answers MOD_START, platform monitoring answers the sensors' registers, FRU data answers its bytes, and each
changes the answer alone. A mailbox request is denied while the warden runs from ROM (log 70, the model's reading), and answered
BUSY while the warden has a request; else the warden takes it. An image that a firmware update brings for a unit the part does
not have is answered BAD_CMD with no other effect; the core's firmware (part 8) is stored and answered OK where it is signed and
recent enough, and denied with no other effect where it is not. -/
def Obligations.ManagementPortAnswers : Prop :=
  (∀ s : State, exec .getStart s = .next { s with rsp := .value (BitVec.ofNat 64 (modStart s)) }) ∧
  (∀ (g : Fin 18) (s : State), exec (.platformMonitoring g) s = .next { s with
    rsp := .bytes (leBytes 8 (thermGrp s g.val) ++ leBytes 8 (pwrInput s) ++ leBytes 8 (pwrPace s) ++ leBytes 2 s.therm.flow) }) ∧
  (∀ s : State, exec .fruData s = .next { s with rsp := .bytes Config.fruBytes }) ∧
  (∀ (type : W32) (echo : W64) (body : List Byte) (s : State),
    (s.warden.romOnly = true → exec (.mailbox type echo body) s = .next { s with rsp := .denied }) ∧
    (s.warden.romOnly = false → s.warden.request.isSome = true →
      exec (.mailbox type echo body) s = .next { s with rsp := .value (BitVec.ofNat 64 stBusy) }) ∧
    (s.warden.romOnly = false → s.warden.request = none →
      ∃ t, exec (.mailbox type echo body) s = .next t ∧ t = takeRequest s ⟨type.toNat, echo, body, none, none⟩ body.length ∧
        keepsBut s t [.rsp, .qau, .hbm, .warden, .links])) ∧
  ∀ (part : Byte) (one : Bool) (unit : BitVec 16) (image : List Byte) (s : State),
    (unitsNamed part.toNat one unit.toNat = false →
      exec (.firmwareUpdate part one unit image) s = .next { s with rsp := .value (BitVec.ofNat 64 stBadCmd) }) ∧
    (unitsNamed part.toNat one unit.toNat = true → s.warden.romOnly = false → part = 8 →
      exec (.firmwareUpdate part one unit image) s = .next (if imageOk s 8 image then
        { storeImage s 8 image with rsp := .value (BitVec.ofNat 64 stOk) } else { s with rsp := .value (BitVec.ofNat 64 stDenied) }))

/-- Outside Vigil, ENABLE written 1: during a drain it is kept for the drain's end; on an enabled queue only the other fields
are written; on a disabled one whose rings break R401, ERR becomes 1 and the queue stays disabled; where they keep to it, and
nothing is held for the ring, ENABLE and PHASE become 1 and SQHEAD, CQTAIL, TAIL, HEAD, TAGS and ERR become 0. ENABLE written 0:
with a tag busy a drain begins that cancels a pending enable, and with none, and nothing held, the queue is disabled and its
session ends. A drain's end waits for the last tag; with none busy, nothing held and no enable kept, ENABLE reads 0. TAIL or
HEAD written at or beyond its ring size sets ERR to 2 and changes nothing else; in range it takes the value, records held resume
in order, and the QAU fetches; on a disabled queue that is all. -/
def Obligations.QueuesEnableAndDrain : Prop :=
  ∀ (q : QueueId) (v : W64) (s : State), awake s →
    let x := s.queue q.val
    let w := qcfgFields s q.val v.toNat
    let quiet : Prop := x.held = [] ∧ s.session x.session.toNat = none ∧ s.qau.evdrop < 65536 ∧ Tab.wf Queue.initial s.qau.queues
    (x.draining = true → exec (.queueEnable q v) s = .next (w.modQueue q.val (fun y => { y with reEnable := true }))) ∧
    (x.draining = false → x.enable = true → exec (.queueEnable q v) s = .next w) ∧
    (x.draining = false → x.enable = false → Tab.wf Queue.initial s.qau.queues →
      (ringsPlaced w (w.queue q.val) = false → exec (.queueEnable q v) s = .next (w.modQueue q.val (fun y => { y with err := 1 }))) ∧
      (ringsPlaced w (w.queue q.val) = true → x.held = [] → x.atReset = [] → carriesM s q.val = false →
        exec (.queueEnable q v) s = .next (w.modQueue q.val (fun y => { y with
          enable := true, draining := false, reEnable := false, tail := 0, head := 0, sqHead := 0, cqTail := 0, phase := true,
          err := 0, stopped := false, tags := 0 })))) ∧
    (x.enable = false → exec (.queueDisable q v) s = .next w) ∧
    (x.enable = true → x.tags ≠ 0 → Tab.wf Queue.initial s.qau.queues →
      exec (.queueDisable q v) s = .next (w.modQueue q.val (fun y => { y with draining := true, reEnable := false }))) ∧
    (x.enable = true → x.tags = 0 → quiet → exec (.queueDisable q v) s = .next (w.modQueue q.val (fun y => { y with
      enable := false, draining := false, reEnable := false, session := 0xFFF#12 }))) ∧
    (x.draining = true → x.tags ≠ 0 → exec (.queueDrainEnd q) s = .next s) ∧
    (x.draining = true → x.tags = 0 → x.reEnable = false → quiet → exec (.queueDrainEnd q) s =
      .next (s.modQueue q.val (fun y => { y with enable := false, draining := false, session := 0xFFF#12 }))) ∧
    (x.sqSize ≤ bits v.toNat 0 10 → exec (.qauSqtail q v) s = .next (s.modQueue q.val (fun y => { y with err := 2 }))) ∧
    (x.cqSize ≤ bits v.toNat 0 12 → exec (.qauCqhead q v) s = .next (s.modQueue q.val (fun y => { y with err := 2 }))) ∧
    (bits v.toNat 0 10 < x.sqSize → x.enable = false → Tab.wf Queue.initial s.qau.queues →
      exec (.qauSqtail q v) s = .next (s.modQueue q.val (fun y => { y with tail := bits v.toNat 0 10 }))) ∧
    (bits v.toNat 0 10 < x.sqSize →
      exec (.qauSqtail q v) s = .next (fetch (s.modQueue q.val (fun y => { y with tail := bits v.toNat 0 10 })) q.val)) ∧
    (bits v.toNat 0 12 < x.cqSize → exec (.qauCqhead q v) s =
      .next (fetch (flushRing (s.modQueue q.val (fun y => { y with head := bits v.toNat 0 12 })) q.val) q.val))

/-- A command held under FENCE is released once every command fetched earlier from its queue has its completion written (log 40,
the model's reading), and stays held before; where its queue has nothing to fetch and a row names it, nothing else changes.
Outside Vigil, an abort that names a command held under FENCE or for the return to Run completes it with ABORTED; so does one
that names a batch whose checks have not run, and a batch that waits to be encoded or is being encoded gives its entries back
and ends with ABORTED; one that names a search in its slot, or waiting for one or for an engine of any stage, ends it with
ABORTED, and one in a running stage stops that stage first; one that names a SELFTEST ends its claim and completes with ABORTED;
a maintenance activity is ended while its claim still waits and has begun nothing, and goes on else; one that names a search in
refine or payload return marks it; one that names no fetched command changes nothing. -/
def Obligations.FenceAndAbort : Prop :=
  (∀ (q : QueueId) (t : TagId) (c : Cmd) (s : State), s.cmdAt q.val t.val = some c → c.phase = .fenceHeld →
    (earlierDone s q.val c.seq = false → exec (.fenceHoldEnd q t) s = .next s) ∧
    (earlierDone s q.val c.seq = true → c.unnamed = false → fetchable s q.val = false →
      exec (.fenceHoldEnd q t) s = .next (s.setCmd { c with phase := .fetched }))) ∧
  ∀ (v : W64) (s : State), awake s →
    let q := bits v.toNat 0 10
    let t := bits v.toNat 10 5
    (s.cmdAt q t = none → exec (.qauAbort v) s = .next s) ∧
    ∀ c, s.cmdAt q t = some c →
      (c.phase = .fenceHeld ∨ c.phase = .powerHeld → exec (.qauAbort v) s = .next (fail s c stAborted)) ∧
      (c.phase = .fetched → c.opcode = opInsert ∨ c.opcode = opDelete ∨ c.opcode = opUpsert →
        exec (.qauAbort v) s = .next (fail s c stAborted)) ∧
      (c.phase = .waitSlot ∨ c.phase = .inSlot ∨ (∃ g, c.phase = .waitEngine g) →
        exec (.qauAbort v) s = .next (dropCmd s c stAborted)) ∧
      (∀ g, c.phase = .inStage g → exec (.qauAbort v) s = .next (dropCmd (stopStage s c.seq) c stAborted)) ∧
      (∀ j, c.job = .batch j → c.phase = .waitEncode ∨ c.phase = .encoding →
        exec (.qauAbort v) s = .next (dropCmd (unstage (stopStage s c.seq) j) c stAborted)) ∧
      (∀ n, c.phase = .selftest n →
        exec (.qauAbort v) s = .next (dropCmd (stopStage (endClaim s n 0) c.seq) c stAborted)) ∧
      (∀ n, c.phase = .activity n → exec (.qauAbort v) s = .next (if (s.claim n).any (fun k => k.state = 0 && !k.begun) then
        fail (s.setClaim n none) c stAborted else s)) ∧
      ∀ j, c.job = .search j → c.phase = .refining ∨ c.phase = .payload →
        exec (.qauAbort v) s = .next (s.setCmd { c with job := .search { j with aborted := true } })

/-- In an unsealed queue, where the oldest fetched command is a SEARCH, its buffers are read, its queue may name the collection,
every check of Table 12.3 passes, no pin and no ENCODE program is named and admission is not stopped: the command takes
CSN_CURRENT as its admission CSN, the collection's live generations, its clearance, the stage programs' approvals in force and
the latency bound, counts as the last admitted, and waits for an engine for its LUTs, standard or of its program. With the same
requests and checks a RANGE does the same. Nothing but the reading of the buffers, the command and the engines' work queue
changes. With a check that fails, the command completes with the status of the first that does. -/
def Obligations.SearchesAreAdmitted : Prop :=
  ∀ (q : QueueId) (c : Cmd) (s s' : State) (r : SearchReq) (x : Coll),
    let admitted (op : Nat) : Prop := Fetched s q op c ∧ c.isSealed = false ∧ plainReq s c = (s', r, true, true) ∧
      c.cflag 5 = false ∧ c.cflag 6 = false ∧ r.handle 0 = 0 ∧ searchAuthority s' c r = true ∧
      collAt s' r.cid s'.csn.current = some x
    let j := searchJob s' c r x
    let taken : State := ({ s' with qau.admitted := s'.qau.admitted + 1 } : State).setCmd { c with
      adm := some s'.csn.current, phase := .waitEngine .lut
      job := .search { j with
        ctx.adm := s'.csn.current, ctx.clear := readClear s' c.session, gens := ((s'.coll r.cid).map (liveGens s' r.cid)).getD []
        waits := slotWaits s' r.cid j.rclass, boundUs := boundFor s' j.ctx.w j.withPayload
        approvals := (s'.warden.policy.map (·.approvals)).getD [], order := s'.qau.admitted } }
    let out (ask : State) : Host.Outcome State Fault Refusal := .next (match firstFail (searchChecks s' c r x true) with
      | some st => fail s' c st
      | none => match searchLimits s' c r.cid none with
        | some st => fail s' c st
        | none => ask)
    let work : State := addWork taken 0 c.seq (if j.lutProg = 0 then .lutStd c.seq else .stage c.seq)
    (admitted opSearch → r.cid < 65536 → admissionStopped s' = false → exec (.search q) s = out work) ∧
    (admitted opRange → r.cid < 65536 → admissionStopped s' = false → exec (.range q) s = out work)

/-- In an unsealed queue, where the oldest fetched command is an INSERT_BATCH, DELETE_BATCH or UPSERT_BATCH whose body is read
and which passes every check of Table 12.3, with admission not stopped: the batch takes the lowest free commit-table entry and
the tag of its collection's newest generation, and its write clearance; a delete is then staged, an insert or an upsert waits
for an engine to encode it. Nothing but the reading of the body, the command, the commit table and the engines' work queue
changes. -/
def Obligations.BatchesAreAdmitted : Prop :=
  ∀ (q : QueueId) (c : Cmd) (s s' : State) (bs : List Byte) (x : Coll) (ref : Nat),
    let r : BatchReq := ⟨c.hdrCid, le c.bytes 16 2, le c.bytes 20 2, true, bs⟩
    let passes (op : Nat) : Prop := Fetched s q op c ∧ c.isSealed = false ∧ reachable s c.addr c.len = true ∧
      s.read 2 c.addr c.len .clean = (s', some bs) ∧ batchAuthority s' c r.cid (batchItems op r.dim r.count bs).2.1 = true ∧
      liveColl s' r.cid = some x ∧ firstFail (batchChecks s' c r x.params true) = none ∧ batchLimits s' op r.count = none ∧
      admissionStopped s' = false ∧ freeRef s' = some ref
    let j : BatchJob := { batchJob c r with
      gen := (x.newest.map (·.tag)).getD 0, ref := some (BitVec.ofNat 16 ref), wclear := writeClear s' c.session }
    let encoded : State := (takeRef s' ref).setCmd { c with phase := .waitEncode, job := .batch j }
    (passes opDelete → exec (.deleteBatch q) s = .next ((takeRef s' ref).setCmd { c with phase := .staging, job := .batch j })) ∧
    (passes opInsert → exec (.insertBatch q) s = .next (addWork encoded 1 c.seq (.encode c.seq))) ∧
    (passes opUpsert → exec (.upsertBatch q) s = .next (addWork encoded 1 c.seq (.encode c.seq)))

/-- Where the oldest fetched command of the queue passes its checks and admission is not stopped: PIN takes or renews the pin
with its CSN (the pin's own, the named one, or CSN_CURRENT) and lease, and completes with them; UNPIN frees the pin and
completes with its CSN; a STATS of an unsealed queue completes with CSN_CURRENT, 128 bytes and the report; a FLUSH records the
CSN of its fetch, and completes with it at once when the flash journal ring is not full, no unprogrammed journal entry has a CSN
up to it and it is the one fetched command; else it waits. A PIN or UNPIN whose check fails completes with that status. A lease
that is over at 98 % of it, with a second of slack (the model's choice, log 4), frees its pin and posts PIN_EXPIRED to its
queue; one that is not, and an empty pin, stay. -/
def Obligations.PinsFlushAndStats : Prop :=
  (∀ (q : QueueId) (bs : List Byte) (s s' : State),
    let x := s.queue q.val
    s.read 2 (x.sqBase.toNat + 64 * x.sqHead) 64 .clean = (s', some bs) → x.tags.getLsbD (byteAt bs 1 % 32) = false →
    byteAt bs 0 = opFlush →
    ∃ c, (fetchOne s q.val).1.qau.cmds = s.qau.cmds ++ [c] ∧ c.bytes = bs ∧ c.job = .flush s.csn.current) ∧
  (∀ (q : QueueId) (c : Cmd) (s : State),
    let p := s.pinAt c.pinNo
    let csn := if p.held then p.csn else if c.cflag 0 then c.pinCsn else s.csn.current
    (Fetched s q opPin c → (∀ st, pinChecks s c = some st → exec (.pin q) s = .next (fail s c st)) ∧
      (pinChecks s c = none → admissionStopped s = false → exec (.pin q) s =
        .next (finishD (s.setPin c.pinNo ⟨true, csn, c.queue, c.session, c.leaseMs, s.secs⟩) c stOk csn c.leaseMs []))) ∧
    (Fetched s q opUnpin c → (∀ st, unpinChecks s c = some st → exec (.unpin q) s = .next (fail s c st)) ∧
      (unpinChecks s c = none → admissionStopped s = false →
        exec (.unpin q) s = .next (finishD (s.setPin c.pinNo Pin.free) c stOk p.csn 0 []))) ∧
    (∀ x, Fetched s q opStats c → c.isSealed = false → mayName s c c.hdrCid = true → liveColl s c.hdrCid = some x → 128 ≤ c.rlen →
      reachable s c.raddr c.rlen = true → admissionStopped s = false → exec (.stats q) s =
        .next (finishD s c stOk s.csn.current 128 (statsReport s c c.hdrCid s.csn.current x))) ∧
    (∀ csn, Fetched s q opFlush c → admissionStopped s = false → c.job = .flush csn → s.qau.cmds = [c] →
      let w : Cmd := { c with phase := .flushing }
      (ringFull s = false → (∀ e ∈ s.flash.tail, e.csn = 0 ∨ csn < e.csn) →
        exec (.flush q) s = .next (finishD (s.setCmd w) w stOk csn 0 [])) ∧
      (ringFull s = true ∨ (∃ e ∈ s.flash.tail, e.csn ≠ 0 ∧ e.csn ≤ csn) → exec (.flush q) s = .next (s.setCmd w)))) ∧
  ∀ (n : Fin 16) (s : State),
    let p := s.pinAt n.val
    (p.held = true → 98 * p.leaseMs ≤ 100000 * (s.secs - p.takenAt + 1) → exec (.pinExpired n) s =
      .next (postQ (s.setPin n.val Pin.free) p.queue [eventBytes evPinExpired srcCsn p.queue p.csn n.val 0])) ∧
    (p.held = false ∨ 100000 * (s.secs - p.takenAt + 1) < 98 * p.leaseMs → exec (.pinExpired n) s = .next s)

/-- Where the MAINT command passes its checks and admission is not stopped: with a commit-table entry and a CSN free and no
batch staged before (log 90), CREATE takes the next CSN, adds the collection with its codebooks as generation 0 and its key, and
completes with the CSN as it issues (log 46); DESTROY takes the next CSN, marks the collection destroyed at it and completes
with it; else either waits. CREATE of a sealed collection is denied without the owner's authorisation, uses its challenge, and
keys the collection where the warden has its sealed keys. GEN_INSTALL journals and adds the generation under the newest tag plus
1 and completes with the tag; COLL_PRIORITY journals and sets the priority, both with room in the journal's tail. PIN_RELEASE is
denied without the owner's authorisation; with it, the challenge is used, the pin freed, and PIN_RELEASED posted to the pin's
queue and the event queue. -/
def Obligations.CollectionsChange : Prop :=
  ∀ (q : QueueId) (c : Cmd) (s s' : State) (bs : List Byte),
    let d : Cmd := { c with body := bs, adm := none }
    let cid := c.hdrCid
    let commit (u : State) (ref : Nat) (b : JBody) : State := (commitChange (takeRef u ref) ref cid 0 b).2
    let created (u : State) (b : List Byte) (ref : Nat) (keyed : Bool) : Host.Outcome State Fault Refusal :=
      let w := commit u ref (.collection false (b.take 64))
      .next (finishD (w.setColl cid (some ⟨createParams b, createSealed b,
        [⟨0, bookOf (createParams b) (b.drop 64), Config.shake256 (b.drop 64)⟩], 0, keyed, false, u.csn.next, none, keyed,
        if keyed then collKey w cid u.csn.next (createSealed b) else []⟩)) { d with body := b } stOk u.csn.next 0 [])
    (MaintRead s s' q 0x0001 c bs → createSealed bs = false → createChecks s' c bs true = none →
      (changeRef s' = none → exec (.create q) s = .next s) ∧
      ∀ ref, changeRef s' = some ref → exec (.create q) s = created s' bs ref true) ∧
    (∀ n, MaintRead s s' q 0x0001 c bs → createSealed bs = true → createAuth bs = some n →
      (authBlock s' c bs n = none → exec (.create q) s = .next (fail s' c stDenied)) ∧
      ∀ ch, authBlock s' c bs n = some ch →
        let u := dropChallenge s' ch
        createSealed (bs.take n) = true → createChecks u c (bs.take n) true = none →
        (changeRef u = none → exec (.create q) s = .next s) ∧
        ∀ ref, changeRef u = some ref →
          exec (.create q) s = created u (bs.take n) ref (!(u.warden.sealedOff || u.warden.erased))) ∧
    (MaintRead s s' q 0x0002 c bs → destroyChecks s' c bs true = none →
      (changeRef s' = none → exec (.destroy q) s = .next s) ∧
      ∀ ref, changeRef s' = some ref →
        let params := ((s'.coll cid).map (fun k => paramBytes k.params k.sealed)).getD []
        exec (.destroy q) s = .next (finishD ((commit s' ref (.collection true params)).setColl cid
          ((s'.coll cid).map (fun k => { k with destroyed := some s'.csn.next }))) d stOk s'.csn.next 0 [])) ∧
    (∀ k, liveColl s' cid = some k →
      (MaintRead s s' q 0x0003 c bs → genChecks s' c bs true = none → journalRoom s' 128 = true →
        let tag : Byte := ((k.newest.map (·.tag)).getD 0) + 1
        let w := journal s' noRef cid 0 0 (.generation tag (Config.shake256 (bs.drop 64)))
        exec (.genInstall q) s = .next (finishD (w.setColl cid (some { k with
          gens := liveGens w cid k ++ [⟨tag, bookOf k.params (bs.drop 64), Config.shake256 (bs.drop 64)⟩] })) d stOk tag.toNat 0 [])) ∧
      (MaintRead s s' q 0x0150 c bs → priorityChecks s' c bs true = none → journalRoom s' 128 = true → exec (.collPriority q) s =
        .next (finishD ((journal s' noRef cid 0 0 (.priority (byteAt bs 0))).setColl cid (some { k with priority := byteAt bs 0 }))
          d stOk 0 0 []))) ∧
    (MaintRead s s' q 0x0020 c bs → releaseChecks s' c (bs.take 64) true = none →
      let n := byteAt bs 0
      let p := s'.pinAt n
      exec (.pinRelease q) s = .next (match authBlock s' c bs 64 with
        | none => fail s' c stDenied
        | some ch =>
          let u := postQ ((dropChallenge s' ch).setPin n Pin.free) p.queue [eventBytes evPinReleased srcCsn p.queue p.csn n p.queue]
          finishD (postM u evPinReleased srcCsn p.queue p.csn n p.queue) { d with body := bs.take 64 } stOk p.csn 0 []))

/-- For a MAINT command whose body is read, with admission not stopped: LAUNCH, where its checks pass and the image's pages are
mapped, creates the context with its image, class, budget, mapping list and arguments, asks an engine for it, and completes with
its number. RESUME, where its checks pass, gives the trapped context its further pages and asks an engine for it. KILL ends the
trapped context. SAMPLE, where its checks pass, writes the records selected at its CSN into the context's memory once their
pages are in, and completes with the CSN and their number; a page whose backing is lost makes it FAULT. UPDATE, where its checks
pass, stores the incoming image, asks for the claim of the first unit named, and drops the image again where no unit names it
and no update of it goes on. -/
def Obligations.ProgramsAreManaged : Prop :=
  ∀ (q : QueueId) (c : Cmd) (s s' : State) (bs : List Byte),
    let d : Cmd := { c with body := bs, adm := none }
    (∀ s2 image a s3 ps, MaintRead s s' q 0x0010 c bs → launchImage s' bs = (s2, some image) →
      (approved s2 (lHandle bs) 4 false).filter (fun a => a.meas = Config.shake256 image) = some a → pinnedPages frame64k false (imagePages bs) s2 [] 0 image = some (s3, ps) →
      let n := freeFrom 0 s3.eng.ctxs
      let x := freshCtx (.maint c.queue) (lClass bs) (progOf a.meas) false ((chunksOf 8 (lLen bs / 8) image).map (BitVec.ofNat 64)) 0
        (lBudget bs) (ps.map (fun p => { p with pin := false, d := true }) ++
          (mapEnts (lMaps bs) (bs.drop 64)).flatMap (MapEnt.pages s3))
      let y := { (List.range 4).foldl (fun (x : Ctx) i => x.setS (i + 1) (BitVec.ofNat 64 (le bs (32 + 8 * i) 8))) x with
        maps := lMaps bs }
      exec (.launch q) s = .next (match launchChecks s' c bs true with
        | some st => fail s' c st
        | none => finishD (addWork (s3.setCtx n (some y)) (lClass bs) 0 (.context n)) d stOk n 0 [])) ∧
    (∀ x t k, trappedCtx s' (ctxNo bs) = some (x, t, k) →
      (MaintRead s s' q 0x0011 c bs → resumeChecks s' c bs true = none →
        let y := { x with
          st := .saved, trapRec := none, maps := x.maps + le bs 2 2
          pages := x.pages ++ (mapEnts (le bs 2 2) (bs.drop 64)).flatMap (MapEnt.pages s') }
        exec (.resume q) s = .next (finishD (addWork (s'.setCtx (ctxNo bs) (some y)) x.cls 0 (.context (ctxNo bs))) d stOk 0 0 [])) ∧
      (MaintRead s s' q 0x0012 c bs → killChecks s' c bs true = none →
        exec (.kill q) s = .next (finishD (endMaint s' (ctxNo bs) k 1) d stOk 0 0 []))) ∧
    (∀ k x, MaintRead s s' q 0x0004 c bs → sampleChecks s' c bs true = none → s'.coll c.hdrCid = some k →
      sampleCtx s' c bs = some x →
      let a := if sUsesPin bs then (s'.pinAt (sPin bs)).csn else s'.csn.current
      let d : Cmd := { d with adm := if sUsesPin bs then some a else none }
      let rs := sampled s' d k.params a bs
      let n := rs.length * sampleStride k.params
      let u := bringIn (sCtx bs) ((List.range (n / frame64k + 2)).map (fun i => sVa bs + min (i * frame64k) (n - 1))) s'
      exec (.sample q) s = .next (match u.2 with
        | .waits => u.1
        | .lost => fail u.1 d stFault
        | .done =>
          let w := ownRead u.1 ((sampledSlots u.1 d a bs).flatMap (slotFlas u.1)) d.isSealed
          finishD (putSamples (sCtx bs) (sampleStride k.params) rs (sVa bs) w) d stOk a rs.length [])) ∧
    ∀ u us, MaintRead s s' q 0x0100 c bs → namedUnits (uPart bs) (uOne bs) (uUnit bs) = u :: us → uPart bs ≠ 8 →
      exec (.update q) s = .next (match updateChecks s' c bs true with
        | some st => fail s' c st
        | none => settleImages (askFor (storeImage s' (uPart bs) (uImage bs)) d (.update (uPart bs) u us (uImage bs) 0)) (uPart bs))

/-- With a free entry of the claim table, and no claim or limit that refuses, drops or delays the activity: hardware's row remap
(with a spare and depth to spare), row retirement (without), lane remap (with a spare lane that no claim is for, else the
stack's retirement), flash retirement, pseudo-channel or stack retirement for too many retired rows, rewrite of a failed
channel, hold-up test of the section due and re-fetch of a stopped unit each take the entry and begin; a MAINT REFETCH, BYPASS,
PC_RETIRE, STACK_RETIRE or HOLDUP_TEST without a body (that none is taken is the model's choice, log 104), an IEEE 1500 repair
of a retired stack with its data in the body, and a SELFTEST, do so for their command, which stays with the entry. An IEEE 1500
read answers the wrapper's output bits at once. -/
def Obligations.ActivitiesTakeTheirClaims : Prop :=
  (∀ (s : State) (n : Nat),
    let auto (i : Instr) (a : Activity) : Prop := Claims s a true n → exec i s = .next (runEntry s n (asks s a true 0 0 0))
    (∀ (part : Fin 9) (u : Nat), (unitsOf part.val).contains u = true → needsRefetch s part.val u = true →
      auto (.refetch .auto part u) (.refetch part.val u)) ∧
    (∀ (st : StackId) (p : PcId) (bank : Fin 48) (row : Nat), row < 24576 →
      (canRemap s (bankKey st.val p.val bank.val) row = true →
        auto (.rowRemap st p bank row) (.rowRemap st.val p.val bank.val row)) ∧
      (canRemap s (bankKey st.val p.val bank.val) row = false →
        auto (.rowRetire st p bank row) (.rowRetire st.val p.val bank.val row))) ∧
    (∀ (st : StackId) (chan : Fin 16),
      (let asked := ((allClaims s).filter (fun e => e.2.act = .laneRemap st.val chan.val)).length
       (Tab.get 0 (s.ctl st.val).lanes chan.val + asked < 2 → auto (.laneRemap st chan) (.laneRemap st.val chan.val)) ∧
       (2 ≤ Tab.get 0 (s.ctl st.val).lanes chan.val + asked → auto (.laneRemap st chan) (.stackRetire st.val))) ∧
      (1024 < stackRetiredRows s st.val → (s.ctl st.val).retired = false → auto (.stackRetire .auto st) (.stackRetire st.val))) ∧
    (∀ (ch : ChannelId) (block : Nat) (package : Option (Fin 4)),
      ((s.channel ch.val).state ≠ 2 → auto (.flashRetire ch block package) (.flashRetire ch.val block (package.map (·.val)))) ∧
      ((s.channel ch.val).state = 2 → auto (.channelRewrite ch) (.channelRewrite ch.val))) ∧
    (∀ p : PchId, pcFailing s p.val = true → (s.pch p.val).retired = false → auto (.pcRetire .auto p) (.pcRetire p.val)) ∧
    ∀ k : Fin 6, s.hold.charged = true → dueSection s = some k.val → auto (.holdupTest .auto k) (.holdupTest k.val)) ∧
  (∀ (q : QueueId) (c : Cmd) (s s' : State) (bs : List Byte) (n : Nat),
    let maint (i : Instr) (sub : Nat) (a : Activity) : Prop :=
      let d : Cmd := { c with job := .act a }
      maintCmd s q.val sub = some c → MaintRead (s.setCmd d) s' q sub d bs → Claims s' a false n →
        exec i s = .next (claimed s' { d with body := bs, adm := none } a n (.activity n))
    (∀ (part : Fin 9) (u : Nat), (unitsOf part.val).contains u = true →
      bs = [] → maint (.refetch (.maint q) part u) 0x0101 (.refetch part.val u)) ∧
    (∀ ch : ChannelId, bs = [] → maint (.bypass q ch) 0x0102 (.bypass ch.val)) ∧
    (∀ p : PchId, bs = [] → maint (.pcRetire (.maint q) p) 0x0120 (.pcRetire p.val)) ∧
    (∀ st : StackId, bs = [] → maint (.stackRetire (.maint q) st) 0x0121 (.stackRetire st.val)) ∧
    (∀ k : Fin 6, bs = [] → maint (.holdupTest (.maint q) k) 0x0130 (.holdupTest k.val)) ∧
    ∀ (st : StackId) (chan : Fin 16) (name : String) (data : List Byte), data.length ≤ 512 → max 1 data.length ≤ bs.length →
      ((s'.ctl st.val).retired = true →
        maint (.ieee1500 q st chan ⟨name, 1⟩ data) 0x0140 (.ieee1500 st.val chan.val name 1 data)) ∧
      (let d : Cmd := { c with job := .act (.ieee1500 st.val chan.val name 0 data) }
       maintCmd s q.val 0x0140 = some c → MaintRead (s.setCmd d) s' q 0x0140 d bs → exec (.ieee1500 q st chan ⟨name, 0⟩ data) s =
        .next (finishD s' { d with body := bs, adm := none } stOk 0 0
          ((Config.wrapperOut st.val chan.val name data).take c.rlen)))) ∧
  ∀ (q : QueueId) (c : Cmd) (s : State) (n : Nat), Fetched s q opSelftest c → le c.bytes 17 2 < testTargets (byteAt c.bytes 16) →
    admissionStopped s = false →
    let a : Activity := .selftest (byteAt c.bytes 16) (le c.bytes 17 2) (c.cflag 0)
    Claims s a false n → exec (.selftest q) s = .next (claimed s c a n (.selftest n))

/-- An activity that waits starts once Table 14.4 and the limits let it, is dropped where a held claim supersedes it, and stays
else. A MAINT activity that has waited 10 s and not begun ends with BUSY and is counted as refused; hardware's, one that has
begun, and one that waits less, stay. The end of a running entry rejoins the bypassed channel, unless it has failed, once no
read is in flight on it, remaps or retires the row, takes a spare lane (with none left, asks for the stack's retirement),
retires the flash block or package and spends spare area, and rewrites a failed channel, once no command holds an address of the
page store, retires the pseudo-channel, or the stack once it is empty and its blocks are spread over the rest, keeps the figures
of the section tested, answers the wrapper's bits (a hard repair's fuses are blown, log 110) or the self-test's result (of a
channel that nothing needs; an extended one makes its margin reads), or runs the re-fetched image where the warden's check lets
it run; then the claim ends, a command that waits on it completes with OK, and a mailbox request that the warden held back as
bad is answered. Of a retired pseudo-channel's Weevil the chain port may have failed too (free, log 5): its stack's retirement
is asked for. -/
def Obligations.ClaimsStartAndEnd : Prop :=
  (∀ (n : Fin 64) (c : Claim) (s : State), s.claim n.val = some c → c.state = 0 →
    let o := outcome s c.act c.auto (some n.val)
    (o = .both ∨ o = .pause → exec (.claimStart n) s = .next (runEntry s n.val c)) ∧
    (o = .wait ∨ o = .busy → exec (.claimStart n) s = .next s) ∧
    (o = .drop → c.auto = true → exec (.claimStart n) s =
      .next { endClaim s n.val 1 with maint.drops := satAdd 16 (endClaim s n.val 1).maint.drops 1 }) ∧
    (∀ k, c.auto = false → c.begun = false → c.since + 10 ≤ s.secs → admissionStopped s = false →
      let t : State := { endClaim s n.val 2 with maint.refused := satAdd 16 (endClaim s n.val 2).maint.refused 1 }
      t.cmd c.cmd = some k → exec (.claimWaitTimeout n) s = .next (fail t k stBusy)) ∧
    (c.auto = true ∨ c.begun = true ∨ s.secs < c.since + 10 → exec (.claimWaitTimeout n) s = .next s)) ∧
  ∀ (n : Fin 64) (r : W32) (cap esr : BitVec 16) (c : Claim) (s : State), s.claim n.val = some c → c.state = 1 →
    let ends (a : Activity) (t : State) (r0 : Nat) (body : List Byte) : Prop :=
      c.act = a → exec (.claimEnd n r cap esr) s = .next (answerBad (finishAct t n.val c r0 0 body))
    (∀ ch, (s.channel ch).jobs = [] →
      ends (.bypass ch) (s.modChannel ch (fun x => if x.state = 2 then x else { x with state := 0, keys := true })) 0 []) ∧
    (∀ st p bank row, ends (.rowRemap st p bank row) (remapRow s st p bank row) 0 []) ∧
    (∀ st p bank row, ends (.rowRetire st p bank row) (retireRow s st p bank row) 0 []) ∧
    (∀ st ch, Tab.get 0 (s.ctl st).lanes ch < 2 → ends (.laneRemap st ch)
      (s.modCtl st (fun x => { x with lanes := Tab.mod 0 x.lanes ch (· + 1) })) 0 []) ∧
    (∀ st ch, 2 ≤ Tab.get 0 (s.ctl st).lanes ch → c.act = .laneRemap st ch → exec (.claimEnd n r cap esr) s =
      .next (answerBad (askAuto (finishAct s n.val c 0 0 []) (.stackRetire st)))) ∧
    (∀ ch b p, addressHeld s = false → ends (.flashRetire ch b p) (spendSpare (retireFlash s ch b p)) 0 []) ∧
    (∀ p t, retirePc s p = some t → c.act = .pcRetire p →
      exec (.claimEnd n r cap esr) s = .next (answerBad (chainPort (finishAct t n.val c 0 0 []) p))) ∧
    (∀ st t, rehomed s st = true → retireStack s st = some t → ends (.stackRetire st) t 0 []) ∧
    (∀ ch t, addressHeld s = false → rewriteChannel s ch = some t → ends (.channelRewrite ch) t 0 []) ∧
    (∀ k, ends (.holdupTest k) (sectTested s k cap.toNat esr.toNat c.auto) 0 []) ∧
    (∀ st ch name d, ends (.ieee1500 st ch name 1 d) s 0 (wrapperBytes s c st ch name d) ∧
      ends (.ieee1500 st ch name 2 d) (blowFuse s st ch name d) 0 (wrapperBytes s c st ch name d)) ∧
    (∀ i b, testNeeded s (.selftest 1 i b) = false → c.act = .selftest 1 i b → exec (.claimEnd n r cap esr) s =
      .next (answerBad (finishAct (testReads s 1 i b) n.val c 0 r.toNat []))) ∧
    ∀ part u, unitReady s part u = true → mayRun s part (unitImage s part u) = true → c.act = .refetch part u →
      exec (.claimEnd n r cap esr) s = .next (answerBad (settleImages (finishAct (runVersion s part u (unitVersion s part u))
        n.val c (unitVersion s part u).toNat 0 []) part))

/-- A free slot of a Reel that is on goes to the first waiting command whose class it admits and no lower free slot admits: it
is busy with that command, is loaded at once where its LUTs are built, and a collection with no side-list entry needs no lap
group. A busy slot, a withheld admission and a stopped Reel leave everything as it was. A Weevil that is paused, stalled, passed
through, on a stack that does not answer, or outside Run does nothing at a boundary; one whose output buffer is full stalls; one
whose ring is empty takes the mode and its stack's level, and every slot on it leaves; one with a repaired block sweeps it for
the slots that owe it first; else the block at its position is swept for the slots that begin or go on there, and the walk moves
on. A double-bit error in a slot's words ends its command with FAULT. A stalled Weevil with room resumes, and its hold is
counted unless a sealed slot runs PACED. A lap member whose collection has no chunk leaves with its slots; one in no group, or
outside Run, does nothing; else the slots that wait begin at the member's chunk, its entries, or the mark of a chunk that failed
its check (logged, free, as an uncorrectable read), are taken by every slot on the member, and where no slot has passed its
start the member goes on to its next chunk. A threshold that was sent raises the slot's at a Weevil or member. -/
def Obligations.ScansWalk : Prop :=
  (∀ (n : SlotId) (s : State), unitStopped s 3 = false →
    ((s.slot n.val).busy = true ∨ s.pwr.withheld = true ∨ s.pwr.state ≠ 0 → exec (.slotAdmit n) s = .next s) ∧
    ∀ c j rest, (s.slot n.val).busy = false → s.pwr.withheld = false → s.pwr.state = 0 →
      (slotWaiters s).filter (fun k => !(List.range n.val).any (fun m => !(s.slot m).busy && (classMask s m).getLsbD k.2.rclass)) =
        (c, j) :: rest →
      (classMask s n.val).getLsbD j.rclass = true → issuedSides s j.ctx.cid.toNat = 0 →
      let k : SearchJob := { j with slot := some n.val, sideSources := [] }
      let t := s.modSlot n.val (fun _ => { ReelSlot.free with
        busy := true, cmd := c.seq, queue := c.queue, tag := c.tag, ctx := some j.ctx })
      exec (.slotAdmit n) s = .next (if j.lutDone then loadSlot t n.val c k else t.setCmd { c with job := .search k })) ∧
  (∀ (w : WeevilId) (f : ScanFail) (s : State), (∀ n, f ≠ .slotWord n) →
    let v := s.weevil w.val
    let walks : Prop := s.pwr.state = 0 ∧ v.paused = false ∧ v.stalled = false ∧ v.passThrough = false ∧ (s.ctl (w.val / 32)).answering = true
    (s.pwr.state ≠ 0 ∨ v.paused = true ∨ v.stalled = true ∨ v.passThrough = true ∨ (s.ctl (w.val / 32)).answering = false →
      exec (.scanBlock w f) s = .next s) ∧
    (walks → 512 ≤ v.out.length → exec (.scanBlock w f) s = .next (holdIfFull s w.val)) ∧
    (walks → v.out.length < 512 → v.repair = [] → ring s w.val = [] → exec (.scanBlock w f) s =
      .next ((slotsIn v.wslots 1 ++ slotsIn v.wslots 2).foldl (fun s n => leaveWeevil s w.val n)
        (s.modWeevil w.val (fun v => { v with paced := reelPaced s, level := (s.ctl (w.val / 32)).level })))) ∧
    (∀ h rest, walks → v.out.length < 512 → v.repair = h :: rest → exec (.scanBlock w f) s =
      .next (holdIfFull (catchUp (s.modWeevil w.val (fun v => { v with repair := rest })) w.val h f) w.val)) ∧
    ∀ h b, walks → v.out.length < 512 → v.repair = [] → walkAt (ring s w.val) v.pos = some (h, b) → exec (.scanBlock w f) s =
      .next (holdIfFull (advance (notePaced (sweep (beginSlots (resumeAt s w.val h) w.val h (reelPaced s)) w.val h b f) w.val) w.val h) w.val)) ∧
  (∀ (w : WeevilId) (n : SlotId) (c : Cmd) (s : State), (s.slot n.val).busy = true → (s.slot n.val).loaded = true →
    s.cmd (s.slot n.val).cmd = some c →
    exec (.scanBlock w (.slotWord n)) s = .next (fail (clearSlot (noteRelease s c) n.val) c stFault)) ∧
  (∀ (w : WeevilId) (s : State),
    let t := s.modWeevil w.val (fun v => { v with stalled := false })
    ((s.weevil w.val).stalled = false ∨ 512 ≤ (s.weevil w.val).out.length → exec (.backPressureRelease w) s = .next s) ∧
    ((s.weevil w.val).stalled = true → (s.weevil w.val).out.length < 512 → exec (.backPressureRelease w) s =
      .next (if sealedPaced t then t else { t.draw.2 with
        sel.stallUs := Tab.mod 0 t.sel.stallUs (w.val / 32) (fun x => satAdd 32 x t.draw.1) }))) ∧
  (∀ (e : EngineId) (failed : Bool) (s : State),
    (groupOf s e.val = none ∨ s.pwr.state ≠ 0 → exec (.lapChunk e failed) s = .next s) ∧
    ∀ g i, groupOf s e.val = some (g, i) → s.pwr.state = 0 → memberChunks s g i = [] →
      let t := lapCatchUp s e.val
      let ts := (t.engine e.val).lapSlots
      exec (.lapChunk e failed) s = .next ((slotsIn ts 1 ++ slotsIn ts 2).foldl (fun s n => leaveMember s e.val n) t)) ∧
  (∀ (e : EngineId) (failed : Bool) (s : State) (g : LapGroup) (i ch : Nat), groupOf s e.val = some (g, i) →
    s.pwr.state = 0 →
    let cs := memberChunks s g i
    let t := lapCatchUp s e.val
    let k := if (t.engine e.val).chunkPos < cs.length then (t.engine e.val).chunkPos else 0
    let k' := if k + 1 < cs.length then k + 1 else 0
    let begun := t.modEngine e.val (fun g => { g with
      lapSlots := (slotsIn g.lapSlots 1).foldl (fun a n =>
        Tab.mod WSlot.free a n (fun ws => { ws with phase := 2, start := k })) g.lapSlots })
    let u := lapChunkFor (if failed then noteChunk begun ch g.cid else begun) e.val ch failed
    cs[k]? = some ch →
    (∀ n ∈ slotsIn (u.engine e.val).lapSlots 2, passes k k' (Tab.get WSlot.free (u.engine e.val).lapSlots n).start = false) →
    exec (.lapChunk e failed) s = .next (u.modEngine e.val (fun g => { g with chunkPos := k' }))) ∧
  ∀ (n : SlotId) (s : State), unitStopped s 1 = false →
    (∀ p, Tab.get none s.sel.sent n.val = none → exec (.thresholdReceive p n) s = .next s) ∧
    ∀ th x, Tab.get none s.sel.sent n.val = some th → (s.slot n.val).ctx = some x →
      (∀ w : WeevilId, exec (.thresholdReceive (.weevil w) n) s = .next (s.modWeevil w.val (fun v => { v with
        wslots := Tab.mod WSlot.free v.wslots n.val (raise x th) }))) ∧
      ∀ e : EngineId, exec (.thresholdReceive (.side e) n) s = .next (s.modEngine e.val (fun g => { g with
        lapSlots := Tab.mod WSlot.free g.lapSlots n.val (raise x th) }))

/-- Where the selector is not stopped and an entry stands first at a port: a candidate whose VID the half does not hold, while
the half holds fewer than its limit, is inserted in order, counted in TOTAL for a RANGE slot and in SEL_EXIT for a Weevil's
entry of an unsealed slot; a second copy of a VID held that is not the newer leaves the selection as it was, and is counted as a
duplicate; a candidate whose locator names no block is dropped; one whose identity line is poisoned ends its slot's command with
FAULT; a STATS word adds to the half's sums and bins; a LEAVE adds its counts and the marks of its source (that they come from
the source and not in the entry is the model's choice, log 76) and one source left, and while another source is to leave nothing
else happens. In each case the entry has left the port. -/
def Obligations.SelectorsTakeEntries : Prop :=
  ∀ (p : Port) (s : State), unitStopped s 1 = false →
    (portOut s p = [] → exec (.chainCand p) s = .next s ∧ exec (.chainStats p) s = .next s ∧ exec (.chainLeave p) s = .next s) ∧
    (∀ n c x rest, portOut s p = .cand n c :: rest → ((popPort s p).slot n).ctx = some x →
      (resolveCand (popPort s p) p c = none → exec (.chainCand p) s = .next (popPort s p)) ∧
      (∀ e a hide, resolveCand (popPort s p) p c = some e → poisonedEntry (popPort s p) p c = some (a, hide) →
        exec (.chainCand p) s = .next (lineFault (popPort s p) n a hide)) ∧
      ∀ e, resolveCand (popPort s p) p c = some e → poisonedEntry (popPort s p) p c = none →
        let t := countEntry (popPort s p) p n x
        let i := portHalf p * 32 + n
        let h := halfAt t i
        (h.held.find? (fun d => d.vid = e.vid) = none → h.held.length < x.n →
          exec (.chainCand p) s = .next { t with sel.halves := Tab.set SelSlot.empty t.sel.halves i { h with
            total := h.total + b2n x.range, held := insertBy Cand.before e h.held } }) ∧
        ∀ d, h.held.find? (fun d => d.vid = e.vid) = some d → (resolveDup d e).1 = d →
          exec (.chainCand p) s = .next (noteDup { t with sel.halves := Tab.set SelSlot.empty t.sel.halves i { h with
            dupInc := h.dupInc || (resolveDup d e).2 } } x (resolveDup d e).2 (decide (d.version = e.version)))) ∧
    (∀ n k u rest, portOut s p = .stats n k u :: rest →
      let i := portHalf p * 32 + n
      let h := halfAt s i
      exec (.chainStats p) s = .next (setHalf (countPassed (popPort s p) p n) i { h with tally := { h.tally with
        sum := h.tally.sum + u.sum, sumsq := h.tally.sumsq + u.sumsq, hist := addHist h.tally.hist u.hist } })) ∧
    ∀ n u rest, portOut s p = .leave n u :: rest →
      let i := portHalf p * 32 + n
      let h := halfAt s i
      let t := setHalf (countPassed (popPort s p) p n) i { h with
        tally := h.tally.addLeave { u with clip := (portMarks s p n).1, integ := (portMarks s p n).2 }, left := h.left + 1 }
      (t.cmd (t.slot n).cmd = none → exec (.chainLeave p) s = .next t) ∧
      ∀ c j, t.cmd (t.slot n).cmd = some c → c.job = .search j → (t.slot n).busy = true →
        exec (.chainLeave p) s = .next (if scanComplete t n j.sideSources then scanDone t n c j else t)

/-- In Run, with a job first at a Borer, of a search that is under way and not surplus: the job is done, the keys go with the
last job of a channel that has left, the read is counted, a unit that is lost is given up, and the result is the refine score of
the slot it names, or an exclusion where the Borer holds no key, the slot does not decrypt under the collection's key with the
candidate's VID and version, or it does not pass the Borer's checks, counted for an unsealed search. With a result first at a
Borer whose candidate the search holds: the score, negated for L2, or the exclusion with INTEGRITY, is taken; the last one
outstanding ends refine. In payload return, of an unsealed search or for an entry with a payload: each entry costs a read of its
superblock's offset table and, where the table names a record, one of the record's units, each counted, a lost unit given up;
then the payload is the record's, or empty, with INTEGRITY where a unit is lost or the record does not check; the last one
completes the search, and an aborted search completes with ABORTED. With nothing at the Borer, or in no payload phase, nothing
changes. -/
def Obligations.RefineReturns : Prop :=
  (∀ (b : ChannelId) (o : FlashRead) (s : State),
    ((s.channel b.val).jobs = [] → exec (.refineReadDone b o) s = .next s) ∧
    ((s.channel b.val).results = [] → exec (.refineResult b) s = .next s) ∧
    (∀ r rest c j, s.pwr.state = 0 → (s.channel b.val).jobs = r :: rest →
      let t := s.modChannel b.val (fun k => settleKeys s { k with jobs := rest })
      let o' := readOutcome t (slotFlas t r.slot) o
      t.cmd r.cmd = some c → c.job = .search j → r.surplus = false →
      let u := endRead t (slotFlas t r.slot) j.ctx.sealed o'
      let v := refineOne j.ctx (if (s.channel b.val).keys then slotUnder u j.ctx.cid.toNat r.vid r.version.toNat r.slot else none)
        r.vid r.version
      exec (.refineReadDone b o) s = .next (u.modChannel b.val (fun k => { k with
        results := k.results ++ [⟨r.cmd, r.vid, r.version, v⟩]
        excl := if v.isNone && !j.ctx.sealed then satAdd 16 k.excl 1 else k.excl }))) ∧
    ∀ r rest c j e, s.pwr.state = 0 → (s.channel b.val).results = r :: rest →
      let t := s.modChannel b.val (fun k => { k with results := rest })
      t.cmd r.cmd = some c → c.job = .search j → j.result.find? (fun e => e.vid = r.vid && e.version = r.version) = some e →
      let w := r.score.map (fun v => if j.ctx.params.metric = 2 then v ^^^ 0x80000000#32 else v)
      let k : SearchJob := { j with scored := j.scored ++ [⟨e, w⟩], integ := j.integ || w.isNone, awaiting := j.awaiting - 1 }
      exec (.refineResult b) s = .next (if j.awaiting ≤ 1 then refineDone t c k else t.setCmd { c with job := .search k })) ∧
  ∀ (q : QueueId) (t : TagId) (o : FlashRead) (s : State),
    (s.cmdAt q.val t.val = none → exec (.payloadReadDone q t o) s = .next s) ∧
    ∀ c j, s.pwr.state = 0 → s.cmdAt q.val t.val = some c → c.phase = .payload → c.job = .search j →
      (j.aborted = true → exec (.payloadReadDone q t o) s = .next (fail (noteRelease s c) c stAborted)) ∧
      ∀ e, j.aborted = false → j.final[j.payloads.length]? = some e →
        let has (w : State) : Prop := ((slotHeld w e.1.slot).map (·.payLen)).getD 0 ≠ 0
        c.isSealed = false ∨ has s →
        let fs := if j.offsetRead then payloadFlas s e.1.slot else [offsetUnit s e.1.slot]
        let o' := readOutcome s fs o
        let u := endRead s fs c.isSealed o'
        let returned (p : List Byte) (bad : Bool) : State :=
          let k : SearchJob := { j with payloads := j.payloads ++ [p], offsetRead := false, integ := j.integ || bad }
          settleAll (if j.payloads.length + 1 = payloadReads c j.final.length j.ctx.k then
            endSearch u c k ⟨k.final, k.tiesN, nonfiniteCount k, (refinedOrder k).length⟩
          else u.setCmd { c with job := .search k })
        (j.offsetRead = false → o' = .lost → exec (.payloadReadDone q t o) s = .next (returned [] true)) ∧
        (j.offsetRead = false → o' ≠ .lost → has u →
          exec (.payloadReadDone q t o) s = .next (settleAll (u.setCmd { c with job := .search { j with offsetRead := true } }))) ∧
        (j.offsetRead = false → o' ≠ .lost → ¬ has u → c.isSealed = false →
          exec (.payloadReadDone q t o) s = .next (returned [] false)) ∧
        (j.offsetRead = true → ¬ has u → exec (.payloadReadDone q t o) s = .next (returned [] false)) ∧
        (j.offsetRead = true → has u → o' = .lost → exec (.payloadReadDone q t o) s = .next (returned [] true)) ∧
        (j.offsetRead = true → has u → o' ≠ .lost → exec (.payloadReadDone q t o) s = .next (
          match payloadUnder u j.ctx.cid.toNat e.1.vid e.1.version e.1.slot with
          | some p => returned p.bytes false
          | none => returned [] true))

/-- A batch in staging: an uncorrectable error ends it with FAULT and a destroyed collection with NO_COLLECTION (the model's
choice, log 100), its staged copies given up; with no CSN to issue, no room for it in the journal tail, a staged batch of one of
its VIDs before it, or, once staged, an entry or a refine slot not yet programmed or an earlier staged batch not yet issued (log
90, the model's reading), nothing changes; a refusal of R34 gives up what is staged and completes with the refusal's status.
Else, staged for the first time, a fast batch is journalled and its CSN issues at once where no batch staged earlier waits, and
another is journalled and waits; with no chunk or slot left to stage it in it ends with FAULT (the model's choice, log 100); a
staged one whose wait is over issues its CSN. A journal program that no command, event or range waits for lays the whole tail
down in the flash ring at once and takes the map as it stands at CSN_CURRENT (log 18, the model's reading); a full ring, and a
module in Hush or Vigil, changes nothing, and with an empty tail the FLUSH commands that wait are looked at alone. The end of a
CSN range is journalled once half the range in use is issued, and a checkpoint after 1 GiB of journal, with room in the tail. -/
def Obligations.BatchesCommitOnce : Prop :=
  (∀ (q : QueueId) (t : TagId) (failed : Bool) (c : Cmd) (j : BatchJob) (s : State),
    s.cmdAt q.val t.val = some c → c.phase = .staging → c.job = .batch j →
    let out := exec (.batchCommit q t failed) s
    let go : Prop := failed = false ∧ (liveColl s j.cid.toNat).isSome = true ∧ canIssue s = true
    let r0 := (j.ref.map (·.toNat)).getD noRef
    let ready : Prop := journalRoom s (batchRoom j.count) = true ∧ (j.kind = none → clash s j = false) ∧
      ∀ k, j.kind = some k → journalled s j k = true ∧ stagedBefore s j.jsn = false
    let ds := if c.opcode = opInsert then [] else j.vids.filterMap (fun v => (found s j.wclear v).map (·.at'))
    (failed = true → out = .next (fail (unstage s j) c stFault)) ∧
    (failed = false → liveColl s j.cid.toNat = none → out = .next (fail (unstage s j) c stNoCollection)) ∧
    (failed = false → (liveColl s j.cid.toNat).isSome = true → canIssue s = false → out = .next s) ∧
    (go → j.kind = none → journalRoom s (batchRoom j.count) = false ∨ clash s j = true → out = .next s) ∧
    (∀ k, go → j.kind = some k →
      journalled s j k = false ∨ stagedBefore s j.jsn = true ∨ journalRoom s (batchRoom j.count) = false → out = .next s) ∧
    (∀ st r1, go → ready → refusal s c.opcode j = some (st, r1) →
      out = .next (finish (unstage s j) c st 0 r1 (delayedFlag c) 0 [])) ∧
    (∀ k, go → ready → j.kind = some k → refusal s c.opcode j = none → out = .next (issueBatch s c j ds k)) ∧
    (go → ready → j.kind = none → refusal s c.opcode j = none →
      stage s j (j.recs.map (fun r => nextVersion s c.opcode j r.vid)) = none → out = .next (fail (unstage s j) c stFault)) ∧
    ∀ u ents, go → ready → j.kind = none → refusal s c.opcode j = none →
      stage s j (j.recs.map (fun r => nextVersion s c.opcode j r.vid)) = some (u, ents) →
      let k : BatchJob := { j with ents := ents }
      let v := journalAck u j.durable r0 j.cid.toNat j.count 0 (batchBody c.opcode ds ents) none none
      let waits : Prop := j.durable = true ∨ u.hold.below = true ∨ stagedBefore v v.flash.jsn = true
      (¬ waits → out = .next (issueBatch v c k ds false)) ∧
      (waits → out = .next (v.setCmd { c with job := .batch { k with kind := some (ackKind u j), jsn := v.flash.jsn } }))) ∧
  ∀ s : State,
    (asleep s = true ∨ ringFull s = true → exec .journalProgramDone s = .next s) ∧
    (asleep s = false → ringFull s = false → s.flash.tail = [] → exec .journalProgramDone s = .next (flushesDone s)) ∧
    (asleep s = false → ringFull s = false → s.flash.tail ≠ [] → (∀ e ∈ s.flash.tail, e.cmd = none ∧ e.ack = none) →
      s.csn.nextRange = none → s.qau.cmds = [] →
      let n := ceilDiv (tailBytes s) 4096
      let u := (layRun s n).1
      let v : State := { u with flash.journalRuns := u.flash.journalRuns ++ [((layRun s n).2, n, u.flash.jsn)] }
      exec .journalProgramDone s = .next { v with
        flash.tail := [], flash.ring := v.flash.ring + tailBytes s, flash.sinceCkpt := v.flash.sinceCkpt + tailBytes s
        flash.programmed := v.flash.jsn, flash.map := snapshot v v.csn.current, flash.mapCsn := v.csn.current }) ∧
    (let last := s.csn.rangeEnd + 1048576
     (524288 ≤ s.csn.next - 1 + 1048576 - s.csn.rangeEnd → s.csn.nextRange = none → journalRoom s 72 = true → exec .csnRange s =
        .next (journal { s with csn.nextRange := some (last, false) } noRef 0xFFFF 0 last (.csnRange last))) ∧
     (s.csn.next - 1 + 1048576 - s.csn.rangeEnd < 524288 ∨ s.csn.nextRange ≠ none ∨ journalRoom s 72 = false → exec .csnRange s = .next s)) ∧
    (unitStopped s 2 = false →
      (s.flash.sinceCkpt < 1073741824 ∨ journalRoom s 72 = false → exec .checkpoint s = .next s) ∧
      (1073741824 ≤ s.flash.sinceCkpt → journalRoom s 72 = true →
        let n := ceilDiv (ckptBytesOf s) 4096
        exec .checkpoint s = .next (freeRing (journal { (layRun s n).1 with
        flash.ckptRun := some ((layRun s n).2, n), flash.sinceCkpt := 0, flash.ckptJsn := s.flash.programmed, flash.ckptBytes := s.flash.ring } noRef 0xFFFF 0 0
        (.checkpoint s.flash.programmed)))))

/-- While the allocator is not stopped: an issued commit-table entry is back-filled and freed, an unissued one stays; exclusions
of a block at or below CSN_HORIZON become tombstones with the header signed anew, and with none of them nothing changes; a side
copy or a block whose retire CSN the horizon has reached, or of a gone collection, is reclaimed, with the generations that no
copy uses any more and that are not the newest, and the scan space that a block frees goes to flash-only collections that fit
again; a newer one stays; a reclaim of a generation leaves the newest and those in use (log 100, the model's choice); a
collection gone and empty frees its CID and its slots. A merge whose entries fit together, with a CSN and a commit-table entry,
its read-back good and a place fit, is handed over; with a bad read-back it does nothing. An empty block retires by a move
without a place, where its collection's counts stay balanced (of what counts, log 107). A quarantined block's image is read from
flash: its records are the image's, signed anew, in its place where its rows read back, else in the repair reserve; without an
image that its key reads, or a block not quarantined, it is left as it is (log 82, the model's choice). -/
def Obligations.TheAllocatorWorks : Prop :=
  ∀ s : State, unitStopped s 2 = false →
    (∀ ref : BitVec 16,
      ((Tab.get none s.csn.table ref.toNat).bind (·.csn) = none → exec (.csnBackfill ref) s = .next s) ∧
      ∀ c, (Tab.get none s.csn.table ref.toNat).bind (·.csn) = some c → exec (.csnBackfill ref) s = .next (backfill s ref.toNat c)) ∧
    (∀ (w : WeevilId) (h : Nat) (b : Block), s.block (blockKey w.val h) = some b →
      let due := (exclusions s w.val b.hdr).filter (fun x => decide (resolveEx s x ≤ horizon s))
      let left := (exclusions s w.val b.hdr).filter (fun x => !decide (resolveEx s x ≤ horizon s))
      let hd := hset ((due.map exIdx).foldl hSetTomb b.hdr) 34 1 left.length
      (due = [] → exec (.exclusionSettle w h) s = .next s) ∧
      (due ≠ [] → exec (.exclusionSettle w h) s = .next ((setExcl s w.val (hExclList b.hdr) left).setBlock (blockKey w.val h)
        (some { b with hdr := hSign (if left = [] then hset hd 32 2 0xFFFF else hd) }))) ∧
      (let gone := resolveRetire s (hRetire b.hdr) (hRetireRef b.hdr) ≤ horizon s ∨ goneColl s (hCid b.hdr) = true
       (¬ gone → exec (.reclaim (.block w h)) s = .next s) ∧
       (gone → hExclList b.hdr = 0xFFFF → exec (.reclaim (.block w h)) s = .next (refitColls (dropGens
          (dropImage (freeExtent (s.setBlock (blockKey w.val h) none) b.extent (hCount b.hdr)) b) (hCid b.hdr))))) ∧
      (∀ ok, hQuar b.hdr = false → exec (.blockReload w h ok) s = .next s) ∧
      (hQuar b.hdr = true →
        let t := imageRead s b
        (∀ ok, imageUnder t b = none → exec (.blockReload w h ok) s = .next t) ∧
        ∀ i, imageUnder t b = some i →
          exec (.blockReload w h true) s = .next (t.setBlock (blockKey w.val h) (some (signBlock { b with recs := i.recs }))) ∧
          ∀ r, reserveRow t w.val (rowSpan b.hdr) = some r → exec (.blockReload w h false) s =
            .next (t.setBlock (blockKey w.val h) (some (signBlock { b with hdr := hset b.hdr 28 4 r, recs := i.recs }))))) ∧
    (∀ (n : Nat) (e : SideEnt), s.side n = some e →
      let gone := resolveRetire s e.retire.toNat e.retireRef.toNat ≤ horizon s ∨ goneColl s e.cid.toNat = true
      (¬ gone → exec (.reclaim (.side n)) s = .next s) ∧
      (gone → exec (.reclaim (.side n)) s = .next (dropGens (freeRing (noteFill (releaseChunks ((putSlot s e.slot none).setSide n none)))) e.cid.toNat))) ∧
    (∀ (cid : BitVec 16) (tag : Byte) (c : Coll), s.coll cid.toNat = some c →
      exec (.reclaim (.generation cid tag)) s = .next (s.setColl cid.toNat (some { c with
        gens := c.gens.filter (fun g => c.newest.any (fun n => n.tag = g.tag) || genUsed s cid.toNat g.tag) })) ∧
      (goneColl s cid.toNat = true → emptyColl s cid.toNat = true → exec (.reclaim (.collection cid)) s =
        .next { s.setColl cid.toNat none with
          flash.slots := s.flash.slots.filter (fun e => !e.2.any (fun v => v.cid.toNat = cid.toNat)) })) ∧
    (∀ (cid : BitVec 16) (es : List Nat) (pl : Place) (x : Coll) (ref : Nat),
      let ents := es.filterMap (fun n => (s.side n).map (fun e => (n, e)))
      let dead := (ents.filter (fun e => !sideLive s e.2)).length
      (exec (.mergeHandover cid es pl false) s = .next s) ∧
      (liveColl s cid.toNat = some x → changeRef s = some ref → ents.length = es.length → mergeable s cid.toNat ents = true →
        dead ≤ 32 → extentsFree s x.params pl (ents.map (fun e => e.2.slot)) = true → placeOk s pl cid.toNat (blockBytes x.params) (decide (dead ≠ 0)) [] = true →
        exec (.mergeHandover cid es pl true) s = .next (handOver s cid.toNat x ents pl ref))) ∧
    ∀ (w : WeevilId) (h : Nat) (b : Block) (pl : Option Place) (ok : Bool) (x : Coll) (ref : Nat),
      s.block (blockKey w.val h) = some b → liveColl s (hCid b.hdr) = some x → changeRef s = some ref →
      blockLive s b = true → hQuar b.hdr = false → liveRecs s (keyWeevil (blockKey w.val h)) b = [] →
      balanced s (hCid b.hdr) [keyWeevil (blockKey w.val h)] none = true →
      exec (.blockMove .retireEmpty [(w, h)] pl ok) s = .next (commitChange
        ((takeRef s ref).setBlock (blockKey w.val h) (some { b with hdr := hSign (hset b.hdr 26 2 ref) })) ref (hCid b.hdr) 0
        (.move none [blockKey w.val h])).2

/-- An open row is programmed, and skips the channel that it skipped before or else the first that is out (of two, log 34, the
model's reading), once the objects with a unit on column 29 of a row that is first skipped now are moved out; while they are
there and a command holds an address it waits, and a row already programmed stays. In Hush and Vigil none is programmed or
scrubbed. A patrol scrub of an open row reads nothing; of a programmed row it counts the read (lost where the unit's channel is
out and its row cannot be rebuilt), gives the unit up where it is lost, and moves the object of a unit with a high corrected
count to a free run, counting it, while no command holds an address. Garbage collection moves the object at a unit to a free run
and erases the superblock it leaves empty, whose blocks at their rated cycles then ask to be retired; without an object, a free
run, or while a command holds an address, nothing changes. Wear relocation moves a lagging superblock's objects, packed, to an
empty one and erases it, and does nothing where the superblock does not lag, the target is not empty, or they do not fit there.
-/
def Obligations.PageStoreWorks : Prop :=
  (∀ (row : Nat) (s : State),
    let skip := if (rowSkip s row).isSome then rowSkip s row else skipNow s
    let out := if skip = rowSkip s row then [] else lastColumn s row
    let program (t : State) : State := { t with
      flash.rows := Tab.mod Row.initial t.flash.rows row (fun r => { r with openRow := false, begun := true, skip := skip }) }
    (asleep s = true ∨ (rowAt s row).openRow = false ∨ (out ≠ [] ∧ addressHeld s = true) → exec (.openRowProgram row) s = .next s) ∧
    (asleep s = false → (rowAt s row).openRow = true → out = [] ∨ addressHeld s = false →
      exec (.openRowProgram row) s = .next (program (out.foldl moveOut s)))) ∧
  (∀ (fla fresh : BitVec 40) (o : FlashRead) (high : Bool) (s : State),
    let ch := homeChannel s fla.toNat
    let o' := readOutcome s [fla.toNat] o
    let t := endRead s [fla.toNat] false o'
    (asleep s = true ∨ (rowAt s (flaRow fla.toNat)).openRow = true → exec (.flashScrub fla o high fresh) s = .next s) ∧
    (asleep s = false → (rowAt s (flaRow fla.toNat)).openRow = false →
      (o' = .lost → exec (.flashScrub fla o high fresh) s = .next t) ∧
      (o' ≠ .lost → high = false ∨ objectAt s fla.toNat = none ∨ addressHeld s = true →
        exec (.flashScrub fla o high fresh) s = .next t) ∧
      ∀ lo n, o' ≠ .lost → high = true → objectAt s fla.toNat = some (lo, n) → freeRun s fresh.toNat n = true →
        addressHeld s = false → exec (.flashScrub fla o high fresh) s =
          .next ((moveRun t lo n fresh.toNat).modChannel ch (fun c => { c with corrHi := satAdd 16 c.corrHi 1 })))) ∧
  ∀ s : State, unitStopped s 2 = false →
    (∀ fla fresh : BitVec 40,
      (objectAt s fla.toNat = none ∨ addressHeld s = true → exec (.garbageCollection fla fresh) s = .next s) ∧
      ∀ lo n, objectAt s fla.toNat = some (lo, n) → freeRun s fresh.toNat n = true → addressHeld s = false →
        let t := moveRun s lo n fresh.toNat
        exec (.garbageCollection fla fresh) s = .next (if superEmpty t (superOf lo) then retireWorn (eraseSuper t (superOf lo)) (superOf lo) else t)) ∧
    ∀ sb fresh : Nat,
      (addressHeld s = true ∨ wearLags s sb = false ∨ superEmpty s fresh = false ∨ packSuper s sb fresh = none →
        exec (.wearRelocation sb fresh) s = .next s) ∧
      ∀ t, addressHeld s = false → wearLags s sb = true → superEmpty s fresh = true → packSuper s sb fresh = some t →
        exec (.wearRelocation sb fresh) s = .next (retireWorn (eraseSuper t sb) sb)

/-- Where the entry at the front of a Weevil's window has the opcode of a row of Table 4.10 and comes from a requester of that
row, the command has its effect and is answered OK: HDR_WRITE replaces the header's bytes under the mask and signs it,
EXCL_WRITE puts entries into the list and sets the header's EXCL_N and list, SETTLE turns the exclusions at or below the CSN
into tombstones, REPAIR_READY puts a quarantined block's copy in service for catch-up, PAUSE and RESUME hold and release the
walk, UCODE_STAGE takes an approved image and UCODE_SWAP runs it, STATE_READ answers position, mode, level, version and WDONE,
and SELFTEST its result, where a failure asks for the pseudo-channel's retirement. Where its operands (their places: log 12)
name no block, or what it needs is not there, the answer is BAD_CMD (log 26, the model's choice), and UCODE_STAGE of an image
not approved is DENIED, each with no other effect. From any other requester the answer is DENIED with no other effect, and where
the front entry is another command nothing happens. In Hush and Vigil, where the Weevils stand still, nothing happens either;
UCODE_SWAP adds the image's measurement to MR14. -/
def Obligations.WindowCommandsRun : Prop :=
  ∀ (w : WeevilId) (s : State) (r : Nat) (bs : List Byte),
    let v := s.weevil w.val
    let front (op : Nat) (rs : List Nat) : Prop := asleep s = false ∧ winFront s w.val op = some (r, bs) ∧ rs.contains r = true
    let say (t : State) (st : Nat) : Host.Outcome State Fault Refusal := .next (respond t w.val st 0 [])
    let h := arg0 bs
    (∀ res : W32, ∀ e ∈ [((0x01 : Nat), ([3] : List Nat), Instr.hdrWrite w), (0x02, [3], .exclWrite w), (0x03, [3], .settle w), (0x04, [3], .repairReady w),
        (0x08, [9], .pause w), (0x09, [9], .weevilResume w), (0x0A, [9], .ucodeStage w), (0x0B, [9], .ucodeSwap w),
        (0x10, [0, 1, 3, 9], .stateRead w), (0x18, [9], .weevilSelftest w res)],
      (asleep s = true ∨ winFront s w.val e.1 = none → exec e.2.2 s = .next s) ∧
      (asleep s = false → winFront s w.val e.1 = some (r, bs) → e.2.1.contains r = false → exec e.2.2 s = say s winDenied)) ∧
    (front 0x08 [9] → exec (.pause w) s = say (s.modWeevil w.val (fun v => { v with paused := true })) winOk) ∧
    (front 0x09 [9] → exec (.weevilResume w) s = say (s.modWeevil w.val (fun v => { v with paused := false })) winOk) ∧
    (front 0x10 [0, 1, 3, 9] → exec (.stateRead w) s = .next (respond s w.val winOk 0 (leBytes 4 v.pos ++ leBytes 1 (b2n v.paced) ++
      leBytes 1 v.level ++ leBytes 2 v.ucode.toNat ++
      leBytes 36 ((List.range 32).foldl (fun a n => a + field (wdone s n) (9 * n) 9) 0)))) ∧
    (∀ res : W32, front 0x18 [9] → exec (.weevilSelftest w res) s =
      .next (respond (if res = 0 then s else askAuto s (.pcRetire w.val)) w.val winOk res.toNat [])) ∧
    (front 0x0B [9] → (v.staged = none → exec (.ucodeSwap w) s = say s winBadCmd) ∧
      ∀ image, v.staged = some image → exec (.ucodeSwap w) s = say (measureUnit (s.modWeevil w.val (fun v => { v with
        staged := none, image := some image, ucode := (Config.imageVersion image).truncate 16 })) 2 w.val image) winOk) ∧
    (∀ image, front 0x0A [9] → le bs 12 4 ≠ 0 → le bs 12 4 ≤ 65536 → dataBytes s w.val (le bs 8 4) (le bs 12 4) = some image →
      exec (.ucodeStage w) s = if imageOk s 2 image then say (s.modWeevil w.val (fun v => { v with staged := some image })) winOk
        else say s winDenied) ∧
    (∀ new, front 0x01 [3] → h < 327680 → dataBytes s w.val (le bs 16 4) 128 = some new →
      exec (.hdrWrite w) s = say (putHeader s w.val h (BitVec.ofNat 1024 (ofLe ((List.range 128).map (fun i =>
        if bit (le bs 8 8) (i / 2) then new.getD i 0 else (leBytes 128 (headerAt s w.val h).toNat).getD i 0))))) winOk) ∧
    (∀ b, front 0x02 [3] → s.block (blockKey w.val (le bs 8 4)) = some b → h < 8192 → byteAt bs 12 ≤ 32 → byteAt bs 13 ≤ 3 →
      byteAt bs 14 + byteAt bs 13 ≤ 32 →
      let xs := putEntries (Tab.get [] s.corpus.excl (exKey w.val h)) (byteAt bs 14)
        ((List.range (byteAt bs 13)).map (fun j => BitVec.ofNat 128 (le bs (16 + 16 * j) 16)))
      exec (.exclWrite w) s = say (putHeader (setExcl s w.val h xs) w.val (le bs 8 4)
        (hset (hset b.hdr 32 2 h) 34 1 (byteAt bs 12))) winOk) ∧
    (front 0x03 [3] → (s.block (blockKey w.val h) = none → exec (.settle w) s = say s winBadCmd) ∧
      ((s.block (blockKey w.val h)).isSome = true → exec (.settle w) s = say (settleBlock s w.val h (le bs 8 8)) winOk)) ∧
    ∀ b, front 0x04 [3] → s.block (blockKey w.val h) = some b →
      (hQuar b.hdr = false → exec (.repairReady w) s = say s winBadCmd) ∧
      (hQuar b.hdr = true → exec (.repairReady w) s = say
        ((putHeader s w.val h (hSetFlag (hSetFlag b.hdr 2 false) 3 true)).modWeevil w.val (fun v => { v with
          repair := v.repair ++ [h] })) winOk)

/-- A paused Weevil resumes at the timeout, and PAUSE_TIMEOUT is posted; one that is not paused stays. A DSCAN waits outside Run
and beside active slots without a share; in its time, with operands in range (their places: log 25, the model's reading) and its
rows in a direct-scan region, it scores every record, writes the k best with lower indices first among equals to its result
area, and is answered OK, else BAD_CMD; a requester other than 0 and 1 is DENIED. A V1 scan that is running and has its time
writes its results and STATUS 1, or STATUS 2 where its operands are out of range, and is no longer running; with ABORT set it
ends with STATUS 4; one that is not running stays. What a result area holds beyond the records scanned is free (log 5). -/
def Obligations.DirectScansAnswer : Prop :=
  ∀ (w : WeevilId) (s : State),
    let v := s.weevil w.val
    let said (t : State) (st : Nat) : Host.Outcome State Fault Refusal :=
      .next ((t.setBytes (windowBase w.val + v1Status) (leBytes 8 st)).modWeevil w.val (fun v => { v with v1Run := false }))
    (v.paused = false → exec (.pauseTimeout w) s = .next s) ∧
    (v.paused = true → exec (.pauseTimeout w) s =
      .next (postM (s.modWeevil w.val (fun v => { v with paused := false })) 0x0023 (0x20 + w.val / 32) 0xFFFF w.val 0 0)) ∧
    (s.pwr.state ≠ 0 ∨ dscanTime s w.val = false → exec (.dscan w) s = .next s) ∧
    (∀ (r : Nat) (bs : List Byte), s.pwr.state = 0 → dscanTime s w.val = true → winFront s w.val 0x11 = some (r, bs) →
      (r ≠ 0 → r ≠ 1 → exec (.dscan w) s = .next (respond s w.val winDenied 0 [])) ∧
      (r < 2 → byteAt bs 10 = 0 ∨ 64 < byteAt bs 10 ∨ le bs 12 4 = 0 ∨ 16777216 < le bs 12 4 ∨ 1 < byteAt bs 8 % 4 ∨
          (byteAt bs 8 % 8 = 4 ∧ byteAt bs 9 ≠ 8 ∧ byteAt bs 9 ≠ 16) →
        exec (.dscan w) s = .next (respond s w.val winBadCmd 0 [])) ∧
      ∀ lut set out, r < 2 → 1 ≤ byteAt bs 10 → byteAt bs 10 ≤ 64 → 1 ≤ le bs 12 4 → le bs 12 4 ≤ 16777216 → byteAt bs 8 % 8 = 4 →
        let m := byteAt bs 9
        m = 8 ∨ m = 16 → dscanRegion s w.val (le bs 16 8) (le bs 12 4 * (m + 8)) = true →
        dataBytes s w.val (le bs 24 4) (m * 256) = some lut → dataBytes s w.val (le bs 28 4) 32 = some set →
        dataBytes s w.val (le bs 32 4) (8 * byteAt bs 10) = some out →
        let base := placeOf (w.val / 32) (w.val % 32) (le bs 16 8)
        let best := firstK (byteAt bs 10) ((List.range (le bs 12 4)).map (fun i => ((scoreOf 0 0 0 m true ⟨setOfBytes set, lut, []⟩
          (ScanRec.ofBytes m 0 (s.bytes (base + i * (m + 8)) (m + 8)))).1, i)))
        let rest := drawBytes (8 * (byteAt bs 10 - best.length)) s
        exec (.dscan w) s = .next (respond (rest.2.setBytes (windowBase w.val + winData + le bs 32 4)
          (best.flatMap (fun x => leBytes 4 x.2 ++ leBytes 4 (ofSigned 32 x.1)) ++ rest.1)) w.val winOk 0 [])) ∧
    (v.v1Run = false → exec (.v1Go w) s = .next s ∧ exec (.v1Abort w) s = .next s) ∧
    (v.v1Run = true →
      ((s.byte (windowBase w.val + winV1)).getLsbD 1 = true → exec (.v1Abort w) s = said s 4) ∧
      ((s.byte (windowBase w.val + winV1)).getLsbD 1 = false → exec (.v1Abort w) s = .next s) ∧
      (dscanTime s w.val = false → exec (.v1Go w) s = .next s) ∧
      (dscanTime s w.val = true →
        let base := v1Word s w.val 0x08
        let n := v1Word s w.val 0x10
        let k := v1Word s w.val 0x18
        (base % 16 ≠ 0 ∨ n = 0 ∨ 16777216 < n ∨ k = 0 ∨ 64 < k → exec (.v1Go w) s = said s 2) ∧
        (base % 16 = 0 → 1 ≤ n → n ≤ 16777216 → 1 ≤ k → k ≤ 64 → dscanRegion s w.val base (16 * n) = true →
          let p := placeOf (w.val / 32) (w.val % 32) base
          let lut := s.bytes (windowBase w.val + winV1 + 0x1000) 256
          let best := firstK k ((List.range n).map (fun i =>
            (lutSum false lut ((s.bytes (p + 16 * i) 16).take 8) 0 16, le (s.bytes (p + 16 * i) 16) 8 8)))
          let rest := drawBytes (16 * (k - best.length)) s
          exec (.v1Go w) s = said (rest.2.setBytes (windowBase w.val + v1Result)
            (best.flatMap (fun x => leBytes 8 x.2 ++ leBytes 4 (ofSigned 32 x.1) ++ zeros 4) ++ rest.1)) 1)))

/-- Where the front end issues ADD, SUB, MUL or ADDI, s[FD] takes the exact result narrowed to the signed 64-bit range and
EF.SAT is set where that changes it. AND, OR, XOR, ANDI and the shifts take the bitwise result, a shift of 64 or more giving 0,
or the sign repeated for SRA, and set no flag. DIV divides signed or unsigned, quotient or remainder, a signed pair with the
dividend the quotient times the divisor plus the remainder and the remainder smaller than the divisor; by zero the quotient is
the largest or the smallest signed number by the dividend's sign, or all ones, the remainder the dividend, and the smallest
signed number by -1 gives the largest and remainder 0: these set EF.SAT. Each counts as issued, moves the PC by 8 and changes
nothing else of the state. JR to an address that is no multiple of 8 traps with an address fault. -/
def Obligations.ScalarIntegersSaturate : Prop :=
  ∀ (e : EngineId) (s : State) (c : Nat) (x : Ctx) (b : W64),
    let fa := x.sreg (iFa b.toNat)
    let fb := x.sreg (iFb b.toNat)
    let put (v : W64) (sat : Bool) : Host.Outcome State Fault Refusal := issuedTo s c (x.scalar b v sat) b (x.pc + 8)
    let exact (v : Int) : Host.Outcome State Fault Refusal := put (narrow64 v) (outside64 v)
    let least : Int := -9223372036854775808
    (Issues s e 0x10 .front (fun _ => planSss [0]) c x b → exec (.add e) s = exact (fa.toInt + fb.toInt)) ∧
    (Issues s e 0x11 .front (fun _ => planSss [0]) c x b → exec (.sub e) s = exact (fa.toInt - fb.toInt)) ∧
    (Issues s e 0x12 .front (fun _ => planSss [0]) c x b → exec (.mul e) s = exact (fa.toInt * fb.toInt)) ∧
    (Issues s e 0x1A .front (fun _ => planSsi (fun _ => true)) c x b → exec (.addi e) s = exact (fa.toInt + iImm25 b.toNat)) ∧
    (Issues s e 0x14 .front (fun _ => planSss [0]) c x b → exec (.and e) s = put (fa &&& fb) false) ∧
    (Issues s e 0x15 .front (fun _ => planSss [0]) c x b → exec (.or e) s = put (fa ||| fb) false) ∧
    (Issues s e 0x16 .front (fun _ => planSss [0]) c x b → exec (.xor e) s = put (fa ^^^ fb) false) ∧
    (Issues s e 0x1B .front (fun _ => planSsi (fun _ => true)) c x b →
      exec (.andi e) s = put (fa &&& BitVec.ofInt 64 (iImm25 b.toNat)) false) ∧
    (Issues s e 0x17 .front (fun _ => planSss [0, 1, 2]) c x b → exec (.shift e) s = put (if iFn b.toNat = 0 then fa <<< fb.toNat
      else if iFn b.toNat = 1 then fa >>> fb.toNat else fa.sshiftRight fb.toNat) false) ∧
    (Issues s e 0x1C .front (fun _ => planSsi (fun w => bits w 9 16 = 0 && bits w 7 2 ≤ 2)) c x b →
      exec (.shifti e) s = put (if bits b.toNat 7 2 = 0 then fa <<< bits b.toNat 0 7
        else if bits b.toNat 7 2 = 1 then fa >>> bits b.toNat 0 7 else fa.sshiftRight (bits b.toNat 0 7)) false) ∧
    (Issues s e 0x13 .front (fun _ => planSss [0, 1, 2, 3]) c x b → bit b.toNat 0 = true → fb ≠ 0 → ¬ (fa.toInt = least ∧ fb.toInt = -1) →
      ∃ q r : Int, fa.toInt = q * fb.toInt + r ∧ r.natAbs < fb.toInt.natAbs ∧
        exec (.div e) s = put (BitVec.ofInt 64 (if bit b.toNat 1 then r else q)) false) ∧
    (Issues s e 0x13 .front (fun _ => planSss [0, 1, 2, 3]) c x b → exec (.div e) s =
      if bit b.toNat 0 then
        if fb = 0 then put (if bit b.toNat 1 then fa else if fa.toInt < 0 then narrow64 least else narrow64 (-1 - least)) true
        else if fa.toInt = least ∧ fb.toInt = -1 then put (if bit b.toNat 1 then 0 else narrow64 (-1 - least)) true
        else exec (.div e) s
      else if fb = 0 then put (if bit b.toNat 1 then fa else BitVec.allOnes 64) true
      else put (BitVec.ofNat 64 (if bit b.toNat 1 then fa.toNat % fb.toNat else fa.toNat / fb.toNat)) false) ∧
    (runningOn s e.val = some (c, x) → x.spent = false → x.wordAt x.pc = some b → iOp b.toNat = 0x42 → x.ops = [] →
      bits b.toNat 0 25 = 0 → iFd b.toNat = 0 → sigOk b.toNat = true → fa.toNat % 8 ≠ 0 →
      exec (.jr e) s = .next (trapCtx s c x ⟨x.pc, 0x02, .front, 0, 0, 0⟩))

/-- Where the front end issues it, MINMAX, CMP, LI, LC, FOP, AMOV, AADD, AADDI, ALC, TSET, TFLD or TGET writes the register that
its format names with the value that its rule gives (addresses modulo 2^64, constants from the word of the image at PC + 8 x
IMM30, a descriptor's field or half), raises in EF what FOP's result raises, records the use of a t register for the other
units, counts, and moves the PC by 8; nothing else of the state changes. A signed DIV in range rounds its quotient toward zero,
so its remainder has the dividend's sign: the spec is silent there, and log 114 names it as the model's choice. -/
def Obligations.ScalarsAndAddresses : Prop :=
  ∀ (e : EngineId) (s : State) (c : Nat) (x : Ctx) (b : W64),
    let w := b.toNat
    let fa := x.sreg (iFa w)
    let fb := x.sreg (iFb w)
    let next (y : Ctx) : Host.Outcome State Fault Refusal := issuedTo s c y b (x.pc + 8)
    let tile (y : Ctx) (t : Nat) (written : Bool) : Host.Outcome State Fault Refusal :=
      .next (s.setCtx c (some ((y.issued' w (x.pc + 8)).recordUse .front w (Plan.front true [(.t, t, written)]))))
    (Issues s e 0x18 .front (fun _ => planSss [0, 1, 2, 3]) c x b → exec (.minmax e) s = next (x.setS (iFd w)
      (if (if bit w 1 then decide (fa.toNat < fb.toNat) else decide (fa.toInt < fb.toInt)) = bit w 0 then fb else fa))) ∧
    (Issues s e 0x13 .front (fun _ => planSss [0, 1, 2, 3]) c x b → bit w 0 = true → fb ≠ 0 →
      ¬ (fa = BitVec.intMin 64 ∧ fb = BitVec.allOnes 64) → exec (.div e) s = next (x.setS (iFd w)
        (BitVec.ofInt 64 (if bit w 1 then fa.toInt.tmod fb.toInt else fa.toInt.tdiv fb.toInt)))) ∧
    (Issues s e 0x19 .front (fun _ => planSss [0, 1, 2, 3, 4, 5]) c x b → exec (.cmp e) s = next (x.setS (iFd w)
      (if (match iFn w with
        | 0 => decide (fa = fb)
        | 1 => decide (fa ≠ fb)
        | 2 => decide (fa.toInt < fb.toInt)
        | 3 => decide (fb.toInt ≤ fa.toInt)
        | 4 => decide (fa.toNat < fb.toNat)
        | _ => decide (fb.toNat ≤ fa.toNat)) then 1 else 0))) ∧
    (Issues s e 0x20 .front (fun _ => planSd (fun _ => true)) c x b →
      exec (.li e) s = next (x.setS (iFd w) (BitVec.ofInt 64 (iImm30 w)))) ∧
    (∀ v, Issues s e 0x21 .front (fun _ x w => { planSd (fun _ => true) x w with addrOk := x.relOk (iImm30 w) }) c x b →
      x.wordAt (x.rel (iImm30 w)) = some v → exec (.lc e) s = next (x.setS (iFd w) v)) ∧
    (Issues s e 0x22 .front (fun _ => planSss (List.range 11)) c x b →
      exec (.fop e) s = next ((x.raise (fop (iFn w) fa.toNat fb.toNat)).setS (iFd w)
        (BitVec.ofNat 64 (fop (iFn w) fa.toNat fb.toNat).bits))) ∧
    (∀ plan : State → Ctx → Iw → Plan, plan = (fun _ _ w => Plan.front
        (zeroF [iFb w, iFc w] && iFn w ≤ 1 && (if iFn w = 0 then iFd w < 16 else iFa w < 16))
        (if iFn w = 0 then useA (iFd w) true :: useS (iFa w) false else useA (iFa w) false :: useS (iFd w) true)) →
      Issues s e 0x30 .front plan c x b →
      exec (.amov e) s = next (if iFn w = 0 then x.setA (iFd w) fa else x.setS (iFd w) (x.areg (iFa w)))) ∧
    (Issues s e 0x31 .front (fun _ _ w => Plan.front (zeroF [iFc w, iFn w] && iFd w < 16 && iFa w < 16)
        (useA (iFd w) true :: useA (iFa w) false :: useS (iFb w) false)) c x b →
      exec (.aadd e) s = next (x.setA (iFd w) (x.areg (iFa w) + fb))) ∧
    (Issues s e 0x32 .front (fun _ _ w => Plan.front (iFd w < 16 && iFa w < 16) [useA (iFd w) true, useA (iFa w) false]) c x b →
      exec (.aaddi e) s = next (x.setA (iFd w) (x.areg (iFa w) + BitVec.ofInt 64 (iImm25 w)))) ∧
    (∀ v, Issues s e 0x33 .front (fun _ x w =>
        { Plan.front (iFd w < 16) [useA (iFd w) true] with addrOk := x.relOk (iImm30 w) }) c x b →
      x.wordAt (x.rel (iImm30 w)) = some v → exec (.alc e) s = next (x.setA (iFd w) v)) ∧
    (Issues s e 0x34 .front (fun _ _ w => Plan.front (zeroF [iFc w, iFn w] && iFd w < 8)
        ((.t, iFd w, true) :: useS (iFa w) false ++ useS (iFb w) false)) c x b →
      exec (.tset e) s = tile (x.setT (iFd w) (fb ++ fa)) (iFd w) true) ∧
    (Issues s e 0x35 .front (fun _ _ w => Plan.front (zeroF [iFb w, iFc w] && iFn w ≤ 6 && iFd w < 8)
        ((.t, iFd w, true) :: useS (iFa w) false)) c x b →
      exec (.tfld e) s = tile (x.setT (iFd w)
        (BitVec.ofNat 128 (setBits (x.treg (iFd w)).toNat (tileField (iFn w)).1 (tileField (iFn w)).2 fa.toNat))) (iFd w) true) ∧
    (Issues s e 0x36 .front (fun _ _ w => Plan.front (zeroF [iFb w, iFc w] && iFn w ≤ 1 && iFa w < 8)
        (useT (iFa w) :: useS (iFd w) true)) c x b →
      exec (.tget e) s = tile (x.setS (iFd w) ((x.treg (iFa w)).extractLsb' (64 * iFn w) 64)) (iFa w) false)

/-- Where the front end issues it: NOP and TWAIT do nothing but count and go on, FENCE (with no operation outstanding) also
empties the hazard records, END stops issue, GETF copies EF, CLRF clears the bits of s[FA], RDCNT reads the instructions counted
or, with a budget, those left; BR goes to PC + 8 x OFF22 where its condition holds and on where not, JAL links and jumps, JR
jumps to s[FA], and LOOP falls through on zero, else decrements and branches. TRAP reports IMM25 as a software trap, and a
context that has reached its budget is stopped with code 0x20. -/
def Obligations.ControlFlow : Prop :=
  ∀ (e : EngineId) (s : State) (c : Nat) (x : Ctx) (b : W64),
    let w := b.toNat
    let next (y : Ctx) (pc : Nat) : Host.Outcome State Fault Refusal := issuedTo s c y b pc
    let fa := x.sreg (iFa w)
    let bra (cond : Bool) (plan : State → Ctx → Iw → Plan) : Prop :=
      Issues s e 0x40 .front plan c x b → exec (.br e) s = next x (if cond then x.rel (iOff22 w) else x.pc + 8)
    let va := x.sreg (iBa w)
    let vb := x.sreg (iBb w)
    (Issues s e 0x00 .front (fun _ => planNone) c x b → exec (.nop e) s = next x (x.pc + 8)) ∧
    (Issues s e 0xF0 .front (fun _ => planNone) c x b → exec (.twait e) s = next x (x.pc + 8)) ∧
    (Issues s e 0xF1 .front (fun _ => planNone) c x b → x.ops = [] →
      exec (.fence e) s = next { x with regHaz := [], sramHaz := [] } (x.pc + 8)) ∧
    (runningOn s e.val = some (c, x) → x.ops ≠ [] → exec (.fence e) s = .next s) ∧
    (Issues s e 0x01 .front (fun _ => planNone) c x b → exec (.endProg e) s = next { x with ended := true } (x.pc + 8)) ∧
    (Issues s e 0x03 .front (fun _ => planSd (fun w => bits w 0 30 = 0)) c x b →
      exec (.getf e) s = next (x.setS (iFd w) (x.ef.zeroExtend 64)) (x.pc + 8)) ∧
    (Issues s e 0x04 .front (fun _ _ w => Plan.front (zeroF [iFd w, iFb w, iFc w, iFn w]) (useS (iFa w) false)) c x b →
      exec (.clrf e) s = next { x with ef := x.ef &&& ~~~(fa.truncate 5) } (x.pc + 8)) ∧
    (Issues s e 0x05 .front (fun _ => planSd (fun w => zeroF [iFa w, iFb w, iFc w] && iFn w ≤ 1)) c x b →
      (iFn w = 0 → exec (.rdcnt e) s = next (x.setS (iFd w) (BitVec.ofNat 64 x.count)) (x.pc + 8)) ∧
      (iFn w = 1 → x.budget ≠ 0 →
        exec (.rdcnt e) s = next (x.setS (iFd w) (BitVec.ofNat 64 (x.budget * 2 ^ 20 - x.count))) (x.pc + 8))) ∧
    (∀ plan : State → Ctx → Iw → Plan, plan = (fun _ x w =>
        { Plan.front (iCnd w ≤ 6) (useS (iBa w) false ++ useS (iBb w) false) with addrOk := branchOk x w (brTaken x w) }) →
      (iCnd w = 0 → bra (decide (va = vb)) plan) ∧ (iCnd w = 1 → bra (decide (va ≠ vb)) plan) ∧
      (iCnd w = 2 → bra (decide (va.toInt < vb.toInt)) plan) ∧ (iCnd w = 3 → bra (decide (vb.toInt ≤ va.toInt)) plan) ∧
      (iCnd w = 4 → bra (decide (va.toNat < vb.toNat)) plan) ∧ (iCnd w = 5 → bra (decide (vb.toNat ≤ va.toNat)) plan) ∧
      (iCnd w = 6 → bra true plan)) ∧
    (Issues s e 0x41 .front (fun _ x w => { planSd (fun _ => true) x w with addrOk := x.relOk (iImm30 w) }) c x b →
      exec (.jal e) s = next (x.setS (iFd w) (BitVec.ofNat 64 (x.pc + 8))) (x.rel (iImm30 w))) ∧
    (Issues s e 0x42 .front (fun _ x w => { Plan.front (zeroF [iFd w, iFb w, iFc w, iFn w]) (useS (iFa w) false) with
        addrOk := x.inImage (opA x w) }) c x b → exec (.jr e) s = next x fa.toNat) ∧
    (Issues s e 0x43 .front (fun _ x w => { Plan.front (zeroF [iCnd w, iBb w]) (useS (iBa w) true) with
        addrOk := branchOk x w (x.sreg (iBa w) != 0) }) c x b →
      (va = 0 → exec (.loop e) s = next x (x.pc + 8)) ∧
      (va ≠ 0 → exec (.loop e) s = next (x.setS (iBa w) (va - 1)) (x.rel (iOff22 w)))) ∧
    (Issues s e 0x02 .front (fun _ _ w => Plan.front (zeroF [iFd w, iFa w]) []) c x b →
      exec (.trap e) s = .next (trapCtx s c x ⟨x.pc, 0x09, .front, bits w 0 25, 0, 0⟩)) ∧
    (runningOn s e.val = some (c, x) → x.budget ≠ 0 → x.budget * 2 ^ 20 ≤ x.count →
      exec (.budgetReached e) s = .next (trapCtx s c x ⟨x.pc, 0x20, .front, 0, 0, 0⟩))

/-- Where the front end issues an instruction of the vector, matrix, expansion, LUT, selection, reduction or DMA unit, the
context counts it, moves the PC by 8, and holds it last among its operations with the registers read at issue and the records of
the registers and SRAM ranges it touches; the rest of the state stays. MOPEN, MMUL, MCLOSE and MDROP also change the open tile
that the front end keeps, LDIST waits until its own wait set is met, AADDT carries its tile's descriptor, a DCPY of length 0 and
a live WINDEC are complete at once where their wait set is met, and WINDEC marks its windows and records a write of each. -/
def Obligations.UnitInstructionsQueue : Prop :=
  ∀ (e : EngineId) (s : State) (c : Nat) (x : Ctx) (b : W64),
    let put (y : Ctx) : Host.Outcome State Fault Refusal := .next (s.setCtx c (some y))
    let queue (c : Nat) (x : Ctx) (u : OcUnit) (b : W64) (p : Plan) : Host.Outcome State Fault Refusal :=
      .next (s.setCtx c (some (x.queued u b p)))
    (Issues s e 0x50 .vector planVarith c x b → exec (.varith e) s = queue c x .vector b (planVarith s x b.toNat)) ∧
    (Issues s e 0x51 .vector planVcmp c x b → exec (.vcmp e) s = queue c x .vector b (planVcmp s x b.toNat)) ∧
    (Issues s e 0x52 .vector planVsel c x b → exec (.vsel e) s = queue c x .vector b (planVsel s x b.toNat)) ∧
    (Issues s e 0x53 .vector planVcvt c x b → exec (.vcvt e) s = queue c x .vector b (planVcvt s x b.toNat)) ∧
    (Issues s e 0x54 .vector planVperm c x b → exec (.vperm e) s = queue c x .vector b (planVperm s x b.toNat)) ∧
    (Issues s e 0x55 .vector planVbcast c x b → exec (.vbcast e) s = queue c x .vector b (planVbcast s x b.toNat)) ∧
    (Issues s e 0x56 .vector planVext c x b → exec (.vext e) s = queue c x .vector b (planVext s x b.toNat)) ∧
    (Issues s e 0x57 .vector planVsrnd c x b → exec (.vsrnd e) s = queue c x .vector b (planVsrnd s x b.toNat)) ∧
    (Issues s e 0x60 .vector planVld c x b → exec (.vld e) s = queue c x .vector b (planVld s x b.toNat)) ∧
    (Issues s e 0x61 .vector planVst c x b → exec (.vst e) s = queue c x .vector b (planVst s x b.toNat)) ∧
    (Issues s e 0x62 .vector planPlogic c x b → exec (.plogic e) s = queue c x .vector b (planPlogic s x b.toNat)) ∧
    (Issues s e 0x63 .vector planPset c x b → exec (.pset e) s = queue c x .vector b (planPset s x b.toNat)) ∧
    (Issues s e 0x64 .vector planPcnt c x b → exec (.pcnt e) s = queue c x .vector b (planPcnt s x b.toNat)) ∧
    (Issues s e 0x80 .expansion planXpnd c x b → exec (.xpnd e) s = queue c x .expansion b (planXpnd s x b.toNat)) ∧
    (Issues s e 0x91 .lut planLbound c x b → exec (.lbound e) s = queue c x .lut b (planLbound s x b.toNat)) ∧
    (Issues s e 0xA0 .selection planThrc c x b → exec (.thrc e) s = queue c x .selection b (planThrc s x b.toNat)) ∧
    (Issues s e 0xA1 .selection planTopk c x b → exec (.topk e) s = queue c x .selection b (planTopk s x b.toNat)) ∧
    (Issues s e 0xB0 .reduction planRsum c x b → exec (.rsum e) s = queue c x .reduction b (planRsum s x b.toNat)) ∧
    (Issues s e 0xB1 .reduction planRmv c x b → exec (.rmv e) s = queue c x .reduction b (planRmv s x b.toNat)) ∧
    (Issues s e 0xB2 .reduction planRmaxsum c x b → exec (.rmaxsum e) s = queue c x .reduction b (planRmaxsum s x b.toNat)) ∧
    (Issues s e 0x74 .matrix planMacc c x b → exec (.macc e) s = queue c x .matrix b (planMacc s x b.toNat)) ∧
    (Issues s e 0xC0 .dma planDld c x b → exec (.dld e) s = queue c x .dma b (planDld s x b.toNat)) ∧
    (Issues s e 0xC1 .dma planDst c x b → exec (.dst e) s = queue c x .dma b (planDst s x b.toNat)) ∧
    (Issues s e 0xD0 .dma planAmo c x b → exec (.amo e) s = queue c x .dma b (planAmo s x b.toNat)) ∧
    (Issues s e 0xE0 .dma planWvx c x b → exec (.wvx e) s = queue c x .dma b (planWvx s x b.toNat)) ∧
    (Issues s e 0xE1 .dma planSfence c x b → exec (.sfence e) s = queue c x .dma b (planSfence s x b.toNat)) ∧
    (Issues s e 0x90 .lut planLdist c x b → waitMet x.ops b.toNat = true → exec (.ldist e) s = queue c x .lut b (planLdist s x b.toNat)) ∧
    (Issues s e 0x70 .matrix planMopen c x b →
      exec (.mopen e) s = put (openAt (x.queued .matrix b (planMopen s x b.toNat)) b.toNat)) ∧
    (Issues s e 0x71 .matrix planMmul c x b →
      exec (.mmul e) s = put (noteMmul (x.queued .matrix b (planMmul s x b.toNat)) b.toNat)) ∧
    (Issues s e 0x72 .matrix planMclose c x b →
      exec (.mclose e) s = put { x.queued .matrix b (planMclose s x b.toNat) with mat := none }) ∧
    (Issues s e 0x73 .matrix planMdrop c x b →
      exec (.mdrop e) s = put { x.queued .matrix b (planMdrop s x b.toNat) with mat := none }) ∧
    (Issues s e 0xC2 .dma planDcpy c x b →
      (x.sreg (iFb b.toNat) ≠ 0 → exec (.dcpy e) s = queue c x .dma b (planDcpy s x b.toNat)) ∧
      (x.sreg (iFb b.toNat) = 0 → x.ops = [] →
        exec (.dcpy e) s = put { x.queued .dma b (planDcpy s x b.toNat) with ops := [] })) ∧
    (Issues s e 0xD1 .dma planAaddt c x b → ∃ y, exec (.aaddt e) s = put y ∧
      y = { x.queued .dma b (planAaddt s x b.toNat) with
        ops := x.ops ++ [{ capture x .dma b.toNat with td := x.treg (iFc b.toNat) }] }) ∧
    (Issues s e 0xF2 .dma planWindec c x b → bit b.toNat 0 = false →
      exec (.windec e) s = put { x.queued .dma b (planWindec s x b.toNat) with
        live := x.live &&& ~~~((x.sreg (iFa b.toNat)).truncate 48)
        sramHaz := (x.clearWaited b.toNat).sramHaz ++
          ((List.range 48).filter (((x.sreg (iFa b.toNat)).truncate 48 : BitVec 48).getLsbD ·)).map (fun i =>
            ⟨.dma, i * windowSize, i * windowSize + windowSize, true, iTok b.toNat⟩) })

/-- When the first operation of the vector unit, with its waits met, is a PLOGIC, OP_COMPLETE writes p[FD] with the logic of its
SUB and the operation leaves the queue; a PSET of a type of the vector unit sets exactly the lane bits of the first min(s[FA],
n) elements and clears the rest; a PCNT writes into s[FD] how many of the n elements have their governing bit set. Nothing else
of the state changes. -/
def Obligations.PredicateOperations : Prop :=
  ∀ (e : EngineId) (s : State) (c : Nat) (x : Ctx) (o : Op), activeOn s e.val = some (c, x) → frontOp x .vector = some o →
    o.unit = .vector →
    let w := o.word.toNat
    let put (y : Ctx) : Host.Outcome State Fault Refusal :=
      .next (s.setCtx c (some { y with ops := x.ops.filter (fun p => p.seq ≠ o.seq) }))
    let a := x.preg (iFa w)
    let b := x.preg (iFb w)
    let n := 2048 / tyW (iTy w)
    (iOp w = 0x62 →
      (iSub w = 0 → exec (.opComplete e .vector) s = put (x.setP (iFd w) (a &&& b))) ∧
      (iSub w = 1 → exec (.opComplete e .vector) s = put (x.setP (iFd w) (a ||| b))) ∧
      (iSub w = 2 → exec (.opComplete e .vector) s = put (x.setP (iFd w) (a ^^^ b))) ∧
      (iSub w = 3 → exec (.opComplete e .vector) s = put (x.setP (iFd w) (a &&& ~~~b))) ∧
      (iSub w = 4 → exec (.opComplete e .vector) s = put (x.setP (iFd w) (~~~a)))) ∧
    (iOp w = 0x63 → vecType (iTy w) = true → ∃ v : BitVec 256, exec (.opComplete e .vector) s = put (x.setP (iFd w) v) ∧
      ∀ i, i < 256 → v.getLsbD i = decide (i < min o.sa.toNat n * (tyW (iTy w) / 8))) ∧
    (iOp w = 0x64 → vecType (iTy w) = true → exec (.opComplete e .vector) s = put (x.setS (iFd w) (BitVec.ofNat 64
      ((List.range n).filter (fun i => a.getLsbD (i * (tyW (iTy w) / 8)))).length)))

/-- The first operation of a unit other than the DMA unit, with its waits met, has the effect of its opcode on the context's
registers, SRAM and flags and leaves the queue; nothing outside the context changes. A DMA operation that runs to its end leaves
the queue with the memory it moved; one that waits for an answer stays with its progress; at a page or a fault OP_COMPLETE does
nothing. An execution fault at the DMA operation traps the context at the operation's PC with the code and address met and the
progress kept, and an uncorrectable word met by the front end traps it at the PC with code 0x0A. -/
def Obligations.OperationsComplete : Prop :=
  (∀ (e : EngineId) (u : OcUnit) (s : State) (c : Nat) (x : Ctx) (o : Op), activeOn s e.val = some (c, x) → frontOp x u = some o →
    (o.unit ≠ .dma → exec (.opComplete e u) s = .next (s.setCtx c (some ((doOp x o).done o)))) ∧
    (o.unit = .dma →
      ((dmaRun s x o).stop = none →
        exec (.opComplete e u) s = .next ((dmaRun s x o).s.setCtx c (some ((dmaRun s x o).x.done o)))) ∧
      ((dmaRun s x o).stop = some .wait →
        exec (.opComplete e u) s = .next ((dmaRun s x o).s.setCtx c (some ((dmaRun s x o).x.progress o (dmaRun s x o).off)))) ∧
      ∀ va w code, (dmaRun s x o).stop = some (.page va w) ∨ (dmaRun s x o).stop = some (.fault code va) →
        exec (.opComplete e u) s = .next s)) ∧
  (∀ (e : EngineId) (s : State) (c : Nat) (x : Ctx) (o : Op) (code va : Nat), activeOn s e.val = some (c, x) →
    frontDma x = some o → (dmaRun s x o).stop = some (.fault code va) →
    ∃ n, exec (.executionFault e .transfer) s = .next (trapCtx { (dmaRun s x o).s with freeCtr := (dmaRun s x o).s.freeCtr + 1 } c
      ((dmaRun s x o).x.progress o (dmaRun s x o).off)
      ⟨o.pc, code, o.unit, n, if 0x10 ≤ code ∧ code ≤ 0x13 then va else 0, (dmaRun s x o).off⟩)) ∧
  ∀ (e : EngineId) (s : State) (c : Nat) (x : Ctx), activeOn s e.val = some (c, x) → x.ended = false →
    exec (.executionFault e (.uncorrectable .front)) s = .next (trapCtx s c x ⟨x.pc, 0x0A, .front, 0, 0, 0⟩)

/-- Where the scheduler is not stopped: the first requested work of a class (a saved context that may run, a test that is not
paused, and any stage, an update's outgoing contexts before all other), where it can start on the engine and no more urgent work
could, is taken off the list and starts; without any, nothing changes; a saved context that is the next of its class is restored
so. The one engine that R396 chooses for starved work is saved, the wait for the save counted (a free value, log 17), and with
none starved nothing changes. A MAINT context trapped for 10 s ends with CONTEXT_ENDED, a younger one stays. A stage's end: a
batch whose vectors R72 takes goes on to staging, one with a vector it rejects is given up with BAD_CMD; a standard LUT whose
query cannot be prepared ends its command with BAD_CMD; a program that has ended with operations outstanding waits, one of MAINT
ends with its context, and a stage whose s1 is 1 or another non-zero value ends its command with BAD_CMD or FAULT. -/
def Obligations.EngineWorkGoesOn : Prop :=
  (∀ s : State, unitStopped s 3 = false →
    (∀ (k : Fin 4) (e : EngineId),
      (nextWork s k.val = none → exec (.workStart k e) s = .next s) ∧
      ∀ w, nextWork s k.val = some w →
        (mayStart s w e.val = false ∨ urgentFirst s w e.val = false → exec (.workStart k e) s = .next s) ∧
        (mayStart s w e.val = true → urgentFirst s w e.val = true → exec (.workStart k e) s = .next (startWork s w e.val) ∧
          ∀ c n rest, w.work = .encode n → takeFirst (· = w) s.eng.work = some (w, rest) → s.cmd n = some c →
            exec (.workStart k e) s = .next ((({ s with eng.work := rest }).modEngine e.val (fun g => { g with
              work := .encode n, fault := 0, req := w.req })).setCmd { c with phase := .encoding }))) ∧
    (∀ (c : ContextId) (e : EngineId) (w : Work), s.eng.work.find? (fun w => w.work = .context c.val) = some w →
      nextWork s w.cls = some w → mayStart s w e.val = true → urgentFirst s w e.val = true →
      exec (.contextRestore c e) s = .next (startWork s w e.val)) ∧
    (∀ (c : ContextId) (e : EngineId), s.eng.work.find? (fun w => w.work = .context c.val) = none →
      exec (.contextRestore c e) s = .next s) ∧
    (∀ e : EngineId, (starved s = none → exec (.preempt e) s = .next s) ∧
      ∀ w, starved s = some w →
        exec (.preempt e) s = .next (if (victims s ((List.range 48).filter (preemptible s w))).head? = some e.val then
          saveEncode (waitSave s) e.val else s)) ∧
    ∀ (c : ContextId) (x : Ctx) (q since : Nat), s.ctx c.val = some x → x.st = .trapped since → x.owner = .maint q →
      (since + 10 ≤ s.secs → exec (.contextTimeout c) s =
        .next (postQ (endContext s c.val) q [eventBytes 0x0012 srcSched q c.val 2 0])) ∧
      (s.secs < since + 10 → exec (.contextTimeout c) s = .next s)) ∧
  ∀ (e : EngineId) (s : State),
    let idle := s.modEngine e.val (fun g => { g with work := .idle })
    ((s.engine e.val).work = .idle → exec (.stageEnd e) s = .next s) ∧
    (∀ k c j, (s.engine e.val).work = .encode k → s.cmd k = some c → c.job = .batch j →
      let bad := (s.coll j.cid.toNat).any (fun k => j.recs.any (fun r => (prepared k.params r.vec).isNone))
      exec (.stageEnd e) s = .next (if bad then fail (unstage idle j) c stBadCmd else idle.setCmd { c with phase := .staging })) ∧
    (∀ k c j, (s.engine e.val).work = .lutStd k → s.cmd k = some c → c.job = .search j →
      prepareQuery j.ctx.params.metric j.queryF = none → exec (.stageEnd e) s = .next (dropCmd idle c stBadCmd)) ∧
    ∀ n x, (s.engine e.val).work = .context n → s.ctx n = some x → x.st = .running e.val → x.ended = true →
      (x.ops ≠ [] → exec (.stageEnd e) s = .next s) ∧
      (∀ q, x.ops = [] → x.owner = .maint q → exec (.stageEnd e) s = .next (endContext s n)) ∧
      ∀ k st c j, x.ops = [] → x.owner = .stage k st → s.cmd k = some c → c.job = .search j → x.sreg 1 ≠ 0 →
        exec (.stageEnd e) s = .next (dropCmd (endContext s n) c (if x.sreg 1 = 1 then stBadCmd else stFault))

/-- Where the MMU is not stopped: the first operation of the DMA unit that meets an absent page is suspended at its offset, and
the page keeps its frame or takes the lowest free one (log 31, the model's choice); with nothing missing nothing changes. The
frame of a suspended page that is not being written out, taken now where it has none, is filled, the page is resident and
accessed, dirty where the operation writes, and PAGEINS counts; a resident page is left alone, and one whose backing units are
lost stays absent. A running program whose page-in outlasts PREEMPT_US is saved, the wait for the save counted. While frames are
wanted, the sweep clears A of a paged, resident, unpinned page, releases it where it is clean and unaccessed, and starts its
write-out where it is dirty; with no frame wanted, or for a pinned page, nothing changes. The program of a dirty page at units
of open rows, with room in the backing store, keeps its bytes there in place of an older copy, counts, and releases the frame,
or, where a page-in waits for it, maps it again without reading flash. -/
def Obligations.PagesComeAndGo : Prop :=
  ∀ s : State, unitStopped s 4 = false →
    (∀ (e : EngineId) (n : Nat) (x : Ctx), (s.engine e.val).work = .context n → s.ctx n = some x →
      (missingPage s x = none → exec (.pageIn e) s = .next s) ∧
      ∀ o r va wr p, missingPage s x = some (o, r, va, wr) → r.x.pageOf va = some p →
        let y : Ctx := { r.x.progress o r.off with pageAt := some p.va }
        (p.frame ≠ none → exec (.pageIn e) s = .next (r.s.setCtx n (some y))) ∧
        ∀ f, p.frame = none → findFrame r.s [] p.size = some f →
          exec (.pageIn e) s = .next (r.s.setCtx n (some (y.setPage p.va (fun p => { p with frame := some f }))))) ∧
    (∀ (e : EngineId), (s.engine e.val).work = .idle → exec (.pageIn e) s = .next s) ∧
    ∀ (c : ContextId) (x : Ctx), s.ctx c.val = some x →
      (∀ p f, x.pageAt.bind x.pageOf = some p → p.frame.orElse (fun _ => findFrame s [] p.size) = some f →
        (p.res = true ∨ p.writing = true → exec (.pageInDone c) s = .next s) ∧
        (p.res = false → p.writing = false →
          let wr := (missingPage s x).any (fun m => m.2.2.2)
          let r := readBacking s x.isSealed p
          (backingGone r p = true → exec (.pageInDone c) s = .next r) ∧
          (backingGone r p = false →
          let t := fillFrame r f p.size (if p.backed then Tab.get [] r.flash.backing p.fla.toNat else [])
          let y := (x.setPage p.va (fun p => { p with frame := some f })).setPage p.va (fun p => { p with
            res := true, a := true, d := p.d || wr })
          exec (.pageInDone c) s = .next { t.setCtx c.val (some { y with
            pageAt := none, st := if x.st = .pageWait then .saved else x.st }) with eng.pageins := satAdd 16 t.eng.pageins 1 }))) ∧
      (∀ e va, x.st = .running e → x.pageAt = some va → exec (.pageinPreempt c) s = .next (saveContext (waitSave s) e)) ∧
      (x.pageAt = none → exec (.pageinPreempt c) s = .next s) ∧
      ∀ (va : BitVec 48) (p : Page), x.pageOf va.toNat = some p →
        (p.kind ≠ 0 ∨ p.res = false ∨ p.pin = true ∨ framesWanted s = false → exec (.eviction c va) s = .next s) ∧
        (p.kind = 0 → p.res = true → p.pin = false → framesWanted s = true →
          let put (f : Page → Page) : Host.Outcome State Fault Refusal := .next (s.setCtx c.val (some (x.setPage p.va f)))
          (p.a = true → exec (.eviction c va) s = put (fun p => { p with a := false })) ∧
          (p.a = false → p.d = true → exec (.eviction c va) s = put (fun p => { p with res := false, d := false, writing := true })) ∧
          (p.a = false → p.d = false → exec (.eviction c va) s = put (fun p => { p with res := false, frame := none }))) ∧
        ∀ (fla : BitVec 40) f, p.frame = some f →
          let room : Prop := p.backed = true ∨ s.flash.backingBytes + p.size ≤ s.flash.engback * 256000000000
          (p.writing = false ∨ ¬ room ∨ runFree s fla.toNat (p.size / 4096) = false →
            exec (.evictionWriteDone c va fla) s = .next s) ∧
          (p.writing = true → room → runFree s fla.toNat (p.size / 4096) = true →
            let u := claimRows s fla.toNat (p.size / 4096)
            let held := if p.backed then Tab.set [] s.flash.backing p.fla.toNat [] else s.flash.backing
            let t := { u with
              flash.backing := Tab.set [] held fla.toNat (frameBytes u f p.size)
              flash.backingBytes := if p.backed then u.flash.backingBytes else u.flash.backingBytes + p.size
              eng.evicts := satAdd 16 u.eng.evicts 1 }
            let kept (frame : Option Nat) : Ctx := x.setPage p.va (fun k => { k with
              writing := false, wanted := false, backed := true, fla := fla, frame := frame })
            (x.pageAt ≠ some p.va → p.wanted = false →
              exec (.evictionWriteDone c va fla) s = .next (t.setCtx c.val (some (kept none)))) ∧
            (x.pageAt = some p.va ∨ p.wanted = true →
              exec (.evictionWriteDone c va fla) s = .next (remapPage t c.val (x.setPage p.va (fun k => { k with
                writing := false, wanted := false, backed := true, fla := fla, frame := k.frame })) p
                  ((missingPage u x).any (fun m => m.2.2.2)))))

/-- For an access that goes out and touches no command window: one at a CSR address (log 35, the model's reading), one of PCIe
outside BAR2 or with the link not up, and one of a core while its scan fence is pending at a pseudo-channel it reaches do
nothing. On an access error a read or a write is denied, the error counted and logged, and nothing else changes. A write without
one is answered, and in a memory in canonical form, with the places of the access apart, every place of it reads the byte
written and every other place reads as before; beside memory, only marks of poison, the sectors' tags, the controllers' counts
and logs, the count of buffered writes and, for the allocator, the records of a block whose rows it writes may change. A clean
read with no sector poisoned, the tags of its sectors the region's and the controllers' table in canonical form answers the
bytes that stand there (for the allocator, a block's rows as the block holds them, log 3) and changes nothing else. A one-byte
read of a PROT sector answers and counts a corrected symbol; on two symbols, a tag mismatch (whether found by the check or
standing in the sector) or poison it is denied, counted and logged. An atomic at an aligned address with an operation its type
has answers the old value and writes the new; at a place of a bank in scan mode it is an access error. -/
def Obligations.MemoryKeepsItsBytes : Prop :=
  (∀ (r : Requester) (c : CoreId) (a : Dpa) (n : Nat) (bs : List Byte) (f : Finding) (ty : Fin 4) (op : Fin 8) (x cmp : W64) (s : State),
    let away (n : Nat) : Prop := (0x10000000000 ≤ a.toNat ∧ a.toNat < 0x10010000000) ∨
      (r.val = 6 ∧ (s.links.pcieUp = false ∨ a.toNat < 0xC000000000 ∨ 0x10000000000 < a.toNat + n)) ∨
      (r.val = 0 ∧ ∃ i, i < n ∧ ∃ p tag hide, find s 0 (a.toNat + i) = .data p tag hide ∧
        (Tab.get 0#32 (s.ctl (stackOf p)).pending c.val).getLsbD (pcOf p) = true)
    (away n → exec (.memoryRead ⟨r, c⟩ a n f) s = .next s) ∧ (away bs.length → exec (.memoryWrite ⟨r, c⟩ a bs f) s = .next s) ∧
      (away (amoBytes ty.val) → exec (.memoryAtomic ⟨r, c⟩ a ty op x cmp) s = .next s)) ∧
  ∀ (r : Requester) (c : CoreId) (a : Dpa) (s : State), windowAt s a.toNat = none →
    let goes (n : Nat) : Prop := reaches s ⟨r, c⟩ a.toNat n = true
    let shown (t : State) (bs : List Byte) : Rsp :=
      .bytes (if r.val = 3 ∧ isPlace a.toNat = true then readRows t a.toNat bs else bs)
    (∀ n f e, goes n → firstError s r.val a.toNat n = some e →
      exec (.memoryRead ⟨r, c⟩ a n f) s = .next { accessError s r.val e.2.1 e.1 e.2.2 with rsp := .denied }) ∧
    (∀ (bs : List Byte) f e, goes bs.length → winPart s a.toNat bs.length = none → firstError s r.val a.toNat bs.length = some e →
      exec (.memoryWrite ⟨r, c⟩ a bs f) s = .next { accessError s r.val e.2.1 e.1 e.2.2 with rsp := .denied }) ∧
    (∀ (bs : List Byte) (f : Finding), goes bs.length → winPart s a.toNat bs.length = none → firstError s r.val a.toNat bs.length = none →
      Memory.wf s = true →
      let ps := (placesOf s r.val a.toNat bs.length).map (·.1)
      ∃ t, exec (.memoryWrite ⟨r, c⟩ a bs f) s = .next t ∧ t.rsp = .none ∧ keepsBut s t [.rsp, .hbm, .corpus] ∧
        (r.val ≠ 3 → t.corpus = s.corpus) ∧ Memory.wf t = true ∧
        (∀ p, p ∉ ps → t.byte p = s.byte p) ∧ (ps.Nodup → ps.map t.byte = bs) ∧ t.hbm.regions = s.hbm.regions) ∧
    (∀ n, goes n → winPart s a.toNat n = none → firstError s r.val a.toNat n = none → s.hbm.poisoned = [] →
      Tab.wf Stack.initial s.hbm.ctls = true → (∀ q ∈ placesOf s r.val a.toNat n, tagOk s q.1 q.2.1 = true) →
      exec (.memoryRead ⟨r, c⟩ a n .clean) s =
        .next { s with rsp := shown s ((placesOf s r.val a.toNat n).map (fun p => s.byte p.1)) }) ∧
    (∀ p tag hide, goes 1 → find s r.val a.toNat = .data p (some tag) hide →
      let ctl := s.modCtl (stackOf p)
      (s.hbm.poisoned.contains (p / 32) = false →
        (tagOk s p (some tag) = true → exec (.memoryRead ⟨r, c⟩ a 1 .oneSymbol) s = .next { ctl (fun c => { c with ce := satAdd 16 c.ce 1 }) with
          rsp := shown (ctl (fun c => { c with ce := satAdd 16 c.ce 1 })) [s.byte p] }) ∧
        exec (.memoryRead ⟨r, c⟩ a 1 .twoSymbols) s = .next { (ctl (fun c => { c with ue := satAdd 8 c.ue 1 })).modCtl (stackOf p)
          (fun c => c.logged r.val 1 p hide) with rsp := .denied } ∧
        ∀ f, f = .tagMismatch ∨ (tagOk s p (some tag) = false ∧ f ≠ .twoSymbols) → exec (.memoryRead ⟨r, c⟩ a 1 f) s = .next { (ctl (fun c => { c with mis := satAdd 8 c.mis 1 })).modCtl (stackOf p)
          (fun c => c.logged r.val 2 p hide) with rsp := .denied }) ∧
      (s.hbm.poisoned.contains (p / 32) = true → ∀ f, exec (.memoryRead ⟨r, c⟩ a 1 f) s =
        .next { ctl (fun c => { c with poison := satAdd 6 c.poison 1 }.logged r.val 3 p hide) with rsp := .denied })) ∧
    ∀ (ty : Fin 4) (op : Fin 8) (x cmp : W64) (u t : State) (bs : List Byte),
      let n := amoBytes ty.val
      let v := atomicOp (amoTy ty.val) op.val (ofLe bs) (x.toNat % 2 ^ (8 * n)) (cmp.toNat % 2 ^ (8 * n))
      (a.toNat % n ≠ 0 ∨ amoOk ty.val op.val = false → exec (.memoryAtomic ⟨r, c⟩ a ty op x cmp) s = .next s) ∧
      let rows : Prop := isPlace a.toNat = true ∧ inScanMode s a.toNat = true
      (goes n → a.toNat % n = 0 → amoOk ty.val op.val = true → rows → exec (.memoryAtomic ⟨r, c⟩ a ty op x cmp) s =
        .next { accessError s r.val (some (stackOf a.toNat)) a.toNat (sealedPlace s a.toNat) with rsp := .denied }) ∧
      (goes n → a.toNat % n = 0 → amoOk ty.val op.val = true → ¬ rows → s.read r.val a.toNat n .clean = (u, some bs) →
        u.write r.val a.toNat (leBytes n v.bits) .clean = (t, true) →
        exec (.memoryAtomic ⟨r, c⟩ a ty op x cmp) s = .next { t with rsp := .value (BitVec.ofNat 64 (ofLe bs)) })

/-- A pseudo-channel with 32 buffered line writes or more drains them, one with fewer does not (what counts: log 36). A refresh
is postponed only in scan mode and up to 4 times, and else catches up. A patrol scrub passes over what is no PROT sector of a
region or of a fixed reserve, and over stacks out of service; of such a sector it counts what it finds, and logs what is
uncorrectable or poisoned under a class that no rule gives (log 5). Banks take a new mask in the parts of Table 10.7 (log 30),
each only where its step may run: the change is asked and what no longer fits is marked; the changing banks are zeroed with the
records on their rows; last the banks and the mode change, a leaving Weevil's accepted commands done first. Outside Vigil a
core's SCAN_FENCE sets its pending bit, and its completion clears it. A plain stack that stops answering stops service; a
retired one changes nothing. -/
def Obligations.ControllersGoOn : Prop :=
  ∀ s : State,
    (∀ p : PchId,
      ((s.pch p.val).wbuf < 32 → exec (.writeBufferDrain p) s = .next s) ∧
      (32 ≤ (s.pch p.val).wbuf → exec (.writeBufferDrain p) s = .next (s.modPch p.val (fun c => { c with wbuf := 0 }))) ∧
      ((s.pch p.val).scan = true → (s.pch p.val).postponed < 4 → exec (.refresh p true) s =
        .next (s.modPch p.val (fun x => { x with postponed := (s.pch p.val).postponed + 1 }))) ∧
      (∀ b, b = false ∨ (s.pch p.val).scan = false ∨ 4 ≤ (s.pch p.val).postponed →
        exec (.refresh p b) s = .next (s.modPch p.val (fun x => { x with postponed := 0 }))) ∧
      (let h := s.pch p.val
       let m := h.nextBanks
       (∀ n, h.pendingChange = true ∨ modeChangeOk s p.val n = false → exec (.bankModeChange p (.confirm n)) s = .next s) ∧
       (∀ n, h.pendingChange = false → modeChangeOk s p.val n = true →
         let t := s.modPch p.val (fun c => { c with pendingChange := true, nextBanks := n })
         exec (.bankModeChange p (.confirm n)) s = .next (fitScan (outOrder t) t)) ∧
       (h.pendingChange = false ∨ modeChangeOk s p.val m = false →
         exec (.bankModeChange p .zero) s = .next s ∧ exec (.bankModeChange p .finish) s = .next s) ∧
       (h.pendingChange = true → modeChangeOk s p.val m = true →
         (h.zeroing = true → exec (.bankModeChange p .zero) s = .next s) ∧
         (h.zeroing = false → exec (.bankModeChange p .finish) s = .next s ∧
           exec (.bankModeChange p .zero) s = .next ((dropZeroed (zeroBanks s p.val (h.banks ^^^ m)) p.val (h.banks ^^^ m)).modPch p.val
             (fun c => { c with zeroing := true }))) ∧
         (h.zeroing = true → m = 0 → (s.weevil p.val).accepted ≠ [] → exec (.bankModeChange p .finish) s = .next s) ∧
         (h.zeroing = true → m ≠ 0 → exec (.bankModeChange p .finish) s = .next (refitColls (s.modPch p.val (fun c => { c with
           banks := m, scan := true, pendingChange := false, zeroing := false })))))) ∧
      (∀ c : CoreId, exec (.scanFenceDone (.core c) p) s = .next (s.modCtl (p.val / 32) (fun x => { x with
        pending := Tab.mod 0#32 x.pending c.val (fun m => m &&& ~~~(1#32 <<< (p.val % 32))) }))) ∧
      ∀ e : EngineId, exec (.scanFenceDone (.engine e) p) s = .next (s.modCtl (p.val / 32) (fun x => { x with
        engFence := Tab.mod 0#32 x.engFence e.val (fun m => m &&& ~~~(1#32 <<< (p.val % 32))) }))) ∧
    (∀ (c : CoreId) (st : StackId) (v : W64), awake s → exec (.hbmcSfence c st v) s = .next (s.modCtl st.val (fun x => { x with
      pending := Tab.mod 0#32 x.pending c.val (fun m => m ||| (1#32 <<< (v.toNat % 32))) }))) ∧
    (∀ (a : Dpa) (f : Finding), protSector s a.toNat = none → exec (.patrolScrub a f) s = .next s) ∧
    (∀ (a : Dpa) (p : Nat) (tag : Byte) (hide : Bool), protSector s a.toNat = some (p, tag, hide) →
      let st := stackOf p
      let t := s.draw.2
      (∀ f, (s.ctl st).retired = true ∨ (s.ctl st).answering = false → exec (.patrolScrub a f) s = .next s) ∧
      ((s.ctl st).retired = false → (s.ctl st).answering = true →
        (s.hbm.poisoned.contains (p / 32) = false →
          (tagOk s p (some tag) = true →
            exec (.patrolScrub a .oneSymbol) s = .next (s.modCtl st (fun c => { c with ce := satAdd 16 c.ce 1 }))) ∧
          exec (.patrolScrub a .twoSymbols) s = .next ((t.modCtl st (fun c => { c with ue := satAdd 8 c.ue 1 })).modCtl st
            (fun c => c.logged (s.draw.1 % 16) 1 p hide))) ∧
        (∀ f, s.hbm.poisoned.contains (p / 32) = true → exec (.patrolScrub a f) s = .next (t.modCtl st (fun c =>
          { c with poison := satAdd 6 c.poison 1 }.logged (s.draw.1 % 16) 3 p hide))))) ∧
    ∀ st : StackId,
      ((s.ctl st.val).retired = true → exec (.stackStopsAnswering st) s = .next s) ∧
      ((s.ctl st.val).retired = false → 8 ≤ st.val → exec (.stackStopsAnswering st) s =
        .next { s.modCtl st.val (fun x => { x with answering := false }) with hbm.serviceStopped := true, mod.accepting := false })

/-- With a request of the type in hand and no Syeno hand-over: GET_IDENTITY with no body answers key, module ID and certificate;
ATTEST of a 32-byte nonce uses the next signature index, reserving more when it is the first unreserved, and answers the report
and its signature, or FAULT once the identity seed is erased; CHALLENGE answers the DRBG's next 32 bytes and keeps them with the
time; AUDIT_READ of a number answers up to 1,024 entries from it on; EXTEND of MR10-MR13 extends and logs it, and answers its
value. A body of another length, and another register, are BAD_CMD with no other effect. With no request, a request of another
type or one that its form refuses (it is answered so already, or once the hand-over ends), or a hand-over under way, each
changes nothing. -/
def Obligations.WardenAnswers : Prop :=
  ∀ s : State,
    (∀ e ∈ [(0x01, Instr.getIdentity), (0x02, .attest), (0x03, .challenge), (0x04, .auditRead), (0x10, .claim), (0x11, .transfer),
        (0x12, .policy), (0x14, .time), (0x20, .sessionOpen), (0x30, .debugUnlock), (0x31, .debugEnd), (0x40, .extend)],
      s.warden.request = none ∨ s.warden.handover = true ∨ (∃ r, s.warden.request = some r ∧ (r.type ≠ e.1 ∨ r.bad ≠ none)) → exec e.2 s = .next s) ∧
    ∀ r, s.warden.request = some r → r.bad = none → s.warden.handover = false →
      let b := r.body
      let ok (t : State) (out : List Byte) : Host.Outcome State Fault Refusal := .next (reply t stOk out)
      let bad : Host.Outcome State Fault Refusal := .next (reply s stBadCmd [])
      (r.type = 0x01 → (b ≠ [] → exec .getIdentity s = bad) ∧
        (b = [] → exec .getIdentity s = ok s (idKey ++ leBytes 8 modId ++ Config.identityCert))) ∧
      (r.type = 0x02 → (b.length ≠ 32 → exec .attest s = bad) ∧
        (b.length = 32 → s.warden.erased = true → exec .attest s = .next (reply s stFault [])) ∧
        (b.length = 32 → s.warden.erased = false →
          let i := s.warden.sigNext
          let t : State := { s with
            warden.sigNext := i + 1, warden.sigEnd := if i = s.warden.sigEnd then s.warden.sigEnd + 1048576 else s.warden.sigEnd }
          exec .attest s = ok t (reportBody t b i ++ padTo 5605 (Config.xmssSign (padTo 96 s.warden.idSeed) i (reportBody t b i))))) ∧
      (r.type = 0x03 → (b ≠ [] → exec .challenge s = bad) ∧
        (b = [] →
          let c := padTo 32 (Config.drbg s.warden.draws)
          exec .challenge s = ok { s with
            warden.draws := s.warden.draws + 1
            warden.challenges := s.warden.challenges ++ [(BitVec.ofNat 256 (ofLe c), s.secs)] } c)) ∧
      (r.type = 0x04 → (b.length ≠ 8 → exec .auditRead s = bad) ∧
        (b.length = 8 → exec .auditRead s =
          ok s (((s.warden.audit.filter (fun e => decide (ofLe b ≤ e.seq))).take 1024).flatMap AuditEnt.bytes))) ∧
      (r.type = 0x40 → (b.length ≠ 36 ∨ le b 0 4 < 10 ∨ 13 < le b 0 4 → exec .extend s = bad) ∧
        (b.length = 36 → 10 ≤ le b 0 4 → le b 0 4 ≤ 13 →
          let t := extendMr s (le b 0 4) (BitVec.ofNat 256 (le b 4 32))
          exec .extend s = ok (addAudit t 0x40 (Config.shake256 b)) (leBytes 32 (mrAt t (le b 0 4)).toNat)))

/-- With the request in hand and no hand-over: a CLAIM or TRANSFER too short, a POLICY not formed, a SESSION_OPEN of the wrong
form and a DEBUG_UNLOCK outside 1-86,400 s are BAD_CMD; a CLAIM of an owned module, a TRANSFER or DEBUG_UNLOCK of an unowned
one, a TIME of the wrong form, boot, module or sequence, and what the owner has not signed are DENIED, with no other effect than
a challenge used (when: log 20, the model's reading). Else CLAIM takes the key, epoch 1 and a fresh salt; TRANSFER ends every
session and destroys the sealed collections before it takes the new key and drops the policy, once CSNs allow; POLICY is in
force but for floors and regions, which wait for the boot; TIME sets the calendar and posts TIME_SET; SESSION_OPEN is BUSY under
debug and DENIED for a box that does not open; DEBUG_UNLOCK begins by ending the sealed sessions; DEBUG_END ends debug. A grant
past its time ends its session, and a lease that is over ends debug. -/
def Obligations.OwnerRequestsTakeEffect : Prop :=
  (∀ (s : State) (r : Request), s.warden.request = some r → r.bad = none → s.warden.handover = false →
    let b := r.body
    let say (t : State) (st : Nat) : Host.Outcome State Fault Refusal := .next (reply t st [])
    let key := b.take 68
    (r.type = 0x10 → (b.length < 68 → exec .claim s = say s stBadCmd) ∧
      (68 ≤ b.length → exec .claim s = match Config.claimTicket (b.drop 68) with
        | none => say s stDenied
        | some (ident, digest, sig) => match usesChallenge s key [] sig with
          | none => say s stDenied
          | some c =>
            let t := dropChallenge s c
            if s.warden.owner.isSome = true ∨ s.warden.erased = true ∨ ident.toNat ≠ moduleIdent ∨ digest ≠ Config.shake256 key then
              say t stDenied
            else say (logged { t with
              warden.draws := t.warden.draws + 1, warden.owner := some key, warden.ownerEpoch := 1
              warden.salt := ofLe (padTo 32 (Config.drbg t.warden.draws)) } 0x10 b) stOk)) ∧
    (r.type = 0x11 → (b.length < 68 → exec .transfer s = say s stBadCmd) ∧
      (68 ≤ b.length → s.warden.owner = none → exec .transfer s = say s stDenied) ∧
      ∀ k, 68 ≤ b.length → s.warden.owner = some k → exec .transfer s = match usesChallenge s k [] (b.drop 68) with
        | none => say s stDenied
        | some c => match destroySealed s (sealedCids s) with
          | none => .next s
          | some t =>
            let t := dropChallenge t c
            say (logged (endSessions { t with
              warden.draws := t.warden.draws + 1, warden.owner := some key, warden.ownerEpoch := t.warden.ownerEpoch + 1
              warden.salt := ofLe (padTo 32 (Config.drbg t.warden.draws)), warden.policy := none, warden.nextPolicy := none } 1
              (fun _ => true)) 0x11 b) stOk) ∧
    (r.type = 0x12 → (policyFormed b = false → exec .policy s = say s stBadCmd) ∧
      (policyFormed b = true → exec .policy s = if policyAuthentic s b then
          (if regionsOk s (policyOf b).regions then say (logged (acceptPolicy s (policyOf b)) 0x12 b) stOk else say s stBadCmd)
        else say s stDenied)) ∧
    (r.type = 0x14 → (b.length < 64 ∨ le b 0 4 ≠ 0x454D4954 ∨ zeroAt b 36 28 = false ∨ le b 16 8 ≠ s.life.boot ∨
        (le b 8 8 ≠ 0 ∧ le b 8 8 ≠ moduleIdent) ∨ (∃ t, s.warden.tseq = some t ∧ le b 4 4 ≤ t) → exec .time s = say s stDenied) ∧
      (64 ≤ b.length → le b 0 4 = 0x454D4954 → zeroAt b 36 28 = true → le b 16 8 = s.life.boot →
        le b 8 8 = 0 ∨ le b 8 8 = moduleIdent →
        (∀ t, s.warden.tseq = some t → t < le b 4 4) → exec .time s =
          if ownerSigned s (b.take 64) (b.drop 64) then say (postM { logged s 0x14 b with
            warden.calendar := some ⟨le b 24 8, le b 32 4, s.secs⟩, warden.tseq := some (le b 4 4) } 0x0120 srcWarden noQueue
            (le b 24 8) (le b 32 4) 0) stOk
          else say s stDenied)) ∧
    (r.type = 0x20 → (openParts b = none → exec .sessionOpen s = say s stBadCmd) ∧
      ∀ ct q box, openParts b = some (ct, q, box) →
        (s.warden.debugOpen = true ∨ unlocking s = true → exec .sessionOpen s = say s stBusy) ∧
        (s.warden.debugOpen = false → unlocking s = false →
          let ss := Config.kemDecaps s.warden.kem ct
          exec .sessionOpen s =
            match (Config.gcmOpen (padTo 32 (Config.kmac256 ss (ascii "OPEN") [] 32)) (zeros 12) [] box).bind boxParts with
            | none => say s stDenied
            | some (g, k, nonce, sig) => match openSession s ct q ss g k nonce sig with
              | none => .next s
              | some (t, st, out) => .next (reply t st out))) ∧
    (r.type = 0x30 → (b.length < 4 ∨ le b 0 4 = 0 ∨ 86400 < le b 0 4 → exec .debugUnlock s = say s stBadCmd) ∧
      (4 ≤ b.length → 1 ≤ le b 0 4 → le b 0 4 ≤ 86400 →
        (unlocking s = false → s.warden.owner = none → exec .debugUnlock s = say s stDenied) ∧
        (∀ k, unlocking s = false → s.warden.owner = some k → s.warden.debugOpen = false → exec .debugUnlock s =
          match usesChallenge s k (b.take 4) (b.drop 4) with
          | none => say s stDenied
          | some c => if policyFlag s 0 then .next (endSessions { dropChallenge s c with warden.lease := le b 0 4 } 3 (fun _ => true))
              else say (dropChallenge s c) stDenied) ∧
        (unlocking s = true → sessions s = [] →
          (s.warden.scrub = false → exec .debugUnlock s = .next { clearKeys s with warden.scrub := true }) ∧
          (s.warden.scrub = true → exec .debugUnlock s =
            say (logged (openDebug (dropSealedCtxs (scrubSealed s)) (le b 0 4)) 0x30 b) stOk)))) ∧
    (r.type = 0x31 → (b ≠ [] → exec .debugEnd s = say s stBadCmd) ∧
      (b = [] → exec .debugEnd s = say (logged (endDebug s 0) 0x31 b) stOk))) ∧
  ∀ s : State,
    (s.warden.debugOpen = false ∨ s.secs < s.warden.lease → exec .debugLeaseExpiry s = .next s) ∧
    (s.warden.debugOpen = true → s.warden.lease ≤ s.secs → exec .debugLeaseExpiry s = .next (endDebug s 1)) ∧
    ∀ (k : Fin 4095) (x : Session) (w u : Nat), s.session k.val = some x → wallNow s = some (w, u) →
      (x.notAfter = 2 ^ 64 - 1 ∨ w + u ≤ x.notAfter ∨ x.ending.isSome = true → exec (.grantExpiry k) s = .next s) ∧
      (x.notAfter ≠ 2 ^ 64 - 1 → x.notAfter < w + u → x.ending = none → exec (.grantExpiry k) s = .next (disableSealed s k.val 2))

/-- Detectors 0 to 2 act at level 1, 3 and 4 at level 2 and 5 at level 3. Level 1 aborts the sealed commands, ends every
session, logs, and posts TAMPER with the level. Level 2 does this, zero-fills what key entries of sessions are left, and clears
the sealed keys, scrubs the sealed data and drops the sealed contexts. Level 3 does both and erases the identity seed, owner,
salt, policy and signature indices. -/
def Obligations.TamperResponses : Prop :=
  ∀ (d : Fin 6) (s : State),
    let scrubbed (t : State) : State := dropSealedCtxs (scrubSealed
      { clearKeys ((sessions t).foldl (fun u e => endSession u e.2.queue) t) with warden.sealedOff := true })
    (d.val < 3 → exec (.tamper d) s = .next (tamperOne s 1 d.val)) ∧
    (d.val = 3 ∨ d.val = 4 → exec (.tamper d) s = .next (scrubbed (tamperOne s 2 d.val))) ∧
    (d.val = 5 → ∃ t, exec (.tamper d) s = .next t ∧ t.warden.erased = true ∧ t.warden.idSeed = [] ∧ t.warden.owner = none ∧ t.warden.salt = 0 ∧
      t.warden.policy = none ∧ t.warden.nextPolicy = none ∧ t.warden.sigNext = 0 ∧ t.warden.sigEnd = 0 ∧
      t = tamperThree (scrubbed (tamperOne s 3 5)))

/-- Where the oldest fetched command is a POWER: a target beyond 4 is BAD_CMD, one other than Run before START_DONE is BUSY,
and, while an entry is under way, any is held. Else the state the module is in completes at once; a deeper one starts its entry,
which the command waits for, or, for Vigil, after it has completed; a shallower one starts the return to Run, and on from there,
unless protective Rest holds it. Entry that is not under way, or that is a return to Run, is not reached; with no admitted
command and no activity that it waits for it is: the tests pause, the state's effects follow (0.55 V from Rest down, links down
in Hush, the entry of Vigil), POWER_STATE is posted, and the command waiting completes. A return to Run that is asked for, with
nothing held, posts POWER_STATE and takes the rail back; one that is not asked for, or in Run, Vigil or protective Rest, does
nothing. Protective Rest clears after 4,000 clear rounds, with the flow back where that was its cause. -/
def Obligations.PowerLadder : Prop :=
  (∀ (q : QueueId) (c : Cmd) (s : State), Fetched s q opPower c →
    let st := byteAt c.bytes 16
    let entry (t : State) (target : Nat) (owner after : Option Nat) : State :=
      { t with pwr.entering := true, pwr.target := target, pwr.owner := owner, pwr.after := after, pwr.byProtect := false }
    let waits : State := s.setCmd { c with phase := .entering, job := .power st }
    (4 < st → exec (.power q) s = .next (fail s c stBadCmd)) ∧
    (st ≠ 0 → st ≤ 4 → s.mod.startPosted = false → exec (.power q) s = .next (fail s c stBusy)) ∧
    (st ≤ 4 → st = 0 ∨ s.mod.startPosted = true →
      (s.pwr.entering = true → exec (.power q) s = .next (holdForRun s { c with job := .power st })) ∧
      (s.pwr.entering = false →
        (st = s.pwr.state → exec (.power q) s = .next (finishD s c stOk 0 st [])) ∧
        (s.pwr.state < st → st < 4 → exec (.power q) s = .next (entry waits st (some c.seq) none)) ∧
        (s.pwr.state < st → st = 4 → exec (.power q) s = .next (entry (finishD s c stOk 0 4 []) 4 none none)) ∧
        (st < s.pwr.state → s.pwr.protect = false →
          exec (.power q) s = .next (entry waits 0 (some c.seq) (if st = 0 then none else some st))) ∧
        (st < s.pwr.state → s.pwr.protect = true → exec (.power q) s = .next (holdForRun s { c with job := .power st }))))) ∧
  ∀ s : State,
    (s.pwr.entering = false ∨ s.pwr.target = 0 → exec .powerStateReached s = .next s) ∧
    (s.pwr.entering = true → s.pwr.target ≠ 0 → s.maint.claims = [] →
      let t (n : Nat) : State := { s with pwr.entering := false, pwr.state := n, pwr.owner := none }
      let say (u : State) (n : Nat) : State := postM u 0x0200 srcPwr noQueue n (b2n s.pwr.byProtect) 0
      (s.pwr.target ≠ 4 → s.qau.cmds.any Cmd.active = true → exec .powerStateReached s = .next s) ∧
      (s.qau.cmds.any Cmd.active = false → s.pwr.owner = none →
        (s.pwr.target = 1 → exec .powerStateReached s = .next (say (t 1) 1)) ∧
        (s.pwr.target = 2 → exec .powerStateReached s = .next (say { t 2 with pwr.railMv := 550 } 2)) ∧
        (s.pwr.target = 3 → exec .powerStateReached s = .next (say { linksDown (saveAll (t 3)) with pwr.railMv := 550 } 3)) ∧
        (s.pwr.target = 4 → exec .powerStateReached s = .next (say (enterVigil (t 4)) 4))) ∧
      ∀ n c, s.qau.cmds.any Cmd.active = false → s.pwr.target = 2 → s.pwr.owner = some n → s.cmd n = some c →
        exec .powerStateReached s = .next (finishD (say { t 2 with pwr.railMv := 550 } 2) c stOk 0 2 [])) ∧
    (s.pwr.state = 0 ∨ s.pwr.state = 4 ∨ s.pwr.protect = true → exec .returnToRun s = .next s) ∧
    (1 ≤ s.pwr.state → s.pwr.state ≤ 3 → s.pwr.protect = false → s.qau.cmds = [] → s.maint.claims = [] →
      (s.pwr.entering = true → s.pwr.target ≠ 0 → exec .returnToRun s = .next s) ∧
      (s.pwr.entering = false → s.pwr.byProtect = false → exec .returnToRun s = .next s) ∧
      (s.pwr.owner = none → (s.pwr.entering = true ∧ s.pwr.target = 0) ∨ (s.pwr.entering = false ∧ s.pwr.byProtect = true) →
        exec .returnToRun s = .next (postM { s with
          pwr.state := 0, pwr.target := 0, pwr.entering := false, pwr.owner := none, pwr.after := none, pwr.byProtect := false
          pwr.railMv := if s.pwr.state = 1 then s.pwr.railMv else if s.pwr.hotHalf then 700 else setPoint s.pwr.opsel } 0x0200 srcPwr
          noQueue 0 (b2n s.pwr.byProtect) 0))) ∧
    (s.pwr.protect = false ∨ s.therm.allClear < 4000 ∨ (s.pwr.protectFlow = true ∧ s.therm.okFlow < 10) →
      exec .protectiveRestClear s = .next s) ∧
    (s.pwr.protect = true → 4000 ≤ s.therm.allClear → s.pwr.protectFlow = false ∨ 10 ≤ s.therm.okFlow →
      exec .protectiveRestClear s = .next { s with pwr.protect := false, pwr.protectFlow := false })

/-- A list of 18 readings is a round; with no event queue enabled, the tables in canonical form and no group at level 3 after
it, each valid reading of a working sensor is the group's temperature, raises its level at once and its PEAK; a list of another
length is none. A group 3 °C below the start of its level for 10 ms (40 readings, log 55) falls, and says so; one that is not
stays. Over the cap the rail falls a step to 0.70 V, below which slots are withheld, until 5 % below the cap; each action is
posted. The rail comes back by 10 mV in Run or Poise while no half is hot and the cap holds. Ten lap counts give the lowest of
the rings' paces, each the count over the ring's fused count in UQ6.10, at most the largest (log 112), and another number
changes nothing; the bound is computed anew once there is a pace. An input outside 36.00-52.00 V but within 34.00-60.00 V posts
INPUT_RANGE. Ten samples below 3.2 L/min post COOLANT_FLOW once, ten at or above it after that post its end, and fewer are only
counted. The bank is charged once while sections are connected. Each second counts powered-on time and a bin per working group,
and a flush writes the lifetime counters to flash. -/
def Obligations.SensorsAct : Prop :=
  ∀ s : State,
    (∀ ts : List (Option Nat), ts.length ≠ 18 → exec (.sensorRead ts) s = .next s) ∧
    (∀ (ts : List (Option Nat)) (g : Fin 18) (v : Nat), ts.length = 18 → s.qau.even = false → Tab.wf Stack.initial s.hbm.ctls = true →
      Tab.wf Group.initial s.therm.groups = true → (∀ k, k < 18 → groupLevel (readAll s 0 ts) k ≠ 3) →
      ts[g.val]? = some (some v) → v ≤ 150 → groupFailed s g.val = false →
      ∃ t, exec (.sensorRead ts) s = .next t ∧ groupTemp t g.val = v ∧
        groupLevel t g.val = max (groupLevel s g.val) (levelAt g.val v) ∧ (t.group g.val).peak = max (s.group g.val).peak v) ∧
    (∀ g : Fin 18,
      let old := groupLevel s g.val
      let cool (l : Nat) : Nat := Tab.get 0 (groupCool s g.val) l
      let low := (((levelsOf g.val).filter (fun l => decide (l.1 < old) && decide (cool l.1 < 40))).map (·.1)).foldl max 0
      (old = 0 ∨ groupFailed s g.val = true ∨ cool old < 40 → exec (.thermalClear g) s = .next s) ∧
      (old ≠ 0 → groupFailed s g.val = false → 40 ≤ cool old → exec (.thermalClear g) s = .next (thermEvent
        (setGroup s g.val low (groupTemp s g.val) (groupCool s g.val) false) g.val low (groupTemp s g.val)))) ∧
    (∀ w : BitVec 16,
      let t : State := { s.draw.2.draw.2 with
        pwr.pinW := w.toNat, pwr.iin := s.draw.1 % 65536, pwr.vin := s.draw.2.draw.1 % 65536 }
      let say (u : State) (code : Nat) : Host.Outcome State Fault Refusal := .next (postM u 0x0203 srcPwr noQueue code u.pwr.railMv w.toNat)
      (s.pwr.capW < w.toNat → 700 < s.pwr.railMv → s.pwr.state ≤ 1 →
        exec (.capStep w) s = say { t with pwr.railMv := max 700 (s.pwr.railMv - 10) } 0) ∧
      (s.pwr.capW < w.toNat → s.pwr.railMv ≤ 700 ∨ 1 < s.pwr.state →
        (s.pwr.withheld = true → exec (.capStep w) s = .next t) ∧
        (s.pwr.withheld = false → exec (.capStep w) s = say { t with pwr.withheld := true } 1)) ∧
      (w.toNat ≤ s.pwr.capW → s.pwr.withheld = true → 100 * w.toNat ≤ 95 * s.pwr.capW →
        exec (.capStep w) s = say { t with pwr.withheld := false } 2) ∧
      (w.toNat ≤ s.pwr.capW → s.pwr.withheld = false ∨ 95 * s.pwr.capW < 100 * w.toNat → exec (.capStep w) s = .next t)) ∧
    (1 < s.pwr.state ∨ (s.pwr.hotHalf = true ∧ s.pwr.hotClear < 40) → exec .railReturn s = .next s) ∧
    (s.pwr.state ≤ 1 → s.pwr.hotHalf = false ∨ 40 ≤ s.pwr.hotClear → exec .railReturn s = .next { s with
      pwr.hotHalf := false
      pwr.railMv := if s.pwr.railMv < setPoint s.pwr.opsel ∧ s.pwr.pinW ≤ s.pwr.capW ∧ s.pwr.withheld = false then
        min (setPoint s.pwr.opsel) (s.pwr.railMv + 10) else s.pwr.railMv }) ∧
    (∀ ls : List W32, (ls.length ≠ 10 → exec (.paceSample ls) s = .next s) ∧
      (ls.length = 10 → exec (.paceSample ls) s =
        let paces := ls.zipIdx.map (fun l => min 0xFFFF (l.1.toNat * 1024 / Config.ropLaps l.2))
        .next { s with pwr.pace := BitVec.ofNat 16 (paces.foldl min 0xFFFF) })) ∧
    (s.pwr.pace = 0 → exec .boundRecompute s = .next s) ∧
    (s.pwr.pace ≠ 0 → exec .boundRecompute s = .next { s with pwr.bound := moduleBound s }) ∧
    (∀ v : BitVec 16,
      let post (code : Nat) : Host.Outcome State Fault Refusal :=
        .next (postM { s with pwr.vin := v.toNat } 0x0204 srcPwr noQueue v.toNat code 0)
      (3400 ≤ v.toNat → v.toNat < 3600 → exec (.inputRange v) s = post 0) ∧
      (5200 < v.toNat → v.toNat ≤ 6000 → exec (.inputRange v) s = post 1) ∧
      (v.toNat < 3400 ∨ (3600 ≤ v.toNat ∧ v.toNat ≤ 5200) ∨ 6000 < v.toNat → exec (.inputRange v) s = .next s)) ∧
    (∀ f : BitVec 16,
      (320 ≤ f.toNat →
        let t : State := { s with
          therm.flow := f.toNat, therm.lowFlow := 0, therm.veryLow := 0, therm.okFlow := min 10 (s.therm.okFlow + 1) }
        (s.therm.flowPosted = false ∨ s.therm.okFlow < 9 → exec (.flowSample f) s = .next t) ∧
        (s.therm.flowPosted = true → 9 ≤ s.therm.okFlow →
          exec (.flowSample f) s = .next (postM { t with therm.flowPosted := false } 0x0303 srcTherm noQueue f.toNat 2 0))) ∧
      (200 ≤ f.toNat → f.toNat < 320 →
        let t : State := { s with
          therm.flow := f.toNat, therm.lowFlow := min 10 (s.therm.lowFlow + 1), therm.veryLow := 0, therm.okFlow := 0 }
        (s.therm.flowPosted = true ∨ s.therm.lowFlow < 9 → exec (.flowSample f) s = .next t) ∧
        (s.therm.flowPosted = false → 9 ≤ s.therm.lowFlow →
          exec (.flowSample f) s = .next (postM { t with therm.flowPosted := true } 0x0303 srcTherm noQueue f.toNat 0 0)))) ∧
    (s.hold.charged = true ∨ s.hold.connected = 0 → exec .bankCharged s = .next s) ∧
    (s.hold.charged = false → s.hold.connected ≠ 0 →
      exec .bankCharged s = .next (noteBank { s with hold.charged := true, hold.bankMv := 4200 })) ∧
    (exec .counterFlush s = .next { s with life.stored := s.life.now }) ∧
    exec .thermalHistogramSample s = .next { s with
      secs := s.secs + 1, life.now.poh := s.life.now.poh + 1
      life.now.therm := (List.range 16).foldl (fun t g => if groupFailed s g then t else
        Tab.mod 0 t (g * 32 + min 31 (groupTemp s g / 5)) (· + 1)) s.life.now.therm }

/-- A cold start with no rail up, and a FULL reset that is allowed, leave PWRGD set, their kind and cause in LAST_KIND and
LAST_CAUSE, one boot more, no calendar, no session and no request in hand; with a rail up no cold start happens. A WARM reset
that is allowed outside Vigil leaves kind 2 and its cause, every fetched command gone, the boot count and the metering as they
were. A FULL reset while a start is under way has no effect. A FULL or WARM reset that is locked out, with no rail up, or by a
cause that does not ask for it, changes only the answer to the management port. The watchdog resets the module three times
within an hour, then leaves the unit stopped. The hold-up save at power loss leaves the rails down, the bank discharged, and the
save marked valid for this boot, used as it was stored (what it records is free, log 61); without a rail up it does nothing. A
wake from Vigil leads to Run, and else answers the state alone. A reload takes the blocks' rows from their scan-form images and
makes the collection in turn searchable, and is held outside Run and in protective Rest. A core restart takes the core firmware
stored, where the warden's check lets it run, else the cores stay stopped. -/
def Obligations.StartsAndResets : Prop :=
  ∀ s : State,
    let started (t : State) (kind : Nat) : Prop := t.mod.pwrgd = true ∧ t.mod.lastKind = kind ∧ t.life.boot = s.life.boot + 1 ∧
      t.warden.calendar = none ∧ t.warden.keys = [] ∧ t.warden.request = none
    let refuses (c : ResetCause) (out : Host.Outcome State Fault Refusal) : Prop :=
      out = .next (if c = .management then { s with rsp := .value 0 } else s)
    (s.mod.pwrgd = true → exec .coldStart s = .next s) ∧
    (s.mod.pwrgd = false → ∃ t, exec .coldStart s = .next t ∧ started t 0 ∧ (s.hold.reportDue = false → t.mod.lastCause = 0)) ∧
    (∀ c : ResetCause,
      (resetAllowed s c s.links.fullLock = false ∨ c = .watchdog → refuses c (exec (.fullReset c) s)) ∧
      (resetAllowed s c s.links.warmLock = false ∨ c = .resetN → refuses c (exec (.warmReset c) s)) ∧
      (resetAllowed s c s.links.fullLock = true → c ≠ .watchdog → s.warden.romOnly = true → s.mod.lastKind ≠ 2 →
        exec (.fullReset c) s = .next (if c = .management then { s with rsp := .value 1 } else s)) ∧
      (resetAllowed s c s.links.fullLock = true → c ≠ .watchdog → s.warden.romOnly = false ∨ s.mod.lastKind = 2 → ∃ t, exec (.fullReset c) s = .next t ∧ started t 1 ∧
        t.mod.lastCause = causeCode c ∧ (c = .management → t.rsp = .value 1)) ∧
      (resetAllowed s c s.links.warmLock = true → c ≠ .resetN → s.pwr.state ≠ 4 →
        s.mod.accepting = true ∨ s.hbm.serviceStopped = true →
        ∃ t, exec (.warmReset c) s = .next t ∧ t.mod.lastKind = 2 ∧ t.mod.lastCause = causeCode c ∧ t.qau.cmds = [] ∧
          t.life.boot = s.life.boot ∧ t.meter = s.meter ∧ (c = .management → t.rsp = .value 1))) ∧
    (∀ u : Fin 7,
      let recent := s.mod.watchdogs.filter (fun t => decide (s.secs - t < 3600))
      ((s.mod.accepting = false ∧ s.hbm.serviceStopped = false) ∨ s.pwr.state = 4 ∨ s.mod.stoppedUnits.contains u.val = true →
        exec (.watchdog u) s = .next s) ∧
      (s.mod.accepting = true ∨ s.hbm.serviceStopped = true → s.pwr.state ≠ 4 → s.mod.stoppedUnits.contains u.val = false →
        (3 ≤ recent.length → exec (.watchdog u) s = .next { s with
          mod.watchdogs := recent, mod.stoppedUnits := s.mod.stoppedUnits ++ [u.val] }) ∧
        (recent.length < 3 → ∃ t, exec (.watchdog u) s = .next t ∧ t.mod.lastKind = 2 ∧ t.mod.lastCause = 4 ∧
          t.mod.watchdogs = recent ++ [s.secs] ∧ t.qau.cmds = []))) ∧
    (∀ (c : SaveCause) (stored : Bool),
      (s.mod.pwrgd = false → exec (.holdupSave c stored) s = .next s) ∧
      (s.mod.pwrgd = true → ∃ t, exec (.holdupSave c stored) s = .next t ∧ t.mod.pwrgd = false ∧ t.pwr.railMv = 0 ∧
        t.hold.charged = false ∧ t.hold.saveValid = true ∧ t.hold.saveUsed = stored ∧ t.hold.saveBoot = s.life.boot ∧
        t.hbm.mem = [] ∧ t.meter = s.meter)) ∧
    (s.pwr.state ≠ 4 ∨ s.pwr.protect = true ∨ s.mod.pwrgd = false →
      exec .wake s = .next { s with rsp := .value (BitVec.ofNat 64 s.pwr.state) }) ∧
    (s.pwr.state = 4 → s.pwr.protect = false → s.mod.pwrgd = true →
      ∃ t, exec .wake s = .next t ∧ t.pwr.state = 0 ∧ t.rsp = .value 0 ∧ t.life.boot = s.life.boot) ∧
    (∀ cid : BitVec 16,
      (s.mod.reload.head? ≠ some cid ∨ s.mod.accepting = false ∨ s.pwr.state ≠ 0 ∨ s.pwr.protect = true →
        exec (.scanFormReload cid) s = .next s) ∧
      ∀ rest c, s.mod.reload = cid :: rest → s.mod.accepting = true → s.pwr.state = 0 → s.pwr.protect = false →
        let u := reloadBlocks s cid.toNat
        u.coll cid.toNat = some c → c.destroyed = none → c.flashOnly = false → c.keyed = true →
        exec (.scanFormReload cid) s = .next (noteStart (collEvent ({ u with
          mod.reload := rest, mod.phase := if rest = [] then 5 else u.mod.phase }.setColl cid.toNat (some { c with
            searchable := true })) evSearchable srcMaintBlock cid.toNat))) ∧
    exec .coreRestart s = .next (if mayBoot s 8 (imageOf s 8) then { s with mod.coreFw := partVersion s 8 }
      else { s with mod.stoppedUnits := s.mod.stoppedUnits ++ [stoppedId 8 0] })

end
end

