-- ==== Sys2Proof/Laws/State.lean ====
section
/-! SUPPORT. What updates of State leave unchanged. -/

namespace Sys2Proof.Machine

theorem keep_or {α : Type} {p : Prop} [Decidable p] {a x y : α} (h : x = y ∨ p) : (if p then a else x) = (if p then a else y) := by
  rcases h with rfl | h
  · rfl
  · rw [if_pos h, if_pos h]

/-- A record update changes only the parts that it names. -/
@[simp] theorem without_mk (s : State) (bs : List Blk) (x1 : Nat) (x2 : Nat) (x3 : Rsp) (x4 : Mod) (x5 : Qau) (x6 : Csn) (x7 : Alloc) (x8 : Corpus) (x9 : Flash) (x10 : Reel) (x11 : Sel) (x12 : Hbm) (x13 : Eng) (x14 : Warden) (x15 : Maint) (x16 : Life) (x17 : Pwr) (x18 : Therm) (x19 : Hold) (x20 : Meter) (x21 : Links)
    (h1 : x1 = s.freeCtr ∨ Blk.freeCtr ∈ bs) (h2 : x2 = s.secs ∨ Blk.secs ∈ bs) (h3 : x3 = s.rsp ∨ Blk.rsp ∈ bs) (h4 : x4 = s.mod ∨ Blk.mod ∈ bs) (h5 : x5 = s.qau ∨ Blk.qau ∈ bs) (h6 : x6 = s.csn ∨ Blk.csn ∈ bs) (h7 : x7 = s.alloc ∨ Blk.alloc ∈ bs) (h8 : x8 = s.corpus ∨ Blk.corpus ∈ bs) (h9 : x9 = s.flash ∨ Blk.flash ∈ bs) (h10 : x10 = s.reel ∨ Blk.reel ∈ bs) (h11 : x11 = s.sel ∨ Blk.sel ∈ bs) (h12 : x12 = s.hbm ∨ Blk.hbm ∈ bs) (h13 : x13 = s.eng ∨ Blk.eng ∈ bs) (h14 : x14 = s.warden ∨ Blk.warden ∈ bs) (h15 : x15 = s.maint ∨ Blk.maint ∈ bs) (h16 : x16 = s.life ∨ Blk.life ∈ bs) (h17 : x17 = s.pwr ∨ Blk.pwr ∈ bs) (h18 : x18 = s.therm ∨ Blk.therm ∈ bs) (h19 : x19 = s.hold ∨ Blk.hold ∈ bs) (h20 : x20 = s.meter ∨ Blk.meter ∈ bs) (h21 : x21 = s.links ∨ Blk.links ∈ bs) :
    (State.mk s.pending x1 x2 x3 x4 x5 x6 x7 x8 x9 x10 x11 x12 x13 x14 x15 x16 x17 x18 x19 x20 x21).without bs = s.without bs := by
  rcases s
  simp only [State.without, State.mk.injEq, true_and] at *
  exact ⟨keep_or h1, keep_or h2, keep_or h3, keep_or h4, keep_or h5, keep_or h6, keep_or h7, keep_or h8, keep_or h9, keep_or h10, keep_or h11, keep_or h12, keep_or h13, keep_or h14, keep_or h15, keep_or h16, keep_or h17, keep_or h18, keep_or h19, keep_or h20, keep_or h21⟩

grind_pattern without_mk => State.mk s.pending x1 x2 x3 x4 x5 x6 x7 x8 x9 x10 x11 x12 x13 x14 x15 x16 x17 x18 x19 x20 x21, s.without bs

/-- Steps over a list change no more than one step does. -/
@[simp] theorem foldl_without {β : Type _} (bs : List Blk) (f : State → β → State)
    (h : ∀ s b, (f s b).without bs = s.without bs) (xs : List β) (s : State) :
    (xs.foldl f s).without bs = s.without bs := by
  induction xs generalizing s with
  | nil => rfl
  | cons b t ih => rw [List.foldl_cons, ih, h]

/-- The same for steps that may fail. -/
theorem foldl_bind_without {β : Type _} (bs : List Blk) (f : State → β → Option State)
    (h : ∀ s b t, f s b = some t → t.without bs = s.without bs) (xs : List β) (s t : State)
    (ht : xs.foldl (fun o b => o.bind (fun s => f s b)) (some s) = some t) : t.without bs = s.without bs := by
  induction xs generalizing s with
  | nil => cases ht; rfl
  | cons b l ih =>
    rw [List.foldl_cons, Option.bind_some] at ht
    cases hf : f s b with
    | none =>
      have hn : ∀ l : List β, l.foldl (fun o b => o.bind (fun s => f s b)) none = none := fun l => by
        induction l with
        | nil => rfl
        | cons _ _ ih => rw [List.foldl_cons]; exact ih
      rw [hf, hn] at ht
      cases ht
    | some u => rw [hf] at ht; rw [ih u ht, h s b u hf]

end Sys2Proof.Machine
end

