-- ==== Sys2Proof/Laws/FrameOps.lean ====
section
/-! SUPPORT. What each shared operation leaves unchanged: the named operations, completions and events, visibility and the journal, requests, settings and the owner. A lemma `f_without` says that `f` changes
no part of State outside the list it names. -/

namespace Sys2Proof.Machine

/-! ## Ops.lean -/

@[simp] theorem State.modQueue_without (s : State) (q : Nat) (f : Queue → Queue) (B : List Blk) (hB : [.qau] ⊆ B) :
    (State.modQueue s q f).without B = s.without B := by
  simp only [List.cons_subset, List.nil_subset, and_true] at hB
  simp [State.modQueue, *]

grind_pattern State.modQueue_without => State.modQueue s q f, s.without B

@[simp] theorem State.modWeevil_without (s : State) (w : Nat) (f : Weevil → Weevil) (B : List Blk) (hB : [.reel] ⊆ B) :
    (State.modWeevil s w f).without B = s.without B := by
  simp only [List.cons_subset, List.nil_subset, and_true] at hB
  simp [State.modWeevil, *]

grind_pattern State.modWeevil_without => State.modWeevil s w f, s.without B

@[simp] theorem State.modSlot_without (s : State) (n : Nat) (f : ReelSlot → ReelSlot) (B : List Blk) (hB : [.reel] ⊆ B) :
    (State.modSlot s n f).without B = s.without B := by
  simp only [List.cons_subset, List.nil_subset, and_true] at hB
  simp [State.modSlot, *]

grind_pattern State.modSlot_without => State.modSlot s n f, s.without B

@[simp] theorem State.modCtl_without (s : State) (n : Nat) (f : Stack → Stack) (B : List Blk) (hB : [.hbm] ⊆ B) :
    (State.modCtl s n f).without B = s.without B := by
  simp only [List.cons_subset, List.nil_subset, and_true] at hB
  simp [State.modCtl, *]

grind_pattern State.modCtl_without => State.modCtl s n f, s.without B

@[simp] theorem State.modPch_without (s : State) (p : Nat) (f : Pch → Pch) (B : List Blk) (hB : [.hbm] ⊆ B) :
    (State.modPch s p f).without B = s.without B := by
  simp only [List.cons_subset, List.nil_subset, and_true] at hB
  simp [State.modPch, *]

grind_pattern State.modPch_without => State.modPch s p f, s.without B

@[simp] theorem State.modEngine_without (s : State) (e : Nat) (f : Engine → Engine) (B : List Blk) (hB : [.eng] ⊆ B) :
    (State.modEngine s e f).without B = s.without B := by
  simp only [List.cons_subset, List.nil_subset, and_true] at hB
  simp [State.modEngine, *]

grind_pattern State.modEngine_without => State.modEngine s e f, s.without B

@[simp] theorem State.setCtx_without (s : State) (c : Nat) (x : Option Ctx) (B : List Blk) (hB : [.eng] ⊆ B) :
    (State.setCtx s c x).without B = s.without B := by
  simp only [List.cons_subset, List.nil_subset, and_true] at hB
  simp [State.setCtx, *]

grind_pattern State.setCtx_without => State.setCtx s c x, s.without B

@[simp] theorem State.modCtx_without (s : State) (c : Nat) (f : Ctx → Ctx) (B : List Blk) (hB : [.eng] ⊆ B) :
    (State.modCtx s c f).without B = s.without B := by
  simp only [List.cons_subset, List.nil_subset, and_true] at hB
  simp [State.modCtx, *]

grind_pattern State.modCtx_without => State.modCtx s c f, s.without B

@[simp] theorem State.modChannel_without (s : State) (b : Nat) (f : Channel → Channel) (B : List Blk) (hB : [.flash] ⊆ B) :
    (State.modChannel s b f).without B = s.without B := by
  simp only [List.cons_subset, List.nil_subset, and_true] at hB
  simp [State.modChannel, *]

grind_pattern State.modChannel_without => State.modChannel s b f, s.without B

@[simp] theorem State.setColl_without (s : State) (cid : Nat) (c : Option Coll) (B : List Blk) (hB : [.corpus] ⊆ B) :
    (State.setColl s cid c).without B = s.without B := by
  simp only [List.cons_subset, List.nil_subset, and_true] at hB
  simp [State.setColl, *]

grind_pattern State.setColl_without => State.setColl s cid c, s.without B

@[simp] theorem State.setSide_without (s : State) (n : Nat) (e : Option SideEnt) (B : List Blk) (hB : [.corpus] ⊆ B) :
    (State.setSide s n e).without B = s.without B := by
  simp only [List.cons_subset, List.nil_subset, and_true] at hB
  simp [State.setSide, *]

grind_pattern State.setSide_without => State.setSide s n e, s.without B

@[simp] theorem State.setBlock_without (s : State) (key : Nat) (b : Option Block) (B : List Blk) (hB : [.corpus] ⊆ B) :
    (State.setBlock s key b).without B = s.without B := by
  simp only [List.cons_subset, List.nil_subset, and_true] at hB
  simp [State.setBlock, *]

grind_pattern State.setBlock_without => State.setBlock s key b, s.without B

@[simp] theorem State.setPin_without (s : State) (n : Nat) (p : Pin) (B : List Blk) (hB : [.csn] ⊆ B) :
    (State.setPin s n p).without B = s.without B := by
  simp only [List.cons_subset, List.nil_subset, and_true] at hB
  simp [State.setPin, *]

grind_pattern State.setPin_without => State.setPin s n p, s.without B

@[simp] theorem State.modGroup_without (s : State) (g : Nat) (f : Group → Group) (B : List Blk) (hB : [.therm] ⊆ B) :
    (State.modGroup s g f).without B = s.without B := by
  simp only [List.cons_subset, List.nil_subset, and_true] at hB
  simp [State.modGroup, *]

grind_pattern State.modGroup_without => State.modGroup s g f, s.without B

@[simp] theorem State.setClaim_without (s : State) (n : Nat) (c : Option Claim) (B : List Blk) (hB : [.maint] ⊆ B) :
    (State.setClaim s n c).without B = s.without B := by
  simp only [List.cons_subset, List.nil_subset, and_true] at hB
  simp [State.setClaim, *]

grind_pattern State.setClaim_without => State.setClaim s n c, s.without B

@[simp] theorem State.modNetPort_without (s : State) (p : Nat) (f : NetPort → NetPort) (B : List Blk) (hB : [.links] ⊆ B) :
    (State.modNetPort s p f).without B = s.without B := by
  simp only [List.cons_subset, List.nil_subset, and_true] at hB
  simp [State.modNetPort, *]

grind_pattern State.modNetPort_without => State.modNetPort s p f, s.without B

@[simp] theorem State.setSession_without (s : State) (n : Nat) (x : Option Session) (B : List Blk) (hB : [.warden] ⊆ B) :
    (State.setSession s n x).without B = s.without B := by
  simp only [List.cons_subset, List.nil_subset, and_true] at hB
  simp [State.setSession, *]

grind_pattern State.setSession_without => State.setSession s n x, s.without B

@[simp] theorem State.draw_without (s : State) (B : List Blk) (hB : [.freeCtr] ⊆ B) :
    (State.draw s).2.without B = s.without B := by
  simp only [List.cons_subset, List.nil_subset, and_true] at hB
  simp [State.draw, *]

grind_pattern State.draw_without => State.draw s, s.without B

@[simp] theorem accessError_without (s : State) (r : Nat) (ctl : Option Nat) (a : Nat) (hide : Bool) (B : List Blk) (hB : [.hbm] ⊆ B) :
    (accessError s r ctl a hide).without B = s.without B := by
  simp only [List.cons_subset, List.nil_subset, and_true] at hB
  simp [accessError, *]

grind_pattern accessError_without => accessError s r ctl a hide, s.without B

@[simp] theorem State.setTag_without (s : State) (place : Nat) (tag : Byte) (B : List Blk) (hB : [.hbm] ⊆ B) :
    (State.setTag s place tag).without B = s.without B := by
  simp only [List.cons_subset, List.nil_subset, and_true] at hB
  simp [State.setTag, *]

grind_pattern State.setTag_without => State.setTag s place tag, s.without B

@[simp] theorem readFinding_without (s : State) (r place : Nat) (tag : Option Byte) (warden : Bool) (f : Finding) (B : List Blk) (hB : [.hbm] ⊆ B) :
    (readFinding s r place tag warden f).1.without B = s.without B := by
  simp only [List.cons_subset, List.nil_subset, and_true] at hB
  unfold readFinding
  dsimp only
  (repeat' split) <;> simp [hB]

grind_pattern readFinding_without => readFinding s r place tag warden f, s.without B

@[simp] theorem State.setByte_without (s : State) (place : Nat) (b : Byte) (B : List Blk) (hB : [.hbm] ⊆ B) :
    (State.setByte s place b).without B = s.without B := by
  simp only [List.cons_subset, List.nil_subset, and_true] at hB
  simp [State.setByte, *]

grind_pattern State.setByte_without => State.setByte s place b, s.without B

@[simp] theorem State.setBytes_without (s : State) (place : Nat) (a : List Byte) (B : List Blk) (hB : [.hbm] ⊆ B) :
    (State.setBytes s place a).without B = s.without B := by
  simp only [List.cons_subset, List.nil_subset, and_true] at hB
  induction a generalizing s place <;> (unfold State.setBytes; grind)

grind_pattern State.setBytes_without => State.setBytes s place a, s.without B

@[simp] theorem readSectors_without (s : State) (r : Nat) (a : List (Nat × Option Byte × Bool)) (x3 : Finding) (B : List Blk) (hB : [.hbm] ⊆ B) :
    (readSectors s r a x3).1.without B = s.without B := by
  simp only [List.cons_subset, List.nil_subset, and_true] at hB
  induction a generalizing s x3 with
  | nil => simp [readSectors]
  | cons p t ih => obtain ⟨p, prot, w⟩ := p; simp [readSectors, ih, hB]

grind_pattern readSectors_without => readSectors s r a x3, s.without B

@[simp] theorem State.read_without (s : State) (r a n : Nat) (f : Finding) (B : List Blk) (hB : [.hbm] ⊆ B) :
    (State.read s r a n f).1.without B = s.without B := by
  simp only [List.cons_subset, List.nil_subset, and_true] at hB
  unfold State.read; (repeat' split) <;> simp [*]

grind_pattern State.read_without => State.read s r a n f, s.without B

@[simp] theorem writeSectors_without (s : State) (r : Nat) (ps a : List (Nat × Option Byte × Bool)) (x4 : Finding) (B : List Blk) (hB : [.hbm] ⊆ B) :
    (writeSectors s r ps a x4).without B = s.without B := by
  simp only [List.cons_subset, List.nil_subset, and_true] at hB
  induction a generalizing s x4 with
  | nil => simp [writeSectors]
  | cons p t ih =>
    obtain ⟨p, _ | q, w⟩ := p
    · simp [writeSectors, ih]
    · unfold writeSectors
      split
      · rw [ih, State.setTag_without _ _ _ B (by simp [hB])]
        split <;> simp [hB]
      · have e := readFinding_without s r p (some q) w x4 B (by simp [hB])
        dsimp only
        rw [ih, State.setTag_without _ _ _ B (by simp [hB])]
        split <;> simp [*]

grind_pattern writeSectors_without => writeSectors s r ps a x4, s.without B

@[simp] theorem State.putAt_without (s : State) (a : List (Nat × Option Byte × Bool)) (x2 : List Byte) (B : List Blk) (hB : [.hbm] ⊆ B) :
    (State.putAt s a x2).without B = s.without B := by
  simp only [List.cons_subset, List.nil_subset, and_true] at hB
  induction a generalizing s x2 <;> (unfold State.putAt; grind)

grind_pattern State.putAt_without => State.putAt s a x2, s.without B

@[simp] theorem buffered_without (s : State) (place : Nat) (B : List Blk) (hB : [.hbm] ⊆ B) :
    (buffered s place).without B = s.without B := by
  simp only [List.cons_subset, List.nil_subset, and_true] at hB
  simp [buffered, *]

grind_pattern buffered_without => buffered s place, s.without B

@[simp] theorem State.write_without (s : State) (r a : Nat) (x3 : List Byte) (f : Finding) (B : List Blk) (hB : [.hbm] ⊆ B) :
    (State.write s r a x3 f).1.without B = s.without B := by
  simp only [List.cons_subset, List.nil_subset, and_true] at hB
  unfold State.write
  split
  · simp [hB]
  · dsimp only
    simp [hB]

grind_pattern State.write_without => State.write s r a x3 f, s.without B

@[simp] theorem zeroRange_without (s : State) (a n : Nat) (B : List Blk) (hB : [.hbm] ⊆ B) :
    (zeroRange s a n).without B = s.without B := by
  simp only [List.cons_subset, List.nil_subset, and_true] at hB
  simp [zeroRange, *]

grind_pattern zeroRange_without => zeroRange s a n, s.without B

/-! ## Record.lean -/

@[simp] theorem raiseVector_without (s : State) (v : Nat) (B : List Blk) (hB : [.qau, .links] ⊆ B) :
    (raiseVector s v).without B = s.without B := by
  simp only [List.cons_subset, List.nil_subset, and_true] at hB
  unfold raiseVector; grind

grind_pattern raiseVector_without => raiseVector s v, s.without B

@[simp] theorem putRec_without (s : State) (q : Nat) (r : OutRec) (B : List Blk) (hB : [.qau, .hbm] ⊆ B) :
    (putRec s q r).without B = s.without B := by
  simp only [List.cons_subset, List.nil_subset, and_true] at hB
  unfold putRec; (repeat' split) <;> simp [*]

grind_pattern putRec_without => putRec s q r, s.without B

@[simp] theorem writeNext_without (s : State) (q : Nat) (B : List Blk) (hB : [.qau, .hbm] ⊆ B) :
    (writeNext s q).without B = s.without B := by
  simp only [List.cons_subset, List.nil_subset, and_true] at hB
  unfold writeNext; grind

grind_pattern writeNext_without => writeNext s q, s.without B

@[simp] theorem writeAll_without (q a : Nat) (x2 : State) (B : List Blk) (hB : [.qau, .hbm] ⊆ B) :
    (writeAll q a x2).without B = x2.without B := by
  simp only [List.cons_subset, List.nil_subset, and_true] at hB
  induction a generalizing q x2 <;> (unfold writeAll; grind)

grind_pattern writeAll_without => writeAll q a x2, x2.without B

@[simp] theorem flushRing_without (s : State) (q : Nat) (B : List Blk) (hB : [.qau, .hbm, .links] ⊆ B) :
    (flushRing s q).without B = s.without B := by
  simp only [List.cons_subset, List.nil_subset, and_true] at hB
  unfold flushRing; grind

grind_pattern flushRing_without => flushRing s q, s.without B

@[simp] theorem flushM_without (s : State) (B : List Blk) (hB : [.qau, .hbm, .links] ⊆ B) :
    (flushM s).without B = s.without B := by
  simp only [List.cons_subset, List.nil_subset, and_true] at hB
  unfold flushM; (repeat' split) <;> simp [*]

grind_pattern flushM_without => flushM s, s.without B

@[simp] theorem holdRec_without (s : State) (q : Nat) (bytes : BitVec 256) (done : Option Nat) (B : List Blk) (hB : [.qau, .hbm, .links] ⊆ B) :
    (holdRec s q bytes done).without B = s.without B := by
  simp only [List.cons_subset, List.nil_subset, and_true] at hB
  simp [holdRec, *]

grind_pattern holdRec_without => holdRec s q bytes done, s.without B

@[simp] theorem countLost_without (s : State) (n : Nat) (B : List Blk) (hB : [.qau] ⊆ B) :
    (countLost s n).without B = s.without B := by
  simp only [List.cons_subset, List.nil_subset, and_true] at hB
  simp [countLost, *]

grind_pattern countLost_without => countLost s n, s.without B

@[simp] theorem postQ_without (s : State) (q : Nat) (evs : List (BitVec 256)) (B : List Blk) (hB : [.qau, .hbm, .links] ⊆ B) :
    (postQ s q evs).without B = s.without B := by
  simp only [List.cons_subset, List.nil_subset, and_true] at hB
  unfold postQ; dsimp only; (repeat' split) <;> simp_all

grind_pattern postQ_without => postQ s q evs, s.without B

@[simp] theorem postM_without (s : State) (code src queue e0 e1 e2 : Nat) (B : List Blk) (hB : [.qau, .hbm, .links] ⊆ B) :
    (postM s code src queue e0 e1 e2).without B = s.without B := by
  simp only [List.cons_subset, List.nil_subset, and_true] at hB
  unfold postM; (repeat' split) <;> simp [*]

grind_pattern postM_without => postM s code src queue e0 e1 e2, s.without B

@[simp] theorem State.setCmd_without (s : State) (c : Cmd) (B : List Blk) (hB : [.qau] ⊆ B) :
    (State.setCmd s c).without B = s.without B := by
  simp only [List.cons_subset, List.nil_subset, and_true] at hB
  simp [State.setCmd, *]

grind_pattern State.setCmd_without => State.setCmd s c, s.without B

@[simp] theorem resultEnvelope_without (s : State) (c : Cmd) (status r0 r1 flags wait : Nat) (body : List Byte) (B : List Blk) (hB : [.warden] ⊆ B) :
    (resultEnvelope s c status r0 r1 flags wait body).1.without B = s.without B := by
  simp only [List.cons_subset, List.nil_subset, and_true] at hB
  unfold resultEnvelope; (repeat' split) <;> simp [*]

grind_pattern resultEnvelope_without => resultEnvelope s c status r0 r1 flags wait body, s.without B

@[simp] theorem answer_without (s : State) (c : Cmd) (status r0 r1 flags wait : Nat) (body : List Byte) (B : List Blk) (hB : [.qau, .hbm, .warden, .links] ⊆ B) :
    (answer s c status r0 r1 flags wait body).without B = s.without B := by
  simp only [List.cons_subset, List.nil_subset, and_true] at hB
  unfold answer; dsimp only; (repeat' split) <;> simp_all

grind_pattern answer_without => answer s c status r0 r1 flags wait body, s.without B

@[simp] theorem settleUnnamed_without (s : State) (c : Cmd) (B : List Blk) (hB : [.qau, .hbm, .warden, .links] ⊆ B) :
    (settleUnnamed s c).without B = s.without B := by
  simp only [List.cons_subset, List.nil_subset, and_true] at hB
  unfold settleUnnamed; (repeat' split) <;> simp [*]

grind_pattern settleUnnamed_without => settleUnnamed s c, s.without B

@[simp] theorem fetchOne_without (s : State) (q : Nat) (B : List Blk) (hB : [.qau, .hbm, .warden, .links] ⊆ B) :
    (fetchOne s q).1.without B = s.without B := by
  simp only [List.cons_subset, List.nil_subset, and_true] at hB
  unfold fetchOne
  have e := State.read_without s 2 ((s.queue q).sqBase.toNat + 64 * (s.queue q).sqHead) 64 .clean B (by simp [hB])
  dsimp only
  split
  · rename_i g; rw [g] at e; simp_all
  · rename_i g; rw [g] at e
    split
    · rfl
    · dsimp only
      split <;> simp_all

grind_pattern fetchOne_without => fetchOne s q, s.without B

@[simp] theorem fetchAll_without (q a : Nat) (x2 : State) (B : List Blk) (hB : [.qau, .hbm, .warden, .links] ⊆ B) :
    (fetchAll q a x2).without B = x2.without B := by
  simp only [List.cons_subset, List.nil_subset, and_true] at hB
  induction a generalizing x2 with
  | zero => rfl
  | succ n ih =>
    unfold fetchAll
    have e := fetchOne_without x2 q B (by simp [hB])
    split
    · split <;> (rename_i g; rw [g] at e; simp_all)
    · rfl

grind_pattern fetchAll_without => fetchAll q a x2, x2.without B

@[simp] theorem fetch_without (s : State) (q : Nat) (B : List Blk) (hB : [.qau, .hbm, .warden, .links] ⊆ B) :
    (fetch s q).without B = s.without B := by
  simp only [List.cons_subset, List.nil_subset, and_true] at hB
  simp [fetch, *]

grind_pattern fetch_without => fetch s q, s.without B

@[simp] theorem finish_without (s : State) (c : Cmd) (status r0 r1 flags wait : Nat) (body : List Byte) (B : List Blk) (hB : [.qau, .hbm, .warden, .links] ⊆ B) :
    (finish s c status r0 r1 flags wait body).without B = s.without B := by
  simp only [List.cons_subset, List.nil_subset, and_true] at hB
  simp [finish, *]

grind_pattern finish_without => finish s c status r0 r1 flags wait body, s.without B

@[simp] theorem fail_without (s : State) (c : Cmd) (status : Nat) (B : List Blk) (hB : [.qau, .hbm, .warden, .links] ⊆ B) :
    (fail s c status).without B = s.without B := by
  simp only [List.cons_subset, List.nil_subset, and_true] at hB
  simp [fail, *]

grind_pattern fail_without => fail s c status, s.without B

@[simp] theorem denyInside_without (s : State) (c : Cmd) (B : List Blk) (hB : [.qau, .hbm, .warden, .links] ⊆ B) :
    (denyInside s c).without B = s.without B := by
  simp only [List.cons_subset, List.nil_subset, and_true] at hB
  unfold denyInside; dsimp only; (repeat' split) <;> simp_all

grind_pattern denyInside_without => denyInside s c, s.without B

/-! ## Visible.lean -/

@[simp] theorem takeRef_without (s : State) (ref : Nat) (B : List Blk) (hB : [.csn] ⊆ B) :
    (takeRef s ref).without B = s.without B := by
  simp only [List.cons_subset, List.nil_subset, and_true] at hB
  simp [takeRef, *]

grind_pattern takeRef_without => takeRef s ref, s.without B

@[simp] theorem dropRef_without (s : State) (ref : Nat) (B : List Blk) (hB : [.csn] ⊆ B) :
    (dropRef s ref).without B = s.without B := by
  simp only [List.cons_subset, List.nil_subset, and_true] at hB
  simp [dropRef, *]

grind_pattern dropRef_without => dropRef s ref, s.without B

@[simp] theorem journalAck_without (s : State) (durable : Bool) (ref cid count csn : Nat) (body : JBody) (cmd : Option Nat) (ack : Option (Nat × Nat)) (B : List Blk) (hB : [.flash] ⊆ B) :
    (journalAck s durable ref cid count csn body cmd ack).without B = s.without B := by
  simp only [List.cons_subset, List.nil_subset, and_true] at hB
  simp [journalAck, *]

grind_pattern journalAck_without => journalAck s durable ref cid count csn body cmd ack, s.without B

@[simp] theorem journal_without (s : State) (ref cid count csn : Nat) (body : JBody) (B : List Blk) (hB : [.flash] ⊆ B) :
    (journal s ref cid count csn body).without B = s.without B := by
  simp only [List.cons_subset, List.nil_subset, and_true] at hB
  simp [journal, *]

grind_pattern journal_without => journal s ref cid count csn body, s.without B

@[simp] theorem issueAck_without (s : State) (ref cid : Nat) (cmd : Option Nat) (ack : Option (Nat × Nat)) (B : List Blk) (hB : [.csn, .flash] ⊆ B) :
    (issueAck s ref cid cmd ack).2.without B = s.without B := by
  simp only [List.cons_subset, List.nil_subset, and_true] at hB
  unfold issueAck; grind

grind_pattern issueAck_without => issueAck s ref cid cmd ack, s.without B

@[simp] theorem issue_without (s : State) (ref cid : Nat) (B : List Blk) (hB : [.csn, .flash] ⊆ B) :
    (issue s ref cid).2.without B = s.without B := by
  simp only [List.cons_subset, List.nil_subset, and_true] at hB
  simp [issue, *]

grind_pattern issue_without => issue s ref cid, s.without B

@[simp] theorem commitChange_without (s : State) (ref cid count : Nat) (body : JBody) (B : List Blk) (hB : [.csn, .flash] ⊆ B) :
    (commitChange s ref cid count body).2.without B = s.without B := by
  simp only [List.cons_subset, List.nil_subset, and_true] at hB
  simp [commitChange, *]

grind_pattern commitChange_without => commitChange s ref cid count body, s.without B

@[simp] theorem setExcl_without (s : State) (w l : Nat) (xs : List (BitVec 128)) (B : List Blk) (hB : [.corpus] ⊆ B) :
    (setExcl s w l xs).without B = s.without B := by
  simp only [List.cons_subset, List.nil_subset, and_true] at hB
  simp [setExcl, *]

grind_pattern setExcl_without => setExcl s w l xs, s.without B

@[simp] theorem releaseChunks_without (s : State) (B : List Blk) (hB : [.corpus] ⊆ B) :
    (releaseChunks s).without B = s.without B := by
  simp only [List.cons_subset, List.nil_subset, and_true] at hB
  simp [releaseChunks, *]

grind_pattern releaseChunks_without => releaseChunks s, s.without B

theorem appendSides_without (s : State) (cid : Nat) (a : List SideEnt) (B : List Blk) (hB : [.corpus] ⊆ B) (t : State × List (Nat × SideEnt)) (h : appendSides s cid a = some t) :
    t.1.without B = s.without B := by
  simp only [List.cons_subset, List.nil_subset, and_true] at hB
  induction a generalizing s t with
  | nil => simp [appendSides] at h; simp [← h]
  | cons p l ih =>
    unfold appendSides at h
    split at h
    · cases h
    · simp only [Option.map_eq_some_iff] at h
      obtain ⟨r, h, rfl⟩ := h
      simp [ih _ _ h, hB]

grind_pattern appendSides_without => appendSides s cid a, some t, s.without B

@[simp] theorem dropSides_without (s : State) (ns : List Nat) (B : List Blk) (hB : [.corpus] ⊆ B) :
    (dropSides s ns).without B = s.without B := by
  simp only [List.cons_subset, List.nil_subset, and_true] at hB
  simp [dropSides, *]

grind_pattern dropSides_without => dropSides s ns, s.without B

/-! ## Flash.lean -/

@[simp] theorem pickBlock_without (s : State) (sb ch : Nat) (B : List Blk) (hB : [.flash] ⊆ B) :
    (pickBlock s sb ch).without B = s.without B := by
  simp only [List.cons_subset, List.nil_subset, and_true] at hB
  unfold pickBlock; grind

grind_pattern pickBlock_without => pickBlock s sb ch, s.without B

@[simp] theorem buildSuper_without (s : State) (sb : Nat) (B : List Blk) (hB : [.flash] ⊆ B) :
    (buildSuper s sb).without B = s.without B := by
  simp only [List.cons_subset, List.nil_subset, and_true] at hB
  unfold buildSuper
  apply foldl_without
  intro t c
  (repeat' split) <;> simp [*]

grind_pattern buildSuper_without => buildSuper s sb, s.without B

@[simp] theorem putSlot_without (s : State) (a : W64) (v : Option VSlot) (B : List Blk) (hB : [.flash] ⊆ B) :
    (putSlot s a v).without B = s.without B := by
  simp only [List.cons_subset, List.nil_subset, and_true] at hB
  simp [putSlot, *]

grind_pattern putSlot_without => putSlot s a v, s.without B

@[simp] theorem claimRows_without (s : State) (lo n : Nat) (B : List Blk) (hB : [.flash] ⊆ B) :
    (claimRows s lo n).without B = s.without B := by
  simp only [List.cons_subset, List.nil_subset, and_true] at hB
  simp [claimRows, *]

grind_pattern claimRows_without => claimRows s lo n, s.without B

@[simp] theorem programRows_without (s : State) (lo n : Nat) (B : List Blk) (hB : [.flash] ⊆ B) :
    (programRows s lo n).without B = s.without B := by
  simp only [List.cons_subset, List.nil_subset, and_true] at hB
  unfold programRows; (repeat' split) <;> simp [*]

grind_pattern programRows_without => programRows s lo n, s.without B

@[simp] theorem layRun_without (s : State) (n : Nat) (B : List Blk) (hB : [.flash] ⊆ B) :
    (layRun s n).1.without B = s.without B := by
  simp only [List.cons_subset, List.nil_subset, and_true] at hB
  unfold layRun; (repeat' split) <;> simp [*]

grind_pattern layRun_without => layRun s n, s.without B

@[simp] theorem programImage_without (s : State) (b : Block) (B : List Blk) (hB : [.flash] ⊆ B) :
    (programImage s b).1.without B = s.without B := by
  simp only [List.cons_subset, List.nil_subset, and_true] at hB
  unfold programImage; grind

grind_pattern programImage_without => programImage s b, s.without B

@[simp] theorem dropImage_without (s : State) (b : Block) (B : List Blk) (hB : [.flash] ⊆ B) :
    (dropImage s b).without B = s.without B := by
  simp only [List.cons_subset, List.nil_subset, and_true] at hB
  unfold dropImage; (repeat' split) <;> simp [*]

grind_pattern dropImage_without => dropImage s b, s.without B

/-! ## Command.lean -/

@[simp] theorem openRequest_without (s : State) (c : Cmd) (B : List Blk) (hB : [.hbm] ⊆ B) :
    (openRequest s c).1.without B = s.without B := by
  simp only [List.cons_subset, List.nil_subset, and_true] at hB
  unfold openRequest
  have e := State.read_without s 2 c.addr c.len .clean B (by simp [hB])
  split
  · rfl
  · split
    · rename_i g; rw [g] at e; exact e
    · rename_i g; rw [g] at e
      dsimp only
      split
      · split <;> exact e
      · exact e

grind_pattern openRequest_without => openRequest s c, s.without B

@[simp] theorem acceptRequest_without (s : State) (c : Cmd) (p : List Byte) (seq : Nat) (B : List Blk) (hB : [.qau, .warden] ⊆ B) :
    (acceptRequest s c p seq).1.without B = s.without B := by
  simp only [List.cons_subset, List.nil_subset, and_true] at hB
  unfold acceptRequest; grind

grind_pattern acceptRequest_without => acceptRequest s c p seq, s.without B

@[simp] theorem takePin_without (s : State) (c : Cmd) (n csn lease : Nat) (B : List Blk) (hB : [.csn] ⊆ B) :
    (takePin s c n csn lease).without B = s.without B := by
  simp only [List.cons_subset, List.nil_subset, and_true] at hB
  simp [takePin, *]

grind_pattern takePin_without => takePin s c n csn lease, s.without B

@[simp] theorem holdForRun_without (s : State) (c : Cmd) (B : List Blk) (hB : [.qau] ⊆ B) :
    (holdForRun s c).without B = s.without B := by
  simp only [List.cons_subset, List.nil_subset, and_true] at hB
  simp [holdForRun, *]

grind_pattern holdForRun_without => holdForRun s c, s.without B

@[simp] theorem finishD_without (s : State) (c : Cmd) (status r0 r1 : Nat) (body : List Byte) (B : List Blk) (hB : [.qau, .hbm, .warden, .links] ⊆ B) :
    (finishD s c status r0 r1 body).without B = s.without B := by
  simp only [List.cons_subset, List.nil_subset, and_true] at hB
  simp [finishD, *]

grind_pattern finishD_without => finishD s c status r0 r1 body, s.without B

/-! ## Settings.lean -/

@[simp] theorem putSidefill_without (o : Open) (v : Nat) (s : State) (B : List Blk) (hB : [.alloc] ⊆ B) :
    (putSidefill o v s).without B = s.without B := by
  simp only [List.cons_subset, List.nil_subset, and_true] at hB
  unfold putSidefill; grind

grind_pattern putSidefill_without => putSidefill o v s, s.without B

@[simp] theorem putReelCtl_without (o : Open) (v : Nat) (s : State) (B : List Blk) (hB : [.reel] ⊆ B) :
    (putReelCtl o v s).without B = s.without B := by
  simp only [List.cons_subset, List.nil_subset, and_true] at hB
  unfold putReelCtl; grind

grind_pattern putReelCtl_without => putReelCtl o v s, s.without B

@[simp] theorem putSlotCfg_without (n : Nat) (o : Open) (v : Nat) (s : State) (B : List Blk) (hB : [.reel] ⊆ B) :
    (putSlotCfg n o v s).without B = s.without B := by
  simp only [List.cons_subset, List.nil_subset, and_true] at hB
  simp [putSlotCfg, *]

grind_pattern putSlotCfg_without => putSlotCfg n o v s, s.without B

@[simp] theorem putFcdCfg_without (o : Open) (v : Nat) (s : State) (B : List Blk) (hB : [.flash] ⊆ B) :
    (putFcdCfg o v s).without B = s.without B := by
  simp only [List.cons_subset, List.nil_subset, and_true] at hB
  unfold putFcdCfg; grind

grind_pattern putFcdCfg_without => putFcdCfg o v s, s.without B

@[simp] theorem putEngCtl_without (e : Nat) (o : Open) (v : Nat) (s : State) (B : List Blk) (hB : [.eng] ⊆ B) :
    (putEngCtl e o v s).without B = s.without B := by
  simp only [List.cons_subset, List.nil_subset, and_true] at hB
  unfold putEngCtl; grind

grind_pattern putEngCtl_without => putEngCtl e o v s, s.without B

@[simp] theorem putSchedCfg_without (o : Open) (v : Nat) (s : State) (B : List Blk) (hB : [.eng] ⊆ B) :
    (putSchedCfg o v s).without B = s.without B := by
  simp only [List.cons_subset, List.nil_subset, and_true] at hB
  unfold putSchedCfg; grind

grind_pattern putSchedCfg_without => putSchedCfg o v s, s.without B

@[simp] theorem putQClass_without (q : Nat) (o : Open) (v : Nat) (s : State) (B : List Blk) (hB : [.eng] ⊆ B) :
    (putQClass q o v s).without B = s.without B := by
  simp only [List.cons_subset, List.nil_subset, and_true] at hB
  simp [putQClass, *]

grind_pattern putQClass_without => putQClass q o v s, s.without B

@[simp] theorem putMmuCfg_without (o : Open) (v : Nat) (s : State) (B : List Blk) (hB : [.eng] ⊆ B) :
    (putMmuCfg o v s).without B = s.without B := by
  simp only [List.cons_subset, List.nil_subset, and_true] at hB
  unfold putMmuCfg; grind

grind_pattern putMmuCfg_without => putMmuCfg o v s, s.without B

@[simp] theorem putPwrCfg_without (o : Open) (v : Nat) (s : State) (B : List Blk) (hB : [.pwr] ⊆ B) :
    (putPwrCfg o v s).without B = s.without B := by
  simp only [List.cons_subset, List.nil_subset, and_true] at hB
  unfold putPwrCfg; grind

grind_pattern putPwrCfg_without => putPwrCfg o v s, s.without B

@[simp] theorem putPcieCfg_without (o : Open) (v : Nat) (s : State) (B : List Blk) (hB : [.links] ⊆ B) :
    (putPcieCfg o v s).without B = s.without B := by
  simp only [List.cons_subset, List.nil_subset, and_true] at hB
  unfold putPcieCfg; grind

grind_pattern putPcieCfg_without => putPcieCfg o v s, s.without B

@[simp] theorem putMgmtCfg_without (o : Open) (v : Nat) (s : State) (B : List Blk) (hB : [.freeCtr, .links] ⊆ B) :
    (putMgmtCfg o v s).without B = s.without B := by
  simp only [List.cons_subset, List.nil_subset, and_true] at hB
  unfold putMgmtCfg; grind

grind_pattern putMgmtCfg_without => putMgmtCfg o v s, s.without B

@[simp] theorem putRstLock_without (o : Open) (v : Nat) (s : State) (B : List Blk) (hB : [.mod] ⊆ B) :
    (putRstLock o v s).without B = s.without B := by
  simp only [List.cons_subset, List.nil_subset, and_true] at hB
  simp [putRstLock, *]

grind_pattern putRstLock_without => putRstLock o v s, s.without B

@[simp] theorem putMaintBit_without (q : Nat) (o : Open) (v : Nat) (s : State) (B : List Blk) (hB : [.qau] ⊆ B) :
    (putMaintBit q o v s).without B = s.without B := by
  simp only [List.cons_subset, List.nil_subset, and_true] at hB
  simp [putMaintBit, *]

grind_pattern putMaintBit_without => putMaintBit q o v s, s.without B

@[simp] theorem putRwl_without (blk off : Nat) (o : Open) (v : Nat) (s : State) (B : List Blk) (hB : [.freeCtr, .mod, .qau, .alloc, .flash, .reel, .eng, .pwr, .links] ⊆ B) :
    (putRwl blk off o v s).without B = s.without B := by
  simp only [List.cons_subset, List.nil_subset, and_true] at hB
  unfold putRwl
  repeat (first | rw [apply_ite (fun t => State.without t B)] | rfl)
  simp [hB]

grind_pattern putRwl_without => putRwl blk off o v s, s.without B

@[simp] theorem applyLock_without (s : State) (l : Lock) (B : List Blk) (hB : [.freeCtr, .mod, .qau, .alloc, .flash, .reel, .eng, .pwr, .links] ⊆ B) :
    (applyLock s l).without B = s.without B := by
  simp only [List.cons_subset, List.nil_subset, and_true] at hB
  unfold applyLock; dsimp only; (repeat' split) <;> simp_all

grind_pattern applyLock_without => applyLock s l, s.without B

@[simp] theorem applyLocks_without (s : State) (ls : List Lock) (B : List Blk) (hB : [.freeCtr, .mod, .qau, .alloc, .flash, .reel, .eng, .warden, .pwr, .links] ⊆ B) :
    (applyLocks s ls).without B = s.without B := by
  simp only [List.cons_subset, List.nil_subset, and_true] at hB
  simp [applyLocks, *]

grind_pattern applyLocks_without => applyLocks s ls, s.without B

/-! ## Owner.lean -/

@[simp] theorem extendMr_without (s : State) (i : Nat) (d : BitVec 256) (B : List Blk) (hB : [.warden] ⊆ B) :
    (extendMr s i d).without B = s.without B := by
  simp only [List.cons_subset, List.nil_subset, and_true] at hB
  simp [extendMr, *]

grind_pattern extendMr_without => extendMr s i d, s.without B

@[simp] theorem addAudit_without (s : State) (type : Nat) (digest : BitVec 256) (B : List Blk) (hB : [.warden] ⊆ B) :
    (addAudit s type digest).without B = s.without B := by
  simp only [List.cons_subset, List.nil_subset, and_true] at hB
  simp [addAudit, *]

grind_pattern addAudit_without => addAudit s type digest, s.without B

@[simp] theorem addAuditFree_without (s : State) (B : List Blk) (hB : [.freeCtr, .warden] ⊆ B) :
    (addAuditFree s).without B = s.without B := by
  simp only [List.cons_subset, List.nil_subset, and_true] at hB
  simp [addAuditFree, *]

grind_pattern addAuditFree_without => addAuditFree s, s.without B

@[simp] theorem auditDigest_without (s : State) (x1 : List Byte) (B : List Blk) (hB : [.warden] ⊆ B) :
    (auditDigest s x1).without B = s.without B := by
  simp only [List.cons_subset, List.nil_subset, and_true] at hB
  simp [auditDigest, *]

grind_pattern auditDigest_without => auditDigest s x1, s.without B

@[simp] theorem collEvent_without (s : State) (code src cid : Nat) (B : List Blk) (hB : [.qau, .hbm, .warden, .links] ⊆ B) :
    (collEvent s code src cid).without B = s.without B := by
  simp only [List.cons_subset, List.nil_subset, and_true] at hB
  unfold collEvent; split <;> simp [*]

grind_pattern collEvent_without => collEvent s code src cid, s.without B

@[simp] theorem drbg32_without (s : State) (B : List Blk) (hB : [.warden] ⊆ B) :
    (drbg32 s).2.without B = s.without B := by
  simp only [List.cons_subset, List.nil_subset, and_true] at hB
  simp [drbg32, *]

grind_pattern drbg32_without => drbg32 s, s.without B

@[simp] theorem dropChallenge_without (s : State) (c : BitVec 256) (B : List Blk) (hB : [.warden] ⊆ B) :
    (dropChallenge s c).without B = s.without B := by
  simp only [List.cons_subset, List.nil_subset, and_true] at hB
  simp [dropChallenge, *]

grind_pattern dropChallenge_without => dropChallenge s c, s.without B

@[simp] theorem maintBody_without (s : State) (c : Cmd) (B : List Blk) (hB : [.hbm] ⊆ B) :
    (maintBody s c).1.without B = s.without B := by
  simp only [List.cons_subset, List.nil_subset, and_true] at hB
  unfold maintBody; grind

grind_pattern maintBody_without => maintBody s c, s.without B

@[simp] theorem runMaint_without (s : State) (q sub : Nat) (authAt : List Byte → Option Nat)
    (checks : State → Cmd → List Byte → Bool → Option Nat) (run : MaintRun) (B : List Blk)
    (hB : [.qau, .hbm, .warden, .links] ⊆ B) (hr : ∀ s c bs t, run s c bs = some t → t.without B = s.without B) :
    (runMaint s q sub authAt checks run).without B = s.without B := by
  simp only [List.cons_subset, List.nil_subset, and_true] at hB
  unfold runMaint
  dsimp only
  split
  · rfl
  · rename_i c _
    split
    · simp [hB]
    · split
      · simp [hB]
      · have e := maintBody_without s c B (by simp [hB])
        generalize maintBody s c = r at *
        split
        · simp [hB, e]
        · rename_i ch bs _
          have tail : ∀ u : State, u.without B = s.without B →
              (if !r.2.2 then fail u c stFault
               else match checks u c bs (r.2.1.isSome && (c.rlen = 0 || reachable r.1 c.raddr c.rlen)) with
                 | some st => fail u c st
                 | none =>
                   if admissionStopped u then holdForRun u { c with body := bs, adm := pinnedCsn u sub bs }
                   else (run u { c with body := bs, adm := pinnedCsn u sub bs } bs).getD s).without B = s.without B := by
            intro u hu
            split
            · simp [hB, hu]
            · split
              · simp [hB, hu]
              · split
                · simp [hB, hu]
                · cases hrun : run u { c with body := bs, adm := pinnedCsn u sub bs } bs with
                  | none => rfl
                  | some t => exact (hr _ _ _ _ hrun).trans hu
          cases ch with
          | none => exact tail _ e
          | some ch => exact tail _ (by simp [hB, e])



@[simp] theorem noteRelease_without (s : State) (c : Cmd) (B : List Blk) (hB : [.freeCtr, .warden] ⊆ B) :
    (noteRelease s c).without B = s.without B := by
  simp only [List.cons_subset, List.nil_subset, and_true] at hB
  unfold noteRelease; dsimp only; (repeat' split) <;> simp [hB]

grind_pattern noteRelease_without => noteRelease s c, s.without B

end Sys2Proof.Machine
end

