-- ==== Sys2Proof/Laws/FrameSearch.lean ====
section
/-! SUPPORT. What each shared operation leaves unchanged: searches, Ocelm issue, the bus, DMA, refine, pages, scans and selection. A lemma `f_without` says that `f` changes
no part of State outside the list it names. -/

namespace Sys2Proof.Machine

/-! ## Search.lean -/

@[simp] theorem plainReq_without (s : State) (c : Cmd) (B : List Blk) (hB : [.hbm] ⊆ B) :
    (plainReq s c).1.without B = s.without B := by
  simp only [List.cons_subset, List.nil_subset, and_true] at hB
  unfold plainReq; grind

grind_pattern plainReq_without => plainReq s c, s.without B

@[simp] theorem loadOn_without (s : State) (n w : Nat) (x : SlotCtx) (paced : Bool) (B : List Blk) (hB : [.reel] ⊆ B) :
    (loadOn s n w x paced).without B = s.without B := by
  simp only [List.cons_subset, List.nil_subset, and_true] at hB
  simp [loadOn, *]

grind_pattern loadOn_without => loadOn s n w x paced, s.without B

@[simp] theorem loadSlot_without (s : State) (n : Nat) (c : Cmd) (j : SearchJob) (B : List Blk) (hB : [.qau, .reel, .eng] ⊆ B) :
    (loadSlot s n c j).without B = s.without B := by
  simp only [List.cons_subset, List.nil_subset, and_true] at hB
  simp [loadSlot, *]

grind_pattern loadSlot_without => loadSlot s n c j, s.without B

@[simp] theorem lutReady_without (s : State) (c : Cmd) (j : SearchJob) (B : List Blk) (hB : [.qau, .reel, .eng] ⊆ B) :
    (lutReady s c j).without B = s.without B := by
  simp only [List.cons_subset, List.nil_subset, and_true] at hB
  unfold lutReady; (repeat' split) <;> simp [*]

grind_pattern lutReady_without => lutReady s c j, s.without B

@[simp] theorem waitSave_without (s : State) (B : List Blk) (hB : [.freeCtr, .eng] ⊆ B) :
    (waitSave s).without B = s.without B := by
  simp only [List.cons_subset, List.nil_subset, and_true] at hB
  simp [waitSave, *]

grind_pattern waitSave_without => waitSave s, s.without B

@[simp] theorem returnWork_without (s : State) (w : Work) (B : List Blk) (hB : [.eng] ⊆ B) :
    (returnWork s w).without B = s.without B := by
  simp only [List.cons_subset, List.nil_subset, and_true] at hB
  simp [returnWork, *]

grind_pattern returnWork_without => returnWork s w, s.without B

@[simp] theorem saveContext_without (s : State) (e : Nat) (B : List Blk) (hB : [.eng] ⊆ B) :
    (saveContext s e).without B = s.without B := by
  simp only [List.cons_subset, List.nil_subset, and_true] at hB
  unfold saveContext; (repeat' split) <;> simp [*]

grind_pattern saveContext_without => saveContext s e, s.without B

@[simp] theorem markTest_without (s : State) (n : Nat) (paused : optParam Bool true) (B : List Blk) (hB : [.maint] ⊆ B) :
    (markTest s n paused).without B = s.without B := by
  simp only [List.cons_subset, List.nil_subset, and_true] at hB
  simp [markTest, *]

grind_pattern markTest_without => markTest s n paused, s.without B

@[simp] theorem saveEncode_without (s : State) (e : Nat) (B : List Blk) (hB : [.qau, .eng, .maint] ⊆ B) :
    (saveEncode s e).without B = s.without B := by
  simp only [List.cons_subset, List.nil_subset, and_true] at hB
  unfold saveEncode; (repeat' split) <;> simp [*]

grind_pattern saveEncode_without => saveEncode s e, s.without B

@[simp] theorem formGroup_without (s : State) (cid n : Nat) (ms : List Nat) (B : List Blk) (hB : [.freeCtr, .qau, .eng, .maint] ⊆ B) :
    (formGroup s cid n ms).without B = s.without B := by
  simp only [List.cons_subset, List.nil_subset, and_true] at hB
  unfold formGroup
  dsimp only
  rw [foldl_without B _ (fun s e => by simp [hB])]
  simp only [without_mk, hB, or_true, true_or]
  exact foldl_without B _ (fun s e => by split <;> simp [hB]) _ _

grind_pattern formGroup_without => formGroup s cid n ms, s.without B

theorem joinGroup_without (s : State) (cid n : Nat) (B : List Blk) (hB : [.freeCtr, .qau, .eng, .maint] ⊆ B) (t : State × List Nat) (h : joinGroup s cid n = some t) :
    t.1.without B = s.without B := by
  simp only [List.cons_subset, List.nil_subset, and_true] at hB
  unfold joinGroup at h
  generalize groupSize (issuedSides s cid) = k at h
  extract_lets o at h
  clear_value o
  split at h
  · obtain rfl := Option.some.inj h
    simp [hB]
  · split at h
    · cases h
    · obtain rfl := Option.some.inj h
      simp [hB]

grind_pattern joinGroup_without => joinGroup s cid n, some t, s.without B

@[simp] theorem dropFromGroups_without (s : State) (p : LapGroup → Bool) (n : Nat) (B : List Blk) (hB : [.eng] ⊆ B) :
    (dropFromGroups s p n).without B = s.without B := by
  simp only [List.cons_subset, List.nil_subset, and_true] at hB
  simp [dropFromGroups, *]

grind_pattern dropFromGroups_without => dropFromGroups s p n, s.without B

@[simp] theorem clearSlot_without (s : State) (n : Nat) (B : List Blk) (hB : [.reel, .sel, .eng] ⊆ B) :
    (clearSlot s n).without B = s.without B := by
  simp only [List.cons_subset, List.nil_subset, and_true] at hB
  simp [clearSlot, *]

grind_pattern clearSlot_without => clearSlot s n, s.without B

@[simp] theorem addWork_without (s : State) (cls cmd : Nat) (w : EngWork) (B : List Blk) (hB : [.eng] ⊆ B) :
    (addWork s cls cmd w).without B = s.without B := by
  simp only [List.cons_subset, List.nil_subset, and_true] at hB
  simp [addWork, *]

grind_pattern addWork_without => addWork s cls cmd w, s.without B

@[simp] theorem askLut_without (s : State) (c : Cmd) (j : SearchJob) (B : List Blk) (hB : [.qau, .eng] ⊆ B) :
    (askLut s c j).without B = s.without B := by
  simp only [List.cons_subset, List.nil_subset, and_true] at hB
  simp [askLut, *]

grind_pattern askLut_without => askLut s c j, s.without B

@[simp] theorem admitSearch_without (s : State) (c : Cmd) (j : SearchJob) (B : List Blk) (hB : [.freeCtr, .qau, .csn, .eng, .maint] ⊆ B) :
    (admitSearch s c j).without B = s.without B := by
  simp only [List.cons_subset, List.nil_subset, and_true] at hB
  unfold admitSearch
  dsimp only
  split <;> split <;> simp [hB]

grind_pattern admitSearch_without => admitSearch s c j, s.without B

@[simp] theorem checkSearch_without (s : State) (c : Cmd) (r : SearchReq) (bufOk readOk : Bool) (B : List Blk) (hB : [.freeCtr, .qau, .csn, .hbm, .eng, .warden, .maint, .links] ⊆ B) :
    (checkSearch s c r bufOk readOk).without B = s.without B := by
  simp only [List.cons_subset, List.nil_subset, and_true] at hB
  unfold checkSearch; dsimp only; (repeat' split) <;> simp_all

grind_pattern checkSearch_without => checkSearch s c r bufOk readOk, s.without B

@[simp] theorem runSearch_without (s : State) (q op : Nat) (B : List Blk) (hB : [.freeCtr, .qau, .csn, .hbm, .eng, .warden, .maint, .links] ⊆ B) :
    (runSearch s q op).without B = s.without B := by
  simp only [List.cons_subset, List.nil_subset, and_true] at hB
  unfold runSearch
  split
  · rfl
  · rename_i c _
    split
    · simp [hB]
    · split
      · have e := openRequest_without s c B (by simp [hB])
        split
        · rename_i g; rw [g] at e; simp_all
        · rename_i g; rw [g] at e
          dsimp only
          simp [hB, ← e]
      · dsimp only
        simp [hB]

grind_pattern runSearch_without => runSearch s q op, s.without B

theorem giveSlot_without (s : State) (n : Nat) (c : Cmd) (j : SearchJob) (B : List Blk) (hB : [.freeCtr, .qau, .reel, .eng, .maint] ⊆ B) (t : State) (h : giveSlot s n c j = some t) :
    t.without B = s.without B := by
  simp only [List.cons_subset, List.nil_subset, and_true] at hB
  unfold giveSlot at h
  obtain ⟨⟨u, ms⟩, hj, rfl⟩ := Option.map_eq_some_iff.mp h
  have e : u.without B = s.without B := by
    split at hj
    · cases hj; rfl
    · exact joinGroup_without _ _ _ B (by simp [hB]) _ hj
  dsimp only
  split <;> simp [hB, e]

grind_pattern giveSlot_without => giveSlot s n c j, some t, s.without B

@[simp] theorem admitTo_without (s : State) (n : Nat) (a : List (Cmd × SearchJob)) (B : List Blk) (hB : [.freeCtr, .qau, .reel, .eng, .maint] ⊆ B) :
    (admitTo s n a).without B = s.without B := by
  simp only [List.cons_subset, List.nil_subset, and_true] at hB
  induction a generalizing s n with
  | nil => rfl
  | cons p t ih =>
    unfold admitTo
    split
    · split
      · rename_i g; exact giveSlot_without _ _ _ _ B (by simp [hB]) _ g
      · exact ih _ _
    · exact ih _ _

grind_pattern admitTo_without => admitTo s n a, s.without B

/-! ## Scan.lean -/

@[simp] theorem noteBadRow_without (s : State) (w row : Nat) (B : List Blk) (hB : [.hbm] ⊆ B) :
    (noteBadRow s w row).without B = s.without B := by
  simp only [List.cons_subset, List.nil_subset, and_true] at hB
  simp [noteBadRow, *]

grind_pattern noteBadRow_without => noteBadRow s w row, s.without B

@[simp] theorem noteDie_without (s : State) (w : Nat) (B : List Blk) (hB : [.freeCtr, .hbm] ⊆ B) :
    (noteDie s w).without B = s.without B := by
  simp only [List.cons_subset, List.nil_subset, and_true] at hB
  unfold noteDie; grind

grind_pattern noteDie_without => noteDie s w, s.without B

@[simp] theorem noteCorrected_without (s : State) (w : Nat) (B : List Blk) (hB : [.freeCtr, .hbm] ⊆ B) :
    (noteCorrected s w).without B = s.without B := by
  simp only [List.cons_subset, List.nil_subset, and_true] at hB
  unfold noteCorrected; grind

grind_pattern noteCorrected_without => noteCorrected s w, s.without B

@[simp] theorem quarantine_without (s : State) (w x2 : Nat) (b : Block) (ns : List Nat) (f : ScanFail) (B : List Blk) (hB : [.freeCtr, .corpus, .reel, .hbm] ⊆ B) :
    (quarantine s w x2 b ns f).without B = s.without B := by
  simp only [List.cons_subset, List.nil_subset, and_true] at hB
  simp [quarantine, *]

grind_pattern quarantine_without => quarantine s w x2 b ns f, s.without B

@[simp] theorem scanFor_without (s : State) (w x2 : Nat) (b : Block) (ns : List Nat) (f : ScanFail) (caught : Bool) (B : List Blk) (hB : [.freeCtr, .corpus, .reel, .hbm] ⊆ B) :
    (scanFor s w x2 b ns f caught).without B = s.without B := by
  simp only [List.cons_subset, List.nil_subset, and_true] at hB
  unfold scanFor; grind

grind_pattern scanFor_without => scanFor s w x2 b ns f caught, s.without B

@[simp] theorem leaveWeevil_without (s : State) (w n : Nat) (B : List Blk) (hB : [.reel] ⊆ B) :
    (leaveWeevil s w n).without B = s.without B := by
  simp only [List.cons_subset, List.nil_subset, and_true] at hB
  unfold leaveWeevil; (repeat' split) <;> simp [*]

grind_pattern leaveWeevil_without => leaveWeevil s w n, s.without B

@[simp] theorem beginSlots_without (s : State) (w x2 : Nat) (paced : Bool) (B : List Blk) (hB : [.reel] ⊆ B) :
    (beginSlots s w x2 paced).without B = s.without B := by
  simp only [List.cons_subset, List.nil_subset, and_true] at hB
  unfold beginSlots
  dsimp only
  split
  · simp [hB]
  · rw [foldl_without B _ (fun s n => by (repeat' split) <;> simp [hB])]; simp [hB]

grind_pattern beginSlots_without => beginSlots s w x2 paced, s.without B

@[simp] theorem notePaced_without (s : State) (w : Nat) (B : List Blk) (hB : [.reel] ⊆ B) :
    (notePaced s w).without B = s.without B := by
  simp only [List.cons_subset, List.nil_subset, and_true] at hB
  simp [notePaced, *]

grind_pattern notePaced_without => notePaced s w, s.without B

@[simp] theorem sweep_without (s : State) (w x2 : Nat) (b : Block) (f : ScanFail) (B : List Blk) (hB : [.freeCtr, .corpus, .reel, .hbm] ⊆ B) :
    (sweep s w x2 b f).without B = s.without B := by
  simp only [List.cons_subset, List.nil_subset, and_true] at hB
  unfold sweep; grind

grind_pattern sweep_without => sweep s w x2 b f, s.without B

@[simp] theorem leavePassed_without (s : State) (w x2 h' : Nat) (B : List Blk) (hB : [.reel] ⊆ B) :
    (leavePassed s w x2 h').without B = s.without B := by
  simp only [List.cons_subset, List.nil_subset, and_true] at hB
  simp [leavePassed, *]

grind_pattern leavePassed_without => leavePassed s w x2 h', s.without B

@[simp] theorem advance_without (s : State) (w x2 : Nat) (B : List Blk) (hB : [.reel] ⊆ B) :
    (advance s w x2).without B = s.without B := by
  simp only [List.cons_subset, List.nil_subset, and_true] at hB
  simp [advance, *]

grind_pattern advance_without => advance s w x2, s.without B

@[simp] theorem resumeAt_without (s : State) (w x2 : Nat) (B : List Blk) (hB : [.reel] ⊆ B) :
    (resumeAt s w x2).without B = s.without B := by
  simp only [List.cons_subset, List.nil_subset, and_true] at hB
  unfold resumeAt; (repeat' split) <;> simp [*]

grind_pattern resumeAt_without => resumeAt s w x2, s.without B

@[simp] theorem holdIfFull_without (s : State) (w : Nat) (B : List Blk) (hB : [.reel] ⊆ B) :
    (holdIfFull s w).without B = s.without B := by
  simp only [List.cons_subset, List.nil_subset, and_true] at hB
  simp [holdIfFull, *]

grind_pattern holdIfFull_without => holdIfFull s w, s.without B

@[simp] theorem catchUp_without (s : State) (w x2 : Nat) (f : ScanFail) (B : List Blk) (hB : [.freeCtr, .corpus, .reel, .hbm] ⊆ B) :
    (catchUp s w x2 f).without B = s.without B := by
  simp only [List.cons_subset, List.nil_subset, and_true] at hB
  unfold catchUp
  split
  · rfl
  · dsimp only
    split
    · rfl
    · simp [hB]

grind_pattern catchUp_without => catchUp s w x2 f, s.without B

@[simp] theorem slotFault_without (s : State) (n : Nat) (B : List Blk) (hB : [.freeCtr, .qau, .reel, .sel, .hbm, .eng, .warden, .links] ⊆ B) :
    (slotFault s n).without B = s.without B := by
  simp only [List.cons_subset, List.nil_subset, and_true] at hB
  unfold slotFault; dsimp only; (repeat' split) <;> simp_all

grind_pattern slotFault_without => slotFault s n, s.without B

@[simp] theorem scanStep_without (s : State) (w : Nat) (f : ScanFail) (B : List Blk) (hB : [.freeCtr, .corpus, .reel, .hbm] ⊆ B) :
    (scanStep s w f).without B = s.without B := by
  simp only [List.cons_subset, List.nil_subset, and_true] at hB
  unfold scanStep; dsimp only; (repeat' split) <;> simp_all

grind_pattern scanStep_without => scanStep s w f, s.without B

@[simp] theorem lapChunkFor_without (s : State) (e c : Nat) (failed : Bool) (B : List Blk) (hB : [.eng] ⊆ B) :
    (lapChunkFor s e c failed).without B = s.without B := by
  simp only [List.cons_subset, List.nil_subset, and_true] at hB
  simp [lapChunkFor, *]

grind_pattern lapChunkFor_without => lapChunkFor s e c failed, s.without B

@[simp] theorem lapCatchUp_without (s : State) (e : Nat) (B : List Blk) (hB : [.eng] ⊆ B) :
    (lapCatchUp s e).without B = s.without B := by
  simp only [List.cons_subset, List.nil_subset, and_true] at hB
  simp [lapCatchUp, *]

grind_pattern lapCatchUp_without => lapCatchUp s e, s.without B

@[simp] theorem leaveMember_without (s : State) (e n : Nat) (B : List Blk) (hB : [.eng] ⊆ B) :
    (leaveMember s e n).without B = s.without B := by
  simp only [List.cons_subset, List.nil_subset, and_true] at hB
  unfold leaveMember; (repeat' split) <;> simp [*]

grind_pattern leaveMember_without => leaveMember s e n, s.without B

@[simp] theorem noteChunk_without (s : State) (c : Nat) (cid : W16) (B : List Blk) (hB : [.freeCtr, .hbm] ⊆ B) :
    (noteChunk s c cid).without B = s.without B := by
  simp only [List.cons_subset, List.nil_subset, and_true] at hB
  unfold noteChunk; grind

grind_pattern noteChunk_without => noteChunk s c cid, s.without B

@[simp] theorem lapStep_without (s : State) (e : Nat) (failed : Bool) (B : List Blk) (hB : [.freeCtr, .hbm, .eng] ⊆ B) :
    (lapStep s e failed).without B = s.without B := by
  simp only [List.cons_subset, List.nil_subset, and_true] at hB
  unfold lapStep; dsimp only; (repeat' split) <;> simp_all

grind_pattern lapStep_without => lapStep s e failed, s.without B

/-! ## Select.lean -/

@[simp] theorem noteDup_without (s : State) (x : SlotCtx) (inc eq : Bool) (B : List Blk) (hB : [.qau, .sel, .hbm, .links] ⊆ B) :
    (noteDup s x inc eq).without B = s.without B := by
  simp only [List.cons_subset, List.nil_subset, and_true] at hB
  unfold noteDup; (repeat' split) <;> simp [*]

grind_pattern noteDup_without => noteDup s x inc eq, s.without B

@[simp] theorem setHalf_without (s : State) (i : Nat) (x2 : SelSlot) (B : List Blk) (hB : [.sel] ⊆ B) :
    (setHalf s i x2).without B = s.without B := by
  simp only [List.cons_subset, List.nil_subset, and_true] at hB
  simp [setHalf, *]

grind_pattern setHalf_without => setHalf s i x2, s.without B

@[simp] theorem sendThreshold_without (s : State) (n : Nat) (x : SlotCtx) (theta : Int) (B : List Blk) (hB : [.sel] ⊆ B) :
    (sendThreshold s n x theta).without B = s.without B := by
  simp only [List.cons_subset, List.nil_subset, and_true] at hB
  simp [sendThreshold, *]

grind_pattern sendThreshold_without => sendThreshold s n x theta, s.without B

@[simp] theorem onCand_without (s : State) (i n : Nat) (x : SlotCtx) (e : Cand) (B : List Blk) (hB : [.qau, .sel, .hbm, .links] ⊆ B) :
    (onCand s i n x e).without B = s.without B := by
  simp only [List.cons_subset, List.nil_subset, and_true] at hB
  unfold onCand
  generalize SlotCtx.n x = k
  dsimp only
  split
  · simp [hB]
  · split
    · simp [hB]
    · split
      · rfl
      · (repeat' split) <;> simp [hB]

grind_pattern onCand_without => onCand s i n x e, s.without B

@[simp] theorem popPort_without (s : State) (a : Port) (B : List Blk) (hB : [.reel, .eng] ⊆ B) :
    (popPort s a).without B = s.without B := by
  simp only [List.cons_subset, List.nil_subset, and_true] at hB
  unfold popPort; (repeat' split) <;> simp [*]

grind_pattern popPort_without => popPort s a, s.without B

@[simp] theorem countPassed_without (s : State) (p : Port) (n : Nat) (B : List Blk) (hB : [.sel] ⊆ B) :
    (countPassed s p n).without B = s.without B := by
  simp only [List.cons_subset, List.nil_subset, and_true] at hB
  unfold countPassed; (repeat' split) <;> simp [*]

grind_pattern countPassed_without => countPassed s p n, s.without B

@[simp] theorem countEntry_without (s : State) (p : Port) (n : Nat) (x : SlotCtx) (B : List Blk) (hB : [.sel] ⊆ B) :
    (countEntry s p n x).without B = s.without B := by
  simp only [List.cons_subset, List.nil_subset, and_true] at hB
  unfold countEntry; (repeat' split) <;> simp [*]

grind_pattern countEntry_without => countEntry s p n x, s.without B

@[simp] theorem lineFault_without (s : State) (n a : Nat) (hide : Bool) (B : List Blk) (hB : [.freeCtr, .qau, .reel, .sel, .hbm, .eng, .warden, .links] ⊆ B) :
    (lineFault s n a hide).without B = s.without B := by
  simp only [List.cons_subset, List.nil_subset, and_true] at hB
  unfold lineFault; (repeat' split) <;> simp [*]

grind_pattern lineFault_without => lineFault s n a hide, s.without B

/-! ## Refine.lean -/

@[simp] theorem noteRetried_without (s : State) (fs : List Nat) (B : List Blk) (hB : [.flash] ⊆ B) :
    (noteRetried s fs).without B = s.without B := by
  simp only [List.cons_subset, List.nil_subset, and_true] at hB
  simp [noteRetried, *]

grind_pattern noteRetried_without => noteRetried s fs, s.without B

@[simp] theorem countUnit_without (s : State) (f : Nat) (sealed : Bool) (o : FlashRead) (B : List Blk) (hB : [.flash] ⊆ B) :
    (countUnit s f sealed o).without B = s.without B := by
  simp only [List.cons_subset, List.nil_subset, and_true] at hB
  unfold countUnit; (repeat' split) <;> simp [*]

grind_pattern countUnit_without => countUnit s f sealed o, s.without B

@[simp] theorem countRead_without (s : State) (fs : List Nat) (sealed : Bool) (o : FlashRead) (B : List Blk) (hB : [.flash] ⊆ B) :
    (countRead s fs sealed o).without B = s.without B := by
  simp only [List.cons_subset, List.nil_subset, and_true] at hB
  unfold countRead; (repeat' split) <;> simp [*]

grind_pattern countRead_without => countRead s fs sealed o, s.without B

@[simp] theorem noteLost_without (s : State) (b : Nat) (v : VSlot) (B : List Blk) (hB : [.qau, .hbm, .warden, .links] ⊆ B) :
    (noteLost s b v).without B = s.without B := by
  simp only [List.cons_subset, List.nil_subset, and_true] at hB
  unfold noteLost; split <;> simp [hB]

grind_pattern noteLost_without => noteLost s b v, s.without B

@[simp] theorem loseSlots_without (s : State) (b fla : Nat) (B : List Blk) (hB : [.qau, .flash, .hbm, .warden, .links] ⊆ B) :
    (loseSlots s b fla).without B = s.without B := by
  simp only [List.cons_subset, List.nil_subset, and_true] at hB
  unfold loseSlots
  apply foldl_without
  intro t e
  (repeat' split) <;> simp [*]

grind_pattern loseSlots_without => loseSlots s b fla, s.without B

@[simp] theorem losePayloadAt_without (s : State) (a : W64) (B : List Blk) (hB : [.flash] ⊆ B) :
    (losePayloadAt s a).without B = s.without B := by
  simp only [List.cons_subset, List.nil_subset, and_true] at hB
  unfold losePayloadAt; (repeat' split) <;> simp [*]

grind_pattern losePayloadAt_without => losePayloadAt s a, s.without B

@[simp] theorem losePayloads_without (s : State) (fla : Nat) (B : List Blk) (hB : [.flash] ⊆ B) :
    (losePayloads s fla).without B = s.without B := by
  simp only [List.cons_subset, List.nil_subset, and_true] at hB
  unfold losePayloads; (repeat' split) <;> simp [*]

grind_pattern losePayloads_without => losePayloads s fla, s.without B

@[simp] theorem loseBacking_without (s : State) (fla : Nat) (B : List Blk) (hB : [.flash] ⊆ B) :
    (loseBacking s fla).without B = s.without B := by
  simp only [List.cons_subset, List.nil_subset, and_true] at hB
  unfold loseBacking; (repeat' split) <;> simp [*]

grind_pattern loseBacking_without => loseBacking s fla, s.without B

@[simp] theorem renewImages_without (s : State) (fla : Nat) (B : List Blk) (hB : [.corpus, .flash] ⊆ B) :
    (renewImages s fla).without B = s.without B := by
  simp only [List.cons_subset, List.nil_subset, and_true] at hB
  unfold renewImages
  apply foldl_without
  intro t e
  dsimp only
  split
  · simp [*]
  · simp [programImage_without _ _ B (by simp [hB]), *]

grind_pattern renewImages_without => renewImages s fla, s.without B

@[simp] theorem loseUnit_without (s : State) (b fla : Nat) (B : List Blk) (hB : [.qau, .corpus, .flash, .hbm, .warden, .links] ⊆ B) :
    (loseUnit s b fla).without B = s.without B := by
  simp only [List.cons_subset, List.nil_subset, and_true] at hB
  simp [loseUnit, *]

grind_pattern loseUnit_without => loseUnit s b fla, s.without B

@[simp] theorem ownUnit_without (sealed : Bool) (s : State) (f : Nat) (B : List Blk) (hB : [.freeCtr, .qau, .corpus, .flash, .hbm, .warden, .links] ⊆ B) :
    (ownUnit sealed s f).without B = s.without B := by
  simp only [List.cons_subset, List.nil_subset, and_true] at hB
  unfold ownUnit; grind

grind_pattern ownUnit_without => ownUnit sealed s f, s.without B

@[simp] theorem ownRead_without (s : State) (fs : List Nat) (sealed : Bool) (B : List Blk) (hB : [.freeCtr, .qau, .corpus, .flash, .hbm, .warden, .links] ⊆ B) :
    (ownRead s fs sealed).without B = s.without B := by
  simp only [List.cons_subset, List.nil_subset, and_true] at hB
  simp [ownRead, *]

grind_pattern ownRead_without => ownRead s fs sealed, s.without B

@[simp] theorem took_without (s : State) (ran : Bool) (B : List Blk) (hB : [.freeCtr] ⊆ B) :
    (took s ran).2.without B = s.without B := by
  simp only [List.cons_subset, List.nil_subset, and_true] at hB
  unfold took; (repeat' split) <;> simp [*]

grind_pattern took_without => took s ran, s.without B

@[simp] theorem report_without (s : State) (c : Cmd) (j : SearchJob) (slot : Nat) (B : List Blk) (hB : [.freeCtr] ⊆ B) :
    (report s c j slot).1.without B = s.without B := by
  simp only [List.cons_subset, List.nil_subset, and_true] at hB
  simp [report, *]

grind_pattern report_without => report s c j slot, s.without B

@[simp] theorem endSearch_without (s : State) (c : Cmd) (j : SearchJob) (f : Final) (B : List Blk) (hB : [.freeCtr, .qau, .hbm, .warden, .links] ⊆ B) :
    (endSearch s c j f).without B = s.without B := by
  simp only [List.cons_subset, List.nil_subset, and_true] at hB
  unfold endSearch
  dsimp only
  split <;> simp [hB]

grind_pattern endSearch_without => endSearch s c j f, s.without B

@[simp] theorem afterRank_without (s : State) (c : Cmd) (j : SearchJob) (es : List (Cand × W32)) (ties : Nat) (B : List Blk) (hB : [.freeCtr, .qau, .hbm, .warden, .links] ⊆ B) :
    (afterRank s c j es ties).without B = s.without B := by
  simp only [List.cons_subset, List.nil_subset, and_true] at hB
  unfold afterRank; grind

grind_pattern afterRank_without => afterRank s c j es ties, s.without B

@[simp] theorem refineDone_without (s : State) (c : Cmd) (j : SearchJob) (B : List Blk) (hB : [.freeCtr, .qau, .hbm, .eng, .warden, .links] ⊆ B) :
    (refineDone s c j).without B = s.without B := by
  simp only [List.cons_subset, List.nil_subset, and_true] at hB
  unfold refineDone; (repeat' split) <;> simp [*]

grind_pattern refineDone_without => refineDone s c j, s.without B

@[simp] theorem sendJob_without (s : State) (r : RefineJob) (B : List Blk) (hB : [.flash] ⊆ B) :
    (sendJob s r).without B = s.without B := by
  simp only [List.cons_subset, List.nil_subset, and_true] at hB
  simp [sendJob, *]

grind_pattern sendJob_without => sendJob s r, s.without B

@[simp] theorem surplusJobs_without (cmd size : Nat) (live : List Nat) (a : Nat) (x4 : State) (B : List Blk) (hB : [.freeCtr, .flash] ⊆ B) :
    (surplusJobs cmd size live a x4).without B = x4.without B := by
  simp only [List.cons_subset, List.nil_subset, and_true] at hB
  induction a generalizing cmd live x4 <;> (unfold surplusJobs; grind)

grind_pattern surplusJobs_without => surplusJobs cmd size live a x4, x4.without B

@[simp] theorem dispatchRefine_without (s : State) (c : Cmd) (j : SearchJob) (B : List Blk) (hB : [.freeCtr, .qau, .flash, .hbm, .eng, .warden, .links] ⊆ B) :
    (dispatchRefine s c j).without B = s.without B := by
  simp only [List.cons_subset, List.nil_subset, and_true] at hB
  unfold dispatchRefine; dsimp only; (repeat' split) <;> simp_all

grind_pattern dispatchRefine_without => dispatchRefine s c j, s.without B

@[simp] theorem noteDups_without (s : State) (x : SlotCtx) (a x3 x4 : Nat) (B : List Blk) (hB : [.qau, .sel, .hbm, .links] ⊆ B) :
    (noteDups s x a x3 x4).without B = s.without B := by
  simp only [List.cons_subset, List.nil_subset, and_true] at hB
  induction a generalizing s x x3 x4 with
  | zero => rfl
  | succ n ih => simp [noteDups, ih, hB]

grind_pattern noteDups_without => noteDups s x a x3 x4, s.without B

@[simp] theorem endScan_without (s : State) (n : Nat) (sealed : Bool) (B : List Blk) (hB : [.freeCtr, .reel, .sel, .eng, .life] ⊆ B) :
    (endScan s n sealed).without B = s.without B := by
  simp only [List.cons_subset, List.nil_subset, and_true] at hB
  unfold endScan; (repeat' split) <;> simp [*]

grind_pattern endScan_without => endScan s n sealed, s.without B

@[simp] theorem scanDone_without (s : State) (n : Nat) (c : Cmd) (j : SearchJob) (B : List Blk) (hB : [.freeCtr, .qau, .flash, .reel, .sel, .hbm, .eng, .warden, .life, .links] ⊆ B) :
    (scanDone s n c j).without B = s.without B := by
  simp only [List.cons_subset, List.nil_subset, and_true] at hB
  unfold scanDone; dsimp only; (repeat' split) <;> simp_all

grind_pattern scanDone_without => scanDone s n c j, s.without B

@[simp] theorem readBack_without (s : State) (cmd : Nat) (f : SearchJob → SearchJob) (B : List Blk) (hB : [.freeCtr, .qau, .hbm, .eng, .warden, .links] ⊆ B) :
    (readBack s cmd f).without B = s.without B := by
  simp only [List.cons_subset, List.nil_subset, and_true] at hB
  unfold readBack; dsimp only; (repeat' split) <;> simp_all

grind_pattern readBack_without => readBack s cmd f, s.without B

/-! ## Bus.lean -/

@[simp] theorem respondEntry_without (s : State) (w status result : Nat) (body : List Byte) (B : List Blk) (hB : [.reel, .hbm] ⊆ B) :
    (respondEntry s w status result body).without B = s.without B := by
  simp only [List.cons_subset, List.nil_subset, and_true] at hB
  unfold respondEntry; (repeat' split) <;> simp [*]

grind_pattern respondEntry_without => respondEntry s w status result body, s.without B

@[simp] theorem settleWindow_without (w a : Nat) (x2 : State) (B : List Blk) (hB : [.reel, .hbm] ⊆ B) :
    (settleWindow w a x2).without B = x2.without B := by
  simp only [List.cons_subset, List.nil_subset, and_true] at hB
  induction a generalizing w x2 <;> (unfold settleWindow; grind)

grind_pattern settleWindow_without => settleWindow w a x2, x2.without B

@[simp] theorem respond_without (s : State) (w status result : Nat) (body : List Byte) (B : List Blk) (hB : [.reel, .hbm] ⊆ B) :
    (respond s w status result body).without B = s.without B := by
  simp only [List.cons_subset, List.nil_subset, and_true] at hB
  simp [respond, *]

grind_pattern respond_without => respond s w status result body, s.without B

@[simp] theorem acceptEntry_without (s : State) (w r k : Nat) (B : List Blk) (hB : [.reel, .hbm] ⊆ B) :
    (acceptEntry s w r k).without B = s.without B := by
  simp only [List.cons_subset, List.nil_subset, and_true] at hB
  unfold acceptEntry; (repeat' split) <;> simp [*]

grind_pattern acceptEntry_without => acceptEntry s w r k, s.without B

@[simp] theorem acceptV1_without (s : State) (w : Nat) (B : List Blk) (hB : [.reel, .hbm] ⊆ B) :
    (acceptV1 s w).without B = s.without B := by
  simp only [List.cons_subset, List.nil_subset, and_true] at hB
  unfold acceptV1; (repeat' split) <;> simp [*]

grind_pattern acceptV1_without => acceptV1 s w, s.without B

@[simp] theorem windowWritten_without (s : State) (w r o n : Nat) (B : List Blk) (hB : [.reel, .hbm] ⊆ B) :
    (windowWritten s w r o n).without B = s.without B := by
  simp only [List.cons_subset, List.nil_subset, and_true] at hB
  unfold windowWritten; (repeat' split) <;> simp [*]

grind_pattern windowWritten_without => windowWritten s w r o n, s.without B

@[simp] theorem drawBytes_without (a : Nat) (x1 : State) (B : List Blk) (hB : [.freeCtr] ⊆ B) :
    (drawBytes a x1).2.without B = x1.without B := by
  simp only [List.cons_subset, List.nil_subset, and_true] at hB
  induction a generalizing x1 <;> (unfold drawBytes; grind)

grind_pattern drawBytes_without => drawBytes a x1, x1.without B

@[simp] theorem rowsWritten_without (s : State) (a : Nat) (x2 : List Byte) (B : List Blk) (hB : [.corpus] ⊆ B) :
    (rowsWritten s a x2).without B = s.without B := by
  simp only [List.cons_subset, List.nil_subset, and_true] at hB
  unfold rowsWritten; (repeat' split) <;> simp [*]

grind_pattern rowsWritten_without => rowsWritten s a x2, s.without B

@[simp] theorem busRead_without (s : State) (r a n : Nat) (f : Finding) (B : List Blk) (hB : [.freeCtr, .hbm] ⊆ B) :
    (busRead s r a n f).1.without B = s.without B := by
  simp only [List.cons_subset, List.nil_subset, and_true] at hB
  unfold busRead
  have e := State.read_without s r a n f B (by simp [hB])
  split
  · rename_i g; rw [g] at e; exact e
  · rename_i g; rw [g] at e
    dsimp only
    split
    · exact e
    · split
      · simpa [hB] using e
      · exact e

grind_pattern busRead_without => busRead s r a n f, s.without B

@[simp] theorem busWrite_without (s : State) (r a : Nat) (x3 : List Byte) (f : Finding) (B : List Blk) (hB : [.corpus, .reel, .hbm] ⊆ B) :
    (busWrite s r a x3 f).1.without B = s.without B := by
  simp only [List.cons_subset, List.nil_subset, and_true] at hB
  unfold busWrite
  split
  · have e := State.write_without s r a x3 f B (by simp [hB])
    split
    · rename_i g; rw [g] at e; dsimp only; split <;> simp [hB, e]
    · rename_i g; rw [g] at e; exact e
  · dsimp only
    rename_i w k _
    have e := State.write_without s r a (x3.zipIdx.map (fun (b, i) =>
      if k ≤ i && winReadOnly (offOf (a + k) - windowOff + (i - k)) then s.byte (a + i) else b)) f B (by simp [hB])
    split
    · rename_i g; rw [g] at e; exact e
    · rename_i g; rw [g] at e; simpa [hB] using e

grind_pattern busWrite_without => busWrite s r a x3 f, s.without B

@[simp] theorem busAtomic_without (s : State) (r a ty op x cmp : Nat) (B : List Blk) (hB : [.hbm] ⊆ B) :
    (busAtomic s r a ty op x cmp).1.without B = s.without B := by
  simp only [List.cons_subset, List.nil_subset, and_true] at hB
  unfold busAtomic; grind

grind_pattern busAtomic_without => busAtomic s r a ty op x cmp, s.without B

/-! ## Issue.lean -/

@[simp] theorem dropCmd_without (s : State) (c : Cmd) (st : Nat) (B : List Blk) (hB : [.freeCtr, .qau, .reel, .sel, .hbm, .eng, .warden, .links] ⊆ B) :
    (dropCmd s c st).without B = s.without B := by
  simp only [List.cons_subset, List.nil_subset, and_true] at hB
  unfold dropCmd; (repeat' split) <;> simp [*]

grind_pattern dropCmd_without => dropCmd s c st, s.without B

@[simp] theorem dropBacking_without (s : State) (ps : List Page) (B : List Blk) (hB : [.flash] ⊆ B) :
    (dropBacking s ps).without B = s.without B := by
  simp only [List.cons_subset, List.nil_subset, and_true] at hB
  exact foldl_without B _ (fun s p => by grind) _ _

grind_pattern dropBacking_without => dropBacking s ps, s.without B

@[simp] theorem clearFrames_without (s : State) (x : Ctx) (B : List Blk) (hB : [.hbm] ⊆ B) :
    (clearFrames s x).without B = s.without B := by
  simp only [List.cons_subset, List.nil_subset, and_true] at hB
  unfold clearFrames
  split
  · exact foldl_without B _ (fun s p => by split <;> simp [zeroRange, hB]) _ _
  · rfl

grind_pattern clearFrames_without => clearFrames s x, s.without B

@[simp] theorem endContext_without (s : State) (c : Nat) (B : List Blk) (hB : [.flash, .hbm, .eng] ⊆ B) :
    (endContext s c).without B = s.without B := by
  simp only [List.cons_subset, List.nil_subset, and_true] at hB
  unfold endContext
  have h : (((s.ctx c).map (clearFrames s)).getD s).without B = s.without B := by
    cases s.ctx c <;> simp [hB]
  dsimp only
  split <;> (try split) <;> simp [hB, h]

grind_pattern endContext_without => endContext s c, s.without B

@[simp] theorem trapCtx_without (s : State) (c : Nat) (x : Ctx) (x3 : TrapRec) (B : List Blk) (hB : [.freeCtr, .qau, .flash, .reel, .sel, .hbm, .eng, .warden, .links] ⊆ B) :
    (trapCtx s c x x3).without B = s.without B := by
  simp only [List.cons_subset, List.nil_subset, and_true] at hB
  unfold trapCtx; dsimp only; (repeat' split) <;> simp_all

grind_pattern trapCtx_without => trapCtx s c x x3, s.without B

@[simp] theorem issueTrap_without (s : State) (c : Nat) (x : Ctx) (code info : Nat) (B : List Blk) (hB : [.freeCtr, .qau, .flash, .reel, .sel, .hbm, .eng, .warden, .links] ⊆ B) :
    (issueTrap s c x code info).without B = s.without B := by
  simp only [List.cons_subset, List.nil_subset, and_true] at hB
  simp [issueTrap, *]

grind_pattern issueTrap_without => issueTrap s c x code info, s.without B

@[simp] theorem frontStep_without (s : State) (e op : Nat) (plan : State → Ctx → Iw → Plan)
    (eff : State → Ctx → Iw → State × Ctx × Nat) (B : List Blk)
    (hB : [.freeCtr, .qau, .flash, .reel, .sel, .hbm, .eng, .warden, .links] ⊆ B) (he : ∀ s x w, (eff s x w).1.without B = s.without B) :
    (frontStep s e op plan eff).without B = s.without B := by
  simp only [List.cons_subset, List.nil_subset, and_true] at hB
  unfold frontStep
  split
  · rfl
  · simp [hB]
  · simp [hB, he]



@[simp] theorem frontTile_without (s : State) (e op : Nat) (plan : Ctx → Iw → Plan) (eff : Ctx → Iw → Ctx) (B : List Blk) (hB : [.freeCtr, .qau, .flash, .reel, .sel, .hbm, .eng, .warden, .links] ⊆ B) :
    (frontTile s e op plan eff).without B = s.without B := by
  simp only [List.cons_subset, List.nil_subset, and_true] at hB
  unfold frontTile; (repeat' split) <;> simp [*]

grind_pattern frontTile_without => frontTile s e op plan eff, s.without B

@[simp] theorem frontPure_without (s : State) (e op : Nat) (plan : Ctx → Iw → Plan) (eff : Ctx → Iw → Ctx) (B : List Blk) (hB : [.freeCtr, .qau, .flash, .reel, .sel, .hbm, .eng, .warden, .links] ⊆ B) :
    (frontPure s e op plan eff).without B = s.without B := by
  simp only [List.cons_subset, List.nil_subset, and_true] at hB
  simp [frontPure, *]

grind_pattern frontPure_without => frontPure s e op plan eff, s.without B

@[simp] theorem issueUnit_without (s : State) (e op : Nat) (u : OcUnit) (plan : State → Ctx → Iw → Plan) (front : Ctx → Iw → Ctx) (B : List Blk) (hB : [.freeCtr, .qau, .flash, .reel, .sel, .hbm, .eng, .warden, .links] ⊆ B) :
    (issueUnit s e op u plan front).without B = s.without B := by
  simp only [List.cons_subset, List.nil_subset, and_true] at hB
  unfold issueUnit; (repeat' split) <;> simp [*]

grind_pattern issueUnit_without => issueUnit s e op u plan front, s.without B

/-! ## Dma.lean -/

theorem deniedAt_without (s : State) (x : Ctx) (vas : List Nat) (B : List Blk) (hB : [.hbm] ⊆ B) (t : State × Stop) (h : deniedAt s x vas = some t) :
    t.1.without B = s.without B := by
  simp only [List.cons_subset, List.nil_subset, and_true] at hB
  unfold deniedAt at h
  obtain ⟨va, _, h⟩ := List.exists_of_findSome?_eq_some h
  (repeat' split at h) <;> cases h
  simp [hB]

grind_pattern deniedAt_without => deniedAt s x vas, some t, s.without B

@[simp] theorem readRuns_without (s : State) (a : List (Nat × Nat)) (B : List Blk) (hB : [.freeCtr, .hbm] ⊆ B) :
    (readRuns s a).1.without B = s.without B := by
  simp only [List.cons_subset, List.nil_subset, and_true] at hB
  induction a generalizing s with
  | nil => rfl
  | cons p t ih =>
    obtain ⟨a, n⟩ := p
    unfold readRuns
    have e := busRead_without s 1 a n .clean B (by simp [hB])
    split
    · rename_i g; rw [g] at e; exact e
    · rename_i s' bs g; rw [g] at e
      have i := ih s'
      split <;> (rename_i g'; rw [g'] at i; exact i.trans e)

grind_pattern readRuns_without => readRuns s a, s.without B

@[simp] theorem writeRuns_without (s : State) (a : List (Nat × Nat)) (x2 : List Byte) (B : List Blk) (hB : [.corpus, .reel, .hbm] ⊆ B) :
    (writeRuns s a x2).without B = s.without B := by
  simp only [List.cons_subset, List.nil_subset, and_true] at hB
  induction a generalizing s x2 with
  | nil => rfl
  | cons p t ih =>
    obtain ⟨a, n⟩ := p
    unfold writeRuns
    rw [ih]
    exact busWrite_without s 1 a _ .clean B (by simp [hB])

grind_pattern writeRuns_without => writeRuns s a x2, s.without B

@[simp] theorem moveChunk_without (s : State) (x : Ctx) (off : Nat) (pairs : List (Side × Side)) (B : List Blk) (hB : [.freeCtr, .corpus, .reel, .hbm] ⊆ B) :
    (moveChunk s x off pairs).s.without B = s.without B := by
  simp only [List.cons_subset, List.nil_subset, and_true] at hB
  unfold moveChunk
  dsimp only
  split
  · rfl
  · split
    · rename_i g
      exact deniedAt_without s x _ B (by simp [hB]) _ g
    · split <;> simp [hB]

grind_pattern moveChunk_without => moveChunk s x off pairs, s.without B

@[simp] theorem moveFrom_without (total : Nat) (ends : Nat → Side × Side) (a : Nat) (x3 : State) (x4 : Ctx) (x5 : Nat) (B : List Blk) (hB : [.freeCtr, .corpus, .reel, .hbm] ⊆ B) :
    (moveFrom total ends a x3 x4 x5).s.without B = x3.without B := by
  simp only [List.cons_subset, List.nil_subset, and_true] at hB
  induction a generalizing x3 x4 x5 with
  | zero => rfl
  | succ n ih =>
    unfold moveFrom
    dsimp only
    split
    · rfl
    · split
      · simp [hB]
      · rw [ih]; simp [hB]

grind_pattern moveFrom_without => moveFrom total ends a x3 x4 x5, x3.without B

@[simp] theorem move_without (s : State) (x : Ctx) (o : Op) (total : Nat) (ends : Nat → Side × Side) (B : List Blk) (hB : [.freeCtr, .corpus, .reel, .hbm] ⊆ B) :
    (move s x o total ends).s.without B = s.without B := by
  simp only [List.cons_subset, List.nil_subset, and_true] at hB
  simp [move, *]

grind_pattern move_without => move s x o total ends, s.without B

@[simp] theorem runDld_without (s : State) (x : Ctx) (o : Op) (B : List Blk) (hB : [.freeCtr, .corpus, .reel, .hbm] ⊆ B) :
    (runDld s x o).s.without B = s.without B := by
  simp only [List.cons_subset, List.nil_subset, and_true] at hB
  simp [runDld, *]

grind_pattern runDld_without => runDld s x o, s.without B

@[simp] theorem runDst_without (s : State) (x : Ctx) (o : Op) (B : List Blk) (hB : [.freeCtr, .corpus, .reel, .hbm] ⊆ B) :
    (runDst s x o).s.without B = s.without B := by
  simp only [List.cons_subset, List.nil_subset, and_true] at hB
  simp [runDst, *]

grind_pattern runDst_without => runDst s x o, s.without B

@[simp] theorem runDcpy_without (s : State) (x : Ctx) (o : Op) (B : List Blk) (hB : [.freeCtr, .corpus, .reel, .hbm] ⊆ B) :
    (runDcpy s x o).s.without B = s.without B := by
  simp only [List.cons_subset, List.nil_subset, and_true] at hB
  simp [runDcpy, *]

grind_pattern runDcpy_without => runDcpy s x o, s.without B

@[simp] theorem vaAtomic_without (s : State) (x : Ctx) (va ty op v cmp : Nat) (B : List Blk) (hB : [.hbm] ⊆ B) :
    (vaAtomic s x va ty op v cmp).1.without B = s.without B := by
  simp only [List.cons_subset, List.nil_subset, and_true] at hB
  unfold vaAtomic
  split
  · rfl
  · split
    · rfl
    · rename_i a _
      split
      · simp [hB]
      · simp [hB]
      · have e := busAtomic_without s 1 a ty op v cmp B (by simp [hB])
        split <;> (rename_i g; rw [g] at e; exact e)

grind_pattern vaAtomic_without => vaAtomic s x va ty op v cmp, s.without B

@[simp] theorem runAmo_without (s : State) (x : Ctx) (o : Op) (B : List Blk) (hB : [.hbm] ⊆ B) :
    (runAmo s x o).s.without B = s.without B := by
  simp only [List.cons_subset, List.nil_subset, and_true] at hB
  have e := vaAtomic_without s x o.aa.toNat (amoTyOf o.word.toNat) (amoOpOf o.word.toNat) o.sb.toNat o.sc.toNat B (by simp [hB])
  unfold runAmo
  dsimp only
  split <;> (rename_i g; rw [g] at e; exact e)

grind_pattern runAmo_without => runAmo s x o, s.without B

@[simp] theorem addFrom_without (o : Op) (x1 : Tile) (a : Nat) (x3 : State) (x4 : Ctx) (x5 : Nat) (B : List Blk) (hB : [.hbm] ⊆ B) :
    (addFrom o x1 a x3 x4 x5).s.without B = x3.without B := by
  simp only [List.cons_subset, List.nil_subset, and_true] at hB
  induction a generalizing x3 x4 x5 with
  | zero => rfl
  | succ n ih =>
    unfold addFrom
    dsimp only
    have e := vaAtomic_without x3 x4 ((o.aa.toNat + x5 / x1.cols * o.sb.toNat + x5 % x1.cols * (tyW x1.ty / 8)) % 2 ^ 64) (addTy x1.ty) 0
      ((x1.elems x4 (x5 / x1.cols)).getD (x5 % x1.cols) 0) 0 B (by simp [hB])
    split
    · rename_i g; rw [g] at e; exact e
    · rename_i g; rw [g] at e; exact (ih _ _ _).trans e

grind_pattern addFrom_without => addFrom o x1 a x3 x4 x5, x3.without B

@[simp] theorem runAaddt_without (s : State) (x : Ctx) (o : Op) (B : List Blk) (hB : [.hbm] ⊆ B) :
    (runAaddt s x o).s.without B = s.without B := by
  simp only [List.cons_subset, List.nil_subset, and_true] at hB
  simp [runAaddt, *]

grind_pattern runAaddt_without => runAaddt s x o, s.without B

@[simp] theorem vaRead_without (s : State) (x : Ctx) (va n : Nat) (B : List Blk) (hB : [.freeCtr, .hbm] ⊆ B) :
    (vaRead s x va n).1.without B = s.without B := by
  simp only [List.cons_subset, List.nil_subset, and_true] at hB
  unfold vaRead
  split
  · rfl
  · rfl
  · rename_i a _ _
    have e := busRead_without s 1 a n .clean B (by simp [hB])
    split <;> (rename_i g; rw [g] at e; exact e)

grind_pattern vaRead_without => vaRead s x va n, s.without B

@[simp] theorem vaWrite_without (s : State) (x : Ctx) (va : Nat) (x3 : List Byte) (B : List Blk) (hB : [.corpus, .reel, .hbm] ⊆ B) :
    (vaWrite s x va x3).1.without B = s.without B := by
  simp only [List.cons_subset, List.nil_subset, and_true] at hB
  unfold vaWrite
  split
  · rfl
  · rfl
  · rename_i a _ _
    have e := busWrite_without s 1 a x3 .clean B (by simp [hB])
    split <;> (rename_i g; rw [g] at e; exact e)

grind_pattern vaWrite_without => vaWrite s x va x3, s.without B

@[simp] theorem issueFence_without (s : State) (e a : Nat) (B : List Blk) (hB : [.hbm] ⊆ B) :
    (issueFence s e a).without B = s.without B := by
  simp only [List.cons_subset, List.nil_subset, and_true] at hB
  simp [issueFence, *]

grind_pattern issueFence_without => issueFence s e a, s.without B

@[simp] theorem fencedStep_without (s : State) (x : Ctx) (o : Op) (go : Run) (B : List Blk) (hB : [.hbm] ⊆ B)
    (he : go.s.without B = s.without B) : (fencedStep s x o go).s.without B = s.without B := by
  simp only [List.cons_subset, List.nil_subset, and_true] at hB
  unfold fencedStep
  split
  · split
    · simp [hB]
    · split
      · rfl
      · exact he
  · exact he

@[simp] theorem wvxRead_without (s : State) (x : Ctx) (off va n : Nat) (f : List Byte → Ctx × Nat × Bool) (B : List Blk) (hB : [.freeCtr, .hbm] ⊆ B) :
    (wvxRead s x off va n f).s.without B = s.without B := by
  simp only [List.cons_subset, List.nil_subset, and_true] at hB
  unfold wvxRead
  have e := vaRead_without s x va n B (by simp [hB])
  split <;> (rename_i g; rw [g] at e; exact e)

grind_pattern wvxRead_without => wvxRead s x off va n f, s.without B

@[simp] theorem wvxWrite_without (s : State) (x : Ctx) (off va : Nat) (x4 : List Byte) (B : List Blk) (hB : [.corpus, .reel, .hbm] ⊆ B) :
    (wvxWrite s x off va x4).s.without B = s.without B := by
  simp only [List.cons_subset, List.nil_subset, and_true] at hB
  unfold wvxWrite
  have e := vaWrite_without s x va x4 B (by simp [hB])
  split <;> (rename_i g; rw [g] at e; exact e)

grind_pattern wvxWrite_without => wvxWrite s x off va x4, s.without B

@[simp] theorem runWvx_without (s : State) (x : Ctx) (o : Op) (B : List Blk) (hB : [.freeCtr, .corpus, .reel, .hbm] ⊆ B) :
    (runWvx s x o).s.without B = s.without B := by
  simp only [List.cons_subset, List.nil_subset, and_true] at hB
  unfold runWvx
  dsimp only
  split
  · exact fencedStep_without _ _ _ _ B (by simp [hB]) (by simp [hB])
  · simp [hB]
  · exact fencedStep_without _ _ _ _ B (by simp [hB]) rfl
  · simp [hB]
  · exact fencedStep_without _ _ _ _ B (by simp [hB]) (by simp [hB])
  · exact fencedStep_without _ _ _ _ B (by simp [hB]) (by simp [hB])

grind_pattern runWvx_without => runWvx s x o, s.without B

@[simp] theorem runSfence_without (s : State) (x : Ctx) (o : Op) (B : List Blk) (hB : [.hbm] ⊆ B) :
    (runSfence s x o).s.without B = s.without B := by
  simp only [List.cons_subset, List.nil_subset, and_true] at hB
  unfold runSfence
  split
  · split
    · simp [hB]
    · split <;> rfl
  · rfl

grind_pattern runSfence_without => runSfence s x o, s.without B

@[simp] theorem runWindec_without (s : State) (x : Ctx) (o : Op) (B : List Blk) :
    (runWindec s x o).s.without B = s.without B := by
  simp [runWindec, *]

grind_pattern runWindec_without => runWindec s x o, s.without B

@[simp] theorem dmaRun_without (s : State) (x : Ctx) (o : Op) (B : List Blk) (hB : [.freeCtr, .corpus, .reel, .hbm] ⊆ B) :
    (dmaRun s x o).s.without B = s.without B := by
  simp only [List.cons_subset, List.nil_subset, and_true] at hB
  unfold dmaRun; (repeat' split) <;> simp [*]

grind_pattern dmaRun_without => dmaRun s x o, s.without B

/-! ## Pool.lean -/

@[simp] theorem fillFrame_without (s : State) (f size : Nat) (x3 : List Byte) (B : List Blk) (hB : [.hbm] ⊆ B) :
    (fillFrame s f size x3).without B = s.without B := by
  simp only [List.cons_subset, List.nil_subset, and_true] at hB
  unfold fillFrame; (repeat' split) <;> simp [*]

grind_pattern fillFrame_without => fillFrame s f size x3, s.without B

theorem pinnedPages_without (size : Nat) (w : Bool) (a : Nat) (x3 : State) (x4 : List Page) (x5 : Nat) (x6 : List Byte) (B : List Blk) (hB : [.hbm] ⊆ B) (t : State × List Page) (h : pinnedPages size w a x3 x4 x5 x6 = some t) :
    t.1.without B = x3.without B := by
  simp only [List.cons_subset, List.nil_subset, and_true] at hB
  induction a generalizing x3 x4 x5 x6 with
  | zero => cases h; rfl
  | succ n ih =>
    unfold pinnedPages at h
    split at h
    · cases h
    · rw [ih _ _ _ _ h]; simp [hB]

grind_pattern pinnedPages_without => pinnedPages size w a x3 x4 x5 x6, some t, x3.without B

@[simp] theorem remapPage_without (s : State) (c : Nat) (x : Ctx) (p : Page) (w : Bool) (B : List Blk) (hB : [.eng] ⊆ B) :
    (remapPage s c x p w).without B = s.without B := by
  simp only [List.cons_subset, List.nil_subset, and_true] at hB
  simp [remapPage, *]

grind_pattern remapPage_without => remapPage s c x p w, s.without B

@[simp] theorem mapPage_without (s : State) (c : Nat) (x : Ctx) (p : Page) (f : Nat) (w : Bool) (B : List Blk) (hB : [.hbm, .eng] ⊆ B) :
    (mapPage s c x p f w).without B = s.without B := by
  simp only [List.cons_subset, List.nil_subset, and_true] at hB
  simp [mapPage, *]

grind_pattern mapPage_without => mapPage s c x p f w, s.without B

@[simp] theorem readBacking_without (s : State) (isSealed : Bool) (p : Page) (B : List Blk) (hB : [.freeCtr, .qau, .corpus, .flash, .hbm, .warden, .links] ⊆ B) :
    (readBacking s isSealed p).without B = s.without B := by
  simp only [List.cons_subset, List.nil_subset, and_true] at hB
  unfold readBacking; (repeat' split) <;> simp [*]

grind_pattern readBacking_without => readBacking s isSealed p, s.without B

end Sys2Proof.Machine
end

