-- ==== Sys2Proof/Laws/FrameBatch.lean ====
section
/-! SUPPORT. What each shared operation leaves unchanged: batches, contexts and stages. A lemma `f_without` says that `f` changes
no part of State outside the list it names. -/

namespace Sys2Proof.Machine

/-! ## Batch.lean -/

@[simp] theorem admitBatch_without (s : State) (c : Cmd) (j : BatchJob) (B : List Blk) (hB : [.qau, .csn, .hbm, .eng, .warden, .links] ⊆ B) :
    (admitBatch s c j).without B = s.without B := by
  simp only [List.cons_subset, List.nil_subset, and_true] at hB
  unfold admitBatch; (repeat' split) <;> simp [*]

grind_pattern admitBatch_without => admitBatch s c j, s.without B

@[simp] theorem checkBatch_without (s : State) (c : Cmd) (r : BatchReq) (bufOk readOk : Bool) (B : List Blk) (hB : [.qau, .csn, .hbm, .eng, .warden, .links] ⊆ B) :
    (checkBatch s c r bufOk readOk).without B = s.without B := by
  simp only [List.cons_subset, List.nil_subset, and_true] at hB
  unfold checkBatch; dsimp only; (repeat' split) <;> simp_all

grind_pattern checkBatch_without => checkBatch s c r bufOk readOk, s.without B

@[simp] theorem runBatch_without (s : State) (q op : Nat) (B : List Blk) (hB : [.qau, .csn, .hbm, .eng, .warden, .links] ⊆ B) :
    (runBatch s q op).without B = s.without B := by
  simp only [List.cons_subset, List.nil_subset, and_true] at hB
  unfold runBatch
  split
  · rfl
  · rename_i c _
    split
    · simp [hB]
    · split
      · have e := openRequest_without s c B (by simp [hB])
        split
        · rename_i g; rw [g] at e; simp_all
        · rename_i g; rw [g] at e
          dsimp only
          simp [hB, ← e]
      · dsimp only
        split
        · simp [hB]
        · have e := State.read_without s 2 c.addr c.len .clean B (by simp [hB])
          split <;> (rename_i g; rw [g] at e; simp [hB, ← e])

grind_pattern runBatch_without => runBatch s q op, s.without B

@[simp] theorem noteFill_without (s : State) (B : List Blk) (hB : [.qau, .alloc, .hbm, .links] ⊆ B) :
    (noteFill s).without B = s.without B := by
  simp only [List.cons_subset, List.nil_subset, and_true] at hB
  unfold noteFill; (repeat' split) <;> simp [*]

grind_pattern noteFill_without => noteFill s, s.without B

theorem stage_without (s : State) (j : BatchJob) (vers : List Nat) (B : List Blk) (hB : [.qau, .alloc, .corpus, .flash, .hbm, .links] ⊆ B) (t : State × List Nat) (h : stage s j vers = some t) :
    t.1.without B = s.without B := by
  simp only [List.cons_subset, List.nil_subset, and_true] at hB
  unfold stage at h
  split at h
  · split at h
    · cases h
    · dsimp only at h
      split at h
      · cases h
      · obtain ⟨⟨u, ents⟩, ha, rfl⟩ := Option.map_eq_some_iff.mp h
        have e := appendSides_without _ _ _ B (by simp [hB]) _ ha
        have hf : ∀ (l : List (SideEnt × VSlot)) (s : State), (l.foldl (fun s i => putSlot (claimRows s (saFla i.1.slot) (slotFlas s i.1.slot).length) i.1.slot (some i.2)) s).without B = s.without B :=
          fun l s => foldl_without B _ (fun s i => by simp [hB]) l s
        simp [hB, hf, e]
  · cases h

grind_pattern stage_without => stage s j vers, some t, s.without B

@[simp] theorem unstage_without (s : State) (j : BatchJob) (B : List Blk) (hB : [.csn, .corpus, .flash] ⊆ B) :
    (unstage s j).without B = s.without B := by
  simp only [List.cons_subset, List.nil_subset, and_true] at hB
  unfold unstage
  dsimp only
  split <;> simp only [dropRef_without _ _ B (List.cons_subset.mpr ⟨hB.1, List.nil_subset _⟩),
    dropSides_without _ _ B (List.cons_subset.mpr ⟨hB.2.1, List.nil_subset _⟩)] <;>
    exact foldl_without B _ (fun s n => by (repeat' split) <;> simp [hB]) _ _

grind_pattern unstage_without => unstage s j, s.without B

theorem addExclusions_without (s : State) (key : Nat) (b : Block) (xs : List (BitVec 128)) (B : List Blk) (hB : [.corpus] ⊆ B) (t : State) (h : addExclusions s key b xs = some t) :
    t.without B = s.without B := by
  simp only [List.cons_subset, List.nil_subset, and_true] at hB
  unfold addExclusions at h
  obtain ⟨l, _, rfl⟩ := Option.map_eq_some_iff.mp h
  simp [hB]

grind_pattern addExclusions_without => addExclusions s key b xs, some t, s.without B

theorem foldBlock_without (s : State) (key : Nat) (b : Block) (ref : Nat) (rs : List Nat) (B : List Blk) (hB : [.corpus, .flash] ⊆ B) (t : State) (h : foldBlock s key b ref rs = some t) :
    t.without B = s.without B := by
  simp only [List.cons_subset, List.nil_subset, and_true] at hB
  unfold foldBlock at h
  obtain ⟨⟨l, row⟩, _, rfl⟩ := Option.map_eq_some_iff.mp h
  simp [hB]

grind_pattern foldBlock_without => foldBlock s key b ref rs, some t, s.without B

theorem deleteInBlock_without (s : State) (key ref : Nat) (rs : List Nat) (B : List Blk) (hB : [.corpus, .flash] ⊆ B) (t : State) (h : deleteInBlock s key ref rs = some t) :
    t.without B = s.without B := by
  simp only [List.cons_subset, List.nil_subset, and_true] at hB
  unfold deleteInBlock at h; grind

grind_pattern deleteInBlock_without => deleteInBlock s key ref rs, some t, s.without B

theorem deleteCopies_without (s : State) (ref : Nat) (ds : List CopyRef) (B : List Blk) (hB : [.corpus, .flash] ⊆ B) (t : State) (h : deleteCopies s ref ds = some t) :
    t.without B = s.without B := by
  simp only [List.cons_subset, List.nil_subset, and_true] at hB
  unfold deleteCopies at h
  dsimp only at h
  rw [foldl_bind_without B _ (fun s k t h => deleteInBlock_without _ _ _ _ B (by simp [hB]) _ h) _ _ _ h]
  exact foldl_without B _ (fun s d => by (repeat' split) <;> simp [hB]) _ _

grind_pattern deleteCopies_without => deleteCopies s ref ds, some t, s.without B

@[simp] theorem markIssued_without (s : State) (ns : List Nat) (B : List Blk) (hB : [.corpus] ⊆ B) :
    (markIssued s ns).without B = s.without B := by
  simp only [List.cons_subset, List.nil_subset, and_true] at hB
  simp [markIssued, *]

grind_pattern markIssued_without => markIssued s ns, s.without B

@[simp] theorem issueBatch_without (s : State) (c : Cmd) (j : BatchJob) (ds : List CopyRef) (durable : Bool) (B : List Blk) (hB : [.qau, .csn, .corpus, .flash, .hbm, .warden, .links] ⊆ B) :
    (issueBatch s c j ds durable).without B = s.without B := by
  simp only [List.cons_subset, List.nil_subset, and_true] at hB
  unfold issueBatch
  dsimp only
  split
  · simp [hB]
  · rename_i g
    have e := deleteCopies_without _ _ _ B (by simp [hB]) _ g
    (repeat' split) <;> simp [hB, e]

grind_pattern issueBatch_without => issueBatch s c j ds durable, s.without B

@[simp] theorem stageBatch_without (s : State) (c : Cmd) (j : BatchJob) (B : List Blk) (hB : [.qau, .csn, .alloc, .corpus, .flash, .hbm, .warden, .links] ⊆ B) :
    (stageBatch s c j).without B = s.without B := by
  simp only [List.cons_subset, List.nil_subset, and_true] at hB
  unfold stageBatch
  dsimp only
  split
  · simp [hB]
  · rename_i g
    have e := stage_without _ _ _ B (by simp [hB]) _ g
    (repeat' split) <;> simp_all

grind_pattern stageBatch_without => stageBatch s c j, s.without B

@[simp] theorem commitBatch_without (s : State) (c : Cmd) (j : BatchJob) (failed : Bool) (B : List Blk) (hB : [.qau, .csn, .alloc, .corpus, .flash, .hbm, .warden, .links] ⊆ B) :
    (commitBatch s c j failed).without B = s.without B := by
  simp only [List.cons_subset, List.nil_subset, and_true] at hB
  unfold commitBatch; dsimp only; (repeat' split) <;> simp_all

grind_pattern commitBatch_without => commitBatch s c j failed, s.without B

@[simp] theorem entryDone_without (s : State) (e : JEnt) (B : List Blk) (hB : [.qau, .csn, .hbm, .warden, .links] ⊆ B) :
    (entryDone s e).without B = s.without B := by
  simp only [List.cons_subset, List.nil_subset, and_true] at hB
  unfold entryDone; dsimp only; (repeat' split) <;> simp_all

grind_pattern entryDone_without => entryDone s e, s.without B

@[simp] theorem flushesDone_without (s : State) (B : List Blk) (hB : [.qau, .hbm, .warden, .links] ⊆ B) :
    (flushesDone s).without B = s.without B := by
  simp only [List.cons_subset, List.nil_subset, and_true] at hB
  unfold flushesDone
  split
  · rfl
  exact foldl_without B _ (fun s c => by (repeat' split) <;> simp [hB]) _ _

grind_pattern flushesDone_without => flushesDone s, s.without B

@[simp] theorem freeRing_without (s : State) (B : List Blk) (hB : [.flash] ⊆ B) :
    (freeRing s).without B = s.without B := by
  simp only [List.cons_subset, List.nil_subset, and_true] at hB
  unfold freeRing; (repeat' split) <;> simp [*]

grind_pattern freeRing_without => freeRing s, s.without B

@[simp] theorem programTail_without (s : State) (B : List Blk) (hB : [.qau, .csn, .flash, .hbm, .warden, .links] ⊆ B) :
    (programTail s).without B = s.without B := by
  simp only [List.cons_subset, List.nil_subset, and_true] at hB
  simp [programTail, *]

grind_pattern programTail_without => programTail s, s.without B

@[simp] theorem admitFlush_without (s : State) (c : Cmd) (csn : Nat) (B : List Blk) (hB : [.qau, .hbm, .warden, .links] ⊆ B) :
    (admitFlush s c csn).without B = s.without B := by
  simp only [List.cons_subset, List.nil_subset, and_true] at hB
  simp [admitFlush, *]

grind_pattern admitFlush_without => admitFlush s c csn, s.without B

/-! ## Context.lean -/

@[simp] theorem completeOp_without (s : State) (c : Nat) (x : Ctx) (o : Op) (B : List Blk) (hB : [.freeCtr, .corpus, .reel, .hbm, .eng] ⊆ B) :
    (completeOp s c x o).without B = s.without B := by
  simp only [List.cons_subset, List.nil_subset, and_true] at hB
  have e := dmaRun_without s x o B (by simp [hB])
  unfold completeOp
  split
  · dsimp only
    split <;> simp [hB, e]
  · simp [hB]

grind_pattern completeOp_without => completeOp s c x o, s.without B

@[simp] theorem descriptor_without (s : State) (B : List Blk) (hB : [.freeCtr] ⊆ B) :
    (descriptor s).2.without B = s.without B := by
  simp only [List.cons_subset, List.nil_subset, and_true] at hB
  simp [descriptor, *]

grind_pattern descriptor_without => descriptor s, s.without B

@[simp] theorem faultAt_without (s : State) (c : Nat) (x : Ctx) (o : Op) (off code va : Nat) (B : List Blk) (hB : [.freeCtr, .qau, .flash, .reel, .sel, .hbm, .eng, .warden, .links] ⊆ B) :
    (faultAt s c x o off code va).without B = s.without B := by
  simp only [List.cons_subset, List.nil_subset, and_true] at hB
  simp [faultAt, *]

grind_pattern faultAt_without => faultAt s c x o off code va, s.without B

@[simp] theorem logUncorrectable_without (s : State) (x : Ctx) (o : Op) (B : List Blk) (hB : [.freeCtr, .hbm] ⊆ B) :
    (logUncorrectable s x o).without B = s.without B := by
  simp only [List.cons_subset, List.nil_subset, and_true] at hB
  unfold logUncorrectable; grind

grind_pattern logUncorrectable_without => logUncorrectable s x o, s.without B

@[simp] theorem endMaint_without (s : State) (c q why : Nat) (B : List Blk) (hB : [.qau, .flash, .hbm, .eng, .links] ⊆ B) :
    (endMaint s c q why).without B = s.without B := by
  simp only [List.cons_subset, List.nil_subset, and_true] at hB
  simp [endMaint, *]

grind_pattern endMaint_without => endMaint s c q why, s.without B

/-! ## Stage.lean -/

theorem area_without (s : State) (ps : List Page) (role : Nat) (w : Bool) (n : Nat) (x5 : List Byte) (B : List Blk) (hB : [.hbm] ⊆ B) (t : State × List Page) (h : area s ps role w n x5 = some t) :
    t.1.without B = s.without B := by
  simp only [List.cons_subset, List.nil_subset, and_true] at hB
  unfold area at h; grind

grind_pattern area_without => area s ps role w n x5, some t, s.without B

theorem stageSpace_without (s : State) (j : SearchJob) (st : Stage) (image : List W64) (B : List Blk) (hB : [.hbm] ⊆ B) (t : State × List Page) (h : stageSpace s j st image = some t) :
    t.1.without B = s.without B := by
  simp only [List.cons_subset, List.nil_subset, and_true] at hB
  unfold stageSpace at h
  simp only [Option.bind_eq_some_iff] at h
  obtain ⟨⟨_, _⟩, h1, ⟨_, _⟩, h2, ⟨_, _⟩, h3, ⟨_, _⟩, h4, h5⟩ := h
  have e1 := area_without _ _ _ _ _ _ B (by simp [hB]) _ h1
  have e2 := area_without _ _ _ _ _ _ B (by simp [hB]) _ h2
  have e3 := area_without _ _ _ _ _ _ B (by simp [hB]) _ h3
  have e4 := area_without _ _ _ _ _ _ B (by simp [hB]) _ h4
  have e5 := area_without _ _ _ _ _ _ B (by simp [hB]) _ h5
  exact e5.trans (e4.trans (e3.trans (e2.trans e1)))

grind_pattern stageSpace_without => stageSpace s j st image, some t, s.without B

@[simp] theorem onEngine_without (s : State) (e : Nat) (w : EngWork) (r : Nat) (B : List Blk) (hB : [.eng] ⊆ B) :
    (onEngine s e w r).without B = s.without B := by
  simp only [List.cons_subset, List.nil_subset, and_true] at hB
  simp [onEngine, *]

grind_pattern onEngine_without => onEngine s e w r, s.without B

theorem startStage_without (s : State) (e r : Nat) (c : Cmd) (j : SearchJob) (B : List Blk) (hB : [.freeCtr, .qau, .reel, .sel, .hbm, .eng, .warden, .links] ⊆ B) (t : State) (h : startStage s e r c j = some t) :
    t.without B = s.without B := by
  simp only [List.cons_subset, List.nil_subset, and_true] at hB
  unfold startStage at h
  dsimp only at h
  split at h
  · cases h; simp [hB]
  · obtain ⟨⟨u, ps⟩, hu, rfl⟩ := Option.map_eq_some_iff.mp h
    have e := stageSpace_without _ _ _ _ B (by simp [hB]) _ hu
    simp [hB, e]

grind_pattern startStage_without => startStage s e r c j, some t, s.without B

@[simp] theorem restore_without (s : State) (e n r : Nat) (x : Ctx) (B : List Blk) (hB : [.eng] ⊆ B) :
    (restore s e n r x).without B = s.without B := by
  simp only [List.cons_subset, List.nil_subset, and_true] at hB
  simp [restore, *]

grind_pattern restore_without => restore s e n r x, s.without B

theorem beginWork_without (s : State) (w : Work) (e : Nat) (B : List Blk) (hB : [.freeCtr, .qau, .reel, .sel, .hbm, .eng, .warden, .maint, .links] ⊆ B) (t : State) (h : beginWork s w e = some t) :
    t.without B = s.without B := by
  simp only [List.cons_subset, List.nil_subset, and_true] at hB
  unfold beginWork at h
  split at h
  · obtain ⟨x, _, rfl⟩ := Option.map_eq_some_iff.mp h
    simp [hB]
  · cases h; split <;> simp [hB]
  · cases h; split <;> simp [hB]
  · split at h
    · split at h
      · exact startStage_without _ _ _ _ _ B (by simp [hB]) _ h
      · cases h; rfl
    · cases h; rfl
  · cases h; simp [hB]
  · cases h; rfl

grind_pattern beginWork_without => beginWork s w e, some t, s.without B

@[simp] theorem startWork_without (s : State) (w : Work) (e : Nat) (B : List Blk) (hB : [.freeCtr, .qau, .reel, .sel, .hbm, .eng, .warden, .maint, .links] ⊆ B) :
    (startWork s w e).without B = s.without B := by
  simp only [List.cons_subset, List.nil_subset, and_true] at hB
  unfold startWork
  split
  · rfl
  · rename_i rest _
    cases hb : beginWork { s with eng.work := rest } w e with
    | none => simp [hB]
    | some t => have e := beginWork_without _ _ _ B (by simp [hB]) _ hb; simp_all

grind_pattern startWork_without => startWork s w e, s.without B

@[simp] theorem readArea_without (s : State) (x : Ctx) (role n : Nat) (B : List Blk) (hB : [.freeCtr, .hbm] ⊆ B) :
    (readArea s x role n).1.without B = s.without B := by
  simp only [List.cons_subset, List.nil_subset, and_true] at hB
  simp [readArea, *]

grind_pattern readArea_without => readArea s x role n, s.without B

@[simp] theorem endEncode_without (s : State) (c : Cmd) (j : SearchJob) (x3 : List Byte) (B : List Blk) (hB : [.freeCtr, .qau, .reel, .sel, .hbm, .eng, .warden, .links] ⊆ B) :
    (endEncode s c j x3).without B = s.without B := by
  simp only [List.cons_subset, List.nil_subset, and_true] at hB
  unfold endEncode; dsimp only; (repeat' split) <;> simp_all

grind_pattern endEncode_without => endEncode s c j x3, s.without B

@[simp] theorem endLut_without (s : State) (c : Cmd) (j : SearchJob) (x3 : List Byte) (B : List Blk) (hB : [.freeCtr, .qau, .reel, .sel, .hbm, .eng, .warden, .links] ⊆ B) :
    (endLut s c j x3).without B = s.without B := by
  simp only [List.cons_subset, List.nil_subset, and_true] at hB
  unfold endLut; (repeat' split) <;> simp [*]

grind_pattern endLut_without => endLut s c j x3, s.without B

@[simp] theorem endRerank_without (s : State) (c : Cmd) (j : SearchJob) (x3 : List Byte) (B : List Blk) (hB : [.freeCtr, .qau, .hbm, .warden, .links] ⊆ B) :
    (endRerank s c j x3).without B = s.without B := by
  simp only [List.cons_subset, List.nil_subset, and_true] at hB
  simp [endRerank, *]

grind_pattern endRerank_without => endRerank s c j x3, s.without B

@[simp] theorem stageDone_without (s : State) (c : Cmd) (j : SearchJob) (st : Stage) (units : Nat) (x5 : List Byte) (B : List Blk) (hB : [.freeCtr, .qau, .reel, .sel, .hbm, .eng, .warden, .links] ⊆ B) :
    (stageDone s c j st units x5).without B = s.without B := by
  simp only [List.cons_subset, List.nil_subset, and_true] at hB
  unfold stageDone; (repeat' split) <;> simp [*]

grind_pattern stageDone_without => stageDone s c j st units x5, s.without B

@[simp] theorem endProgram_without (s : State) (n : Nat) (x : Ctx) (B : List Blk) (hB : [.freeCtr, .qau, .flash, .reel, .sel, .hbm, .eng, .warden, .links] ⊆ B) :
    (endProgram s n x).without B = s.without B := by
  simp only [List.cons_subset, List.nil_subset, and_true] at hB
  unfold endProgram; dsimp only; (repeat' split) <;> simp_all

grind_pattern endProgram_without => endProgram s n x, s.without B

@[simp] theorem endStdLut_without (s : State) (c : Cmd) (j : SearchJob) (B : List Blk) (hB : [.freeCtr, .qau, .reel, .sel, .hbm, .eng, .warden, .links] ⊆ B) :
    (endStdLut s c j).without B = s.without B := by
  simp only [List.cons_subset, List.nil_subset, and_true] at hB
  unfold endStdLut; (repeat' split) <;> simp [*]

grind_pattern endStdLut_without => endStdLut s c j, s.without B

@[simp] theorem endInsertEncode_without (s : State) (c : Cmd) (j : BatchJob) (B : List Blk) (hB : [.qau, .csn, .corpus, .flash, .hbm, .warden, .links] ⊆ B) :
    (endInsertEncode s c j).without B = s.without B := by
  simp only [List.cons_subset, List.nil_subset, and_true] at hB
  unfold endInsertEncode; grind

grind_pattern endInsertEncode_without => endInsertEncode s c j, s.without B

end Sys2Proof.Machine
end

