-- ==== Sys2Proof/Laws/FrameMaint.lean ====
section
/-! SUPPORT. What each shared operation leaves unchanged: the corpus, queues, maintenance and repairs. A lemma `f_without` says that `f` changes
no part of State outside the list it names. -/

namespace Sys2Proof.Machine

/-! ## Corpus.lean -/

@[simp] theorem backfill_without (s : State) (ref c : Nat) (B : List Blk) (hB : [.csn, .corpus] ⊆ B) :
    (backfill s ref c).without B = s.without B := by
  simp only [List.cons_subset, List.nil_subset, and_true] at hB
  simp [backfill, *]

grind_pattern backfill_without => backfill s ref c, s.without B

@[simp] theorem settleBlock_without (s : State) (w x2 a : Nat) (B : List Blk) (hB : [.corpus] ⊆ B) :
    (settleBlock s w x2 a).without B = s.without B := by
  simp only [List.cons_subset, List.nil_subset, and_true] at hB
  unfold settleBlock; grind

grind_pattern settleBlock_without => settleBlock s w x2 a, s.without B

@[simp] theorem freeExtent_without (s : State) (x : BitVec 128) (count : Nat) (B : List Blk) (hB : [.flash] ⊆ B) :
    (freeExtent s x count).without B = s.without B := by
  simp only [List.cons_subset, List.nil_subset, and_true] at hB
  unfold freeExtent; dsimp only; (repeat' split) <;> simp_all

grind_pattern freeExtent_without => freeExtent s x count, s.without B

@[simp] theorem refit_without (a : List Nat) (x1 : State) (B : List Blk) (hB : [.mod, .corpus] ⊆ B) :
    (refit a x1).without B = x1.without B := by
  simp only [List.cons_subset, List.nil_subset, and_true] at hB
  induction a generalizing x1 <;> (unfold refit; grind)

grind_pattern refit_without => refit a x1, x1.without B

@[simp] theorem refitColls_without (s : State) (B : List Blk) (hB : [.mod, .corpus] ⊆ B) :
    (refitColls s).without B = s.without B := refit_without _ _ _ hB


@[simp] theorem dropGens_without (s : State) (cid : Nat) (B : List Blk) (hB : [.corpus] ⊆ B) :
    (dropGens s cid).without B = s.without B := by
  simp only [List.cons_subset, List.nil_subset, and_true] at hB
  unfold dropGens; (repeat' split) <;> simp [*]

grind_pattern dropGens_without => dropGens s cid, s.without B

@[simp] theorem reclaimBlock_without (s : State) (w x2 : Nat) (B : List Blk) (hB : [.mod, .corpus, .flash] ⊆ B) :
    (reclaimBlock s w x2).without B = s.without B := by
  simp only [List.cons_subset, List.nil_subset, and_true] at hB
  unfold reclaimBlock; (repeat' split) <;> simp [*]

grind_pattern reclaimBlock_without => reclaimBlock s w x2, s.without B

@[simp] theorem reclaimSide_without (s : State) (n : Nat) (B : List Blk) (hB : [.qau, .alloc, .corpus, .flash, .hbm, .links] ⊆ B) :
    (reclaimSide s n).without B = s.without B := by
  simp only [List.cons_subset, List.nil_subset, and_true] at hB
  unfold reclaimSide; (repeat' split) <;> simp [*]

grind_pattern reclaimSide_without => reclaimSide s n, s.without B

@[simp] theorem reclaimColl_without (s : State) (cid : Nat) (B : List Blk) (hB : [.corpus, .flash] ⊆ B) :
    (reclaimColl s cid).without B = s.without B := by
  simp only [List.cons_subset, List.nil_subset, and_true] at hB
  unfold reclaimColl; (repeat' split) <;> simp [*]

grind_pattern reclaimColl_without => reclaimColl s cid, s.without B

@[simp] theorem fitScan_without (a : List Nat) (x1 : State) (B : List Blk) (hB : [.qau, .corpus, .hbm, .warden, .links] ⊆ B) :
    (fitScan a x1).without B = x1.without B := by
  simp only [List.cons_subset, List.nil_subset, and_true] at hB
  induction a generalizing x1 <;> (unfold fitScan; grind)

grind_pattern fitScan_without => fitScan a x1, x1.without B

@[simp] theorem noteFull_without (s : State) (cid rows : Nat) (B : List Blk) (hB : [.qau, .hbm, .links] ⊆ B) :
    (noteFull s cid rows).without B = s.without B := by
  simp only [List.cons_subset, List.nil_subset, and_true] at hB
  unfold noteFull; (repeat' split) <;> simp [*]

grind_pattern noteFull_without => noteFull s cid rows, s.without B

@[simp] theorem copySlots_without (s : State) (x : BitVec 128) (from' : List W64) (B : List Blk) (hB : [.freeCtr, .qau, .corpus, .flash, .hbm, .warden, .links] ⊆ B) :
    (copySlots s x from').without B = s.without B := by
  simp only [List.cons_subset, List.nil_subset, and_true] at hB
  simp [copySlots, *]

grind_pattern copySlots_without => copySlots s x from', s.without B

@[simp] theorem handOver_without (s : State) (cid : Nat) (x : Coll) (es : List (Nat × SideEnt)) (pl : Place) (ref : Nat) (B : List Blk) (hB : [.freeCtr, .qau, .csn, .corpus, .flash, .hbm, .warden, .links] ⊆ B) :
    (handOver s cid x es pl ref).without B = s.without B := by
  simp only [List.cons_subset, List.nil_subset, and_true] at hB
  unfold handOver
  dsimp only
  simp only [freeRing_without _ B (by simp [hB] : [Blk.flash] ⊆ B), commitChange_without _ _ _ _ _ B (by simp [hB] : [Blk.csn, .flash] ⊆ B)]
  rw [foldl_without B _ (fun s e => by split <;> simp [hB])]
  split <;> simp [hB]

grind_pattern handOver_without => handOver s cid x es pl ref, s.without B

@[simp] theorem retireBlocks_without (s : State) (ks : List (Nat × Block)) (ref : Nat) (B : List Blk) (hB : [.corpus] ⊆ B) :
    (retireBlocks s ks ref).without B = s.without B := by
  simp only [List.cons_subset, List.nil_subset, and_true] at hB
  simp [retireBlocks, *]

grind_pattern retireBlocks_without => retireBlocks s ks ref, s.without B

@[simp] theorem moveBlocks_without (s : State) (k : MoveKind) (x : Coll) (ks : List (Nat × Block)) (pl : Option Place) (ref : Nat) (B : List Blk) (hB : [.freeCtr, .qau, .csn, .corpus, .flash, .hbm, .warden, .links] ⊆ B) :
    (moveBlocks s k x ks pl ref).without B = s.without B := by
  simp only [List.cons_subset, List.nil_subset, and_true] at hB
  unfold moveBlocks; (repeat' split) <;> simp [*]

grind_pattern moveBlocks_without => moveBlocks s k x ks pl ref, s.without B

@[simp] theorem imageRead_without (s : State) (b : Block) (B : List Blk) (hB : [.freeCtr, .qau, .corpus, .flash, .hbm, .warden, .links] ⊆ B) :
    (imageRead s b).without B = s.without B := by
  simp only [List.cons_subset, List.nil_subset, and_true] at hB
  unfold imageRead; split <;> simp [*]

grind_pattern imageRead_without => imageRead s b, s.without B

/-! ## Queues.lean -/

@[simp] theorem writeAborted_without (s : State) (q : Nat) (a : List (BitVec 256)) (B : List Blk) (hB : [.qau, .hbm] ⊆ B) :
    (writeAborted s q a).without B = s.without B := by
  simp only [List.cons_subset, List.nil_subset, and_true] at hB
  induction a generalizing s q <;> (unfold writeAborted; grind)

grind_pattern writeAborted_without => writeAborted s q a, s.without B

@[simp] theorem enableQueue_without (s : State) (q : Nat) (B : List Blk) (hB : [.qau, .hbm, .warden, .links] ⊆ B) :
    (enableQueue s q).without B = s.without B := by
  simp only [List.cons_subset, List.nil_subset, and_true] at hB
  unfold enableQueue; dsimp only; (repeat' split) <;> simp_all

grind_pattern enableQueue_without => enableQueue s q, s.without B

@[simp] theorem endSession_without (s : State) (q : Nat) (B : List Blk) (hB : [.qau, .hbm, .warden, .links] ⊆ B) :
    (endSession s q).without B = s.without B := by
  simp only [List.cons_subset, List.nil_subset, and_true] at hB
  unfold endSession; grind

grind_pattern endSession_without => endSession s q, s.without B

@[simp] theorem endDrain_without (s : State) (q : Nat) (B : List Blk) (hB : [.qau, .hbm, .warden, .links] ⊆ B) :
    (endDrain s q).without B = s.without B := by
  simp only [List.cons_subset, List.nil_subset, and_true] at hB
  unfold endDrain; grind

grind_pattern endDrain_without => endDrain s q, s.without B

@[simp] theorem qcfgFields_without (s : State) (q v : Nat) (B : List Blk) (hB : [.qau] ⊆ B) :
    (qcfgFields s q v).without B = s.without B := by
  simp only [List.cons_subset, List.nil_subset, and_true] at hB
  simp [qcfgFields, *]

grind_pattern qcfgFields_without => qcfgFields s q v, s.without B

@[simp] theorem writeEnable_without (s : State) (q v : Nat) (B : List Blk) (hB : [.qau, .hbm, .warden, .links] ⊆ B) :
    (writeEnable s q v).without B = s.without B := by
  simp only [List.cons_subset, List.nil_subset, and_true] at hB
  unfold writeEnable; grind

grind_pattern writeEnable_without => writeEnable s q v, s.without B

@[simp] theorem writeDisable_without (s : State) (q v : Nat) (B : List Blk) (hB : [.qau, .hbm, .warden, .links] ⊆ B) :
    (writeDisable s q v).without B = s.without B := by
  simp only [List.cons_subset, List.nil_subset, and_true] at hB
  unfold writeDisable; grind

grind_pattern writeDisable_without => writeDisable s q v, s.without B

@[simp] theorem reply_without (s : State) (result : Nat) (body : List Byte) (B : List Blk) (hB : [.rsp, .qau, .hbm, .warden, .links] ⊆ B) :
    (reply s result body).without B = s.without B := by
  simp only [List.cons_subset, List.nil_subset, and_true] at hB
  unfold reply; (repeat' split) <;> simp [*]

grind_pattern reply_without => reply s result body, s.without B

@[simp] theorem answerBad_without (s : State) (B : List Blk) (hB : [.rsp, .qau, .hbm, .warden, .links] ⊆ B) :
    (answerBad s).without B = s.without B := by
  simp only [List.cons_subset, List.nil_subset, and_true] at hB
  unfold answerBad; (repeat' split) <;> simp [*]

grind_pattern answerBad_without => answerBad s, s.without B

/-! ## Hold.lean -/

@[simp] theorem noteBank_without (s : State) (B : List Blk) (hB : [.qau, .hbm, .hold, .links] ⊆ B) :
    (noteBank s).without B = s.without B := by
  simp only [List.cons_subset, List.nil_subset, and_true] at hB
  unfold noteBank; grind

grind_pattern noteBank_without => noteBank s, s.without B

@[simp] theorem chargeBank_without (s : State) (B : List Blk) (hB : [.qau, .hbm, .hold, .links] ⊆ B) :
    (chargeBank s).without B = s.without B := by
  simp only [List.cons_subset, List.nil_subset, and_true] at hB
  simp [chargeBank, *]

grind_pattern chargeBank_without => chargeBank s, s.without B

@[simp] theorem isolate_without (s : State) (n : Nat) (B : List Blk) (hB : [.qau, .hbm, .hold, .links] ⊆ B) :
    (isolate s n).without B = s.without B := by
  simp only [List.cons_subset, List.nil_subset, and_true] at hB
  simp [isolate, *]

grind_pattern isolate_without => isolate s n, s.without B

@[simp] theorem sectTested_without (s : State) (n cap esr : Nat) (auto : Bool) (B : List Blk) (hB : [.qau, .hbm, .hold, .links] ⊆ B) :
    (sectTested s n cap esr auto).without B = s.without B := by
  simp only [List.cons_subset, List.nil_subset, and_true] at hB
  simp [sectTested, *]

grind_pattern sectTested_without => sectTested s n cap esr auto, s.without B

/-! ## Claims.lean -/

@[simp] theorem claimEvent_without (s : State) (code n how : Nat) (a : Activity) (B : List Blk) (hB : [.qau, .hbm, .links] ⊆ B) :
    (claimEvent s code n how a).without B = s.without B := by
  simp only [List.cons_subset, List.nil_subset, and_true] at hB
  simp [claimEvent, *]

grind_pattern claimEvent_without => claimEvent s code n how a, s.without B

@[simp] theorem actEvent_without (s : State) (c : Claim) (code e0 e1 e2 : Nat) (B : List Blk) (hB : [.qau, .hbm, .links] ⊆ B) :
    (actEvent s c code e0 e1 e2).without B = s.without B := by
  simp only [List.cons_subset, List.nil_subset, and_true] at hB
  unfold actEvent; (repeat' split) <;> simp [*]

grind_pattern actEvent_without => actEvent s c code e0 e1 e2, s.without B

@[simp] theorem bypassChannel_without (s : State) (ch : Nat) (B : List Blk) (hB : [.flash] ⊆ B) :
    (bypassChannel s ch).without B = s.without B := by
  simp only [List.cons_subset, List.nil_subset, and_true] at hB
  simp [bypassChannel, *]

grind_pattern bypassChannel_without => bypassChannel s ch, s.without B

@[simp] theorem rejoinChannel_without (s : State) (ch : Nat) (B : List Blk) (hB : [.flash] ⊆ B) :
    (rejoinChannel s ch).without B = s.without B := by
  simp only [List.cons_subset, List.nil_subset, and_true] at hB
  simp [rejoinChannel, *]

grind_pattern rejoinChannel_without => rejoinChannel s ch, s.without B

@[simp] theorem portDown_without (s : State) (p : Nat) (B : List Blk) (hB : [.links] ⊆ B) :
    (portDown s p).without B = s.without B := by
  simp only [List.cons_subset, List.nil_subset, and_true] at hB
  unfold portDown; split <;> simp [*]

grind_pattern portDown_without => portDown s p, s.without B

@[simp] theorem startUnit_without (s : State) (part unit : Nat) (B : List Blk) (hB : [.flash, .eng, .warden, .links] ⊆ B) :
    (startUnit s part unit).without B = s.without B := by
  simp only [List.cons_subset, List.nil_subset, and_true] at hB
  unfold startUnit; (repeat' split) <;> simp [*]

grind_pattern startUnit_without => startUnit s part unit, s.without B

@[simp] theorem begin'_without (s : State) (a : Activity) (c : Claim) (B : List Blk) (hB : [.qau, .corpus, .flash, .hbm, .eng, .warden, .hold, .links] ⊆ B) :
    (begin' s a c).without B = s.without B := by
  simp only [List.cons_subset, List.nil_subset, and_true] at hB
  unfold begin'; (repeat' split) <;> simp [*]

grind_pattern begin'_without => begin' s a c, s.without B

@[simp] theorem runEntry_without (s : State) (n : Nat) (c : Claim) (B : List Blk) (hB : [.qau, .corpus, .flash, .hbm, .eng, .warden, .maint, .hold, .links] ⊆ B) :
    (runEntry s n c).without B = s.without B := by
  simp only [List.cons_subset, List.nil_subset, and_true] at hB
  unfold runEntry
  dsimp only
  rw [begin'_without _ _ _ B (by simp [hB]), claimEvent_without _ _ _ _ _ B (by simp [hB]), State.setClaim_without _ _ _ B (by simp [hB]),
    foldl_without B _ (fun s e => by (repeat' split) <;> simp [hB])]

grind_pattern runEntry_without => runEntry s n c, s.without B

/-- The state in which a request leaves the machine. -/
def Asked.after : Asked → State
  | .refused s => s
  | .dropped s => s
  | .entry s _ => s

theorem ask_without (s : State) (a : Activity) (auto : Bool) (cmd queue tag : Nat) (B : List Blk)
    (hB : [.qau, .corpus, .flash, .hbm, .eng, .warden, .maint, .hold, .links] ⊆ B) :
    (ask s a auto cmd queue tag).after.without B = s.without B := by
  simp only [List.cons_subset, List.nil_subset, and_true] at hB
  unfold ask
  dsimp only
  split
  · simp [Asked.after, hB]
  · split <;> simp [Asked.after, hB]

@[simp] theorem askAuto_without (s : State) (a : Activity) (B : List Blk) (hB : [.qau, .corpus, .flash, .hbm, .eng, .warden, .maint, .hold, .links] ⊆ B) :
    (askAuto s a).without B = s.without B := by
  have e := ask_without s a true 0 0 0 B hB
  unfold askAuto
  split
  · rfl
  · rename_i g; rw [g] at e; exact e
  · rename_i g; rw [g] at e; exact e

grind_pattern askAuto_without => askAuto s a, s.without B

@[simp] theorem askFor_without (s : State) (c : Cmd) (a : Activity) (B : List Blk) (hB : [.qau, .corpus, .flash, .hbm, .eng, .warden, .maint, .hold, .links] ⊆ B) :
    (askFor s c a).without B = s.without B := by
  simp only [List.cons_subset, List.nil_subset, and_true] at hB
  have e := ask_without s a false c.seq c.queue c.tag B (by simp [hB])
  unfold askFor
  split <;> (rename_i g; rw [g] at e; simpa [hB, Asked.after] using e)

grind_pattern askFor_without => askFor s c a, s.without B

@[simp] theorem endClaim_without (s : State) (n how : Nat) (B : List Blk) (hB : [.qau, .hbm, .maint, .links] ⊆ B) :
    (endClaim s n how).without B = s.without B := by
  simp only [List.cons_subset, List.nil_subset, and_true] at hB
  unfold endClaim
  split
  · rfl
  · dsimp only
    simp only [claimEvent_without _ _ _ _ _ B (by simp [hB] : [Blk.qau, .hbm, .links] ⊆ B)]
    rw [foldl_without B _ (fun s e => by split <;> simp [hB])]
    simp [hB]

grind_pattern endClaim_without => endClaim s n how, s.without B

/-! ## Abort.lean -/

@[simp] theorem stopStage_without (s : State) (n : Nat) (B : List Blk) (hB : [.flash, .hbm, .eng] ⊆ B) :
    (stopStage s n).without B = s.without B := by
  simp only [List.cons_subset, List.nil_subset, and_true] at hB
  unfold stopStage
  dsimp only
  rw [without_mk _ _ _ _ _ _ _ _ _ _ _ _ _ _ _ _ _ _ _ _ _ _ _] <;> try simp only [hB, or_true, true_or]
  exact foldl_without B _ (fun s c => by (repeat' split) <;> simp [hB]) _ _

grind_pattern stopStage_without => stopStage s n, s.without B

@[simp] theorem dropBatch_without (s : State) (c : Cmd) (j : BatchJob) (st : Nat) (B : List Blk) (hB : [.freeCtr, .qau, .csn, .corpus, .flash, .reel, .sel, .hbm, .eng, .warden, .links] ⊆ B) :
    (dropBatch s c j st).without B = s.without B := by
  simp only [List.cons_subset, List.nil_subset, and_true] at hB
  simp [dropBatch, *]

grind_pattern dropBatch_without => dropBatch s c j st, s.without B

@[simp] theorem abortCmd_without (s : State) (c : Cmd) (B : List Blk) (hB : [.freeCtr, .qau, .csn, .corpus, .flash, .reel, .sel, .hbm, .eng, .warden, .maint, .links] ⊆ B) :
    (abortCmd s c).without B = s.without B := by
  simp only [List.cons_subset, List.nil_subset, and_true] at hB
  unfold abortCmd; (repeat' split) <;> simp [*]

grind_pattern abortCmd_without => abortCmd s c, s.without B

@[simp] theorem commandFault_without (s : State) (e : Nat) (B : List Blk) (hB : [.freeCtr, .qau, .csn, .corpus, .flash, .reel, .sel, .hbm, .eng, .warden, .maint, .links] ⊆ B) :
    (commandFault s e).without B = s.without B := by
  simp only [List.cons_subset, List.nil_subset, and_true] at hB
  unfold commandFault; (repeat' split) <;> simp [*]

grind_pattern commandFault_without => commandFault s e, s.without B

/-! ## Hbm.lean -/

@[simp] theorem zeroBanks_without (s : State) (p : Nat) (m : BitVec 48) (B : List Blk) (hB : [.hbm] ⊆ B) :
    (zeroBanks s p m).without B = s.without B := by
  simp only [List.cons_subset, List.nil_subset, and_true] at hB
  simp [zeroBanks, *]

grind_pattern zeroBanks_without => zeroBanks s p m, s.without B

@[simp] theorem dropZeroed_without (s : State) (p : Nat) (m : BitVec 48) (B : List Blk) (hB : [.corpus] ⊆ B) :
    (dropZeroed s p m).without B = s.without B := by
  simp only [List.cons_subset, List.nil_subset, and_true] at hB
  unfold dropZeroed; (repeat' split) <;> simp [*]

grind_pattern dropZeroed_without => dropZeroed s p m, s.without B

@[simp] theorem zeroChanging_without (s : State) (p : Nat) (B : List Blk) (hB : [.corpus, .hbm] ⊆ B) :
    (zeroChanging s p).without B = s.without B := by
  simp only [List.cons_subset, List.nil_subset, and_true] at hB
  unfold zeroChanging; (repeat' split) <;> simp [*]

grind_pattern zeroChanging_without => zeroChanging s p, s.without B

@[simp] theorem leaveAll_without (s : State) (p : Nat) (B : List Blk) (hB : [.reel] ⊆ B) :
    (leaveAll s p).without B = s.without B := by
  simp only [List.cons_subset, List.nil_subset, and_true] at hB
  unfold leaveAll; (repeat' split) <;> simp [*]

grind_pattern leaveAll_without => leaveAll s p, s.without B

@[simp] theorem takeBanks_without (s : State) (p : Nat) (B : List Blk) (hB : [.hbm] ⊆ B) :
    (takeBanks s p).without B = s.without B := by
  simp only [List.cons_subset, List.nil_subset, and_true] at hB
  unfold takeBanks; (repeat' split) <;> simp [*]

grind_pattern takeBanks_without => takeBanks s p, s.without B

/-! ## Objects.lean -/

@[simp] theorem moveRun_without (s : State) (lo n fresh : Nat) (B : List Blk) (hB : [.freeCtr, .qau, .corpus, .flash, .hbm, .eng, .warden, .links] ⊆ B) :
    (moveRun s lo n fresh).without B = s.without B := by
  simp only [List.cons_subset, List.nil_subset, and_true] at hB
  simp [moveRun, *]

grind_pattern moveRun_without => moveRun s lo n fresh, s.without B

@[simp] theorem moveOutBut_without (bad : Nat → Bool) (s : State) (o : Nat × Nat) (B : List Blk) (hB : [.freeCtr, .qau, .corpus, .flash, .hbm, .eng, .warden, .links] ⊆ B) :
    (moveOutBut bad s o).without B = s.without B := by
  simp only [List.cons_subset, List.nil_subset, and_true] at hB
  simp [moveOutBut, *]

grind_pattern moveOutBut_without => moveOutBut bad s o, s.without B

@[simp] theorem moveOut_without (s : State) (o : Nat × Nat) (B : List Blk) (hB : [.freeCtr, .qau, .corpus, .flash, .hbm, .eng, .warden, .links] ⊆ B) :
    (moveOut s o).without B = s.without B := by
  simp only [List.cons_subset, List.nil_subset, and_true] at hB
  simp [moveOut, *]

grind_pattern moveOut_without => moveOut s o, s.without B

@[simp] theorem emptySuper_without (s : State) (sb : Nat) (B : List Blk) (hB : [.freeCtr, .qau, .corpus, .flash, .hbm, .eng, .warden, .links] ⊆ B) :
    (emptySuper s sb).without B = s.without B := by
  simp only [List.cons_subset, List.nil_subset, and_true] at hB
  exact foldl_without B _ (fun s o => by simp [hB]) _ _

grind_pattern emptySuper_without => emptySuper s sb, s.without B

/-! ## Regions.lean -/

@[simp] theorem zeroReleased_without (s : State) (new : Tab (Option Region)) (B : List Blk) (hB : [.hbm] ⊆ B) :
    (zeroReleased s new).without B = s.without B := by
  simp only [List.cons_subset, List.nil_subset, and_true] at hB
  unfold zeroReleased; (repeat' split) <;> simp [*]

grind_pattern zeroReleased_without => zeroReleased s new, s.without B

/-! ## Plain.lean -/

@[simp] theorem moveBytes_without (s : State) (fs : List (Nat × Nat × Nat)) (ms : List (Region × Region)) (B : List Blk) (hB : [.hbm] ⊆ B) :
    (moveBytes s fs ms).without B = s.without B := by
  simp only [List.cons_subset, List.nil_subset, and_true] at hB
  unfold moveBytes; (repeat' split) <;> simp [*]

grind_pattern moveBytes_without => moveBytes s fs ms, s.without B

@[simp] theorem moveFrames_without (s : State) (fs : List (Nat × Nat × Nat)) (ms : List (Region × Region)) (B : List Blk) (hB : [.eng] ⊆ B) :
    (moveFrames s fs ms).without B = s.without B := by
  simp only [List.cons_subset, List.nil_subset, and_true] at hB
  exact foldl_without B _ (fun s o => by simp [hB]) _ _

grind_pattern moveFrames_without => moveFrames s fs ms, s.without B

@[simp] theorem moveLines_without (s : State) (st : Nat) (ms : List (Region × Region)) (B : List Blk) (hB : [.corpus] ⊆ B) :
    (moveLines s st ms).without B = s.without B := by
  simp only [List.cons_subset, List.nil_subset, and_true] at hB
  unfold moveLines; apply foldl_without; intro t e; dsimp only; (repeat' split) <;> simp [*]

grind_pattern moveLines_without => moveLines s st ms, s.without B

theorem emptyPlain_without (s : State) (st : Nat) (B : List Blk) (hB : [.alloc, .corpus, .hbm, .eng] ⊆ B) (t : State) (h : emptyPlain s st = some t) :
    t.without B = s.without B := by
  simp only [List.cons_subset, List.nil_subset, and_true] at hB
  unfold emptyPlain at h
  dsimp only at h
  split at h
  · cases h
  · obtain ⟨fs, _, rfl⟩ := Option.map_eq_some_iff.mp h
    simp [hB]

grind_pattern emptyPlain_without => emptyPlain s st, some t, s.without B

/-! ## Repair.lean -/

@[simp] theorem runVersion_without (s : State) (part unit : Nat) (v : W32) (B : List Blk) (hB : [.mod, .flash, .reel, .eng, .warden] ⊆ B) :
    (runVersion s part unit v).without B = s.without B := by
  simp only [List.cons_subset, List.nil_subset, and_true] at hB
  unfold runVersion; (repeat' split) <;> simp [*]

grind_pattern runVersion_without => runVersion s part unit v, s.without B

@[simp] theorem keepOld_without (s : State) (part unit : Nat) (B : List Blk) (hB : [.reel, .eng, .warden] ⊆ B) :
    (keepOld s part unit).without B = s.without B := by
  simp only [List.cons_subset, List.nil_subset, and_true] at hB
  unfold keepOld; (repeat' split) <;> simp [*]

grind_pattern keepOld_without => keepOld s part unit, s.without B

@[simp] theorem measureUnit_without (s : State) (part unit : Nat) (image : List Byte) (B : List Blk) (hB : [.freeCtr, .warden] ⊆ B) :
    (measureUnit s part unit image).without B = s.without B := by
  simp only [List.cons_subset, List.nil_subset, and_true] at hB
  simp [measureUnit, *]

grind_pattern measureUnit_without => measureUnit s part unit image, s.without B

@[simp] theorem settleImages_without (s : State) (part : Nat) (B : List Blk) (hB : [.flash] ⊆ B) :
    (settleImages s part).without B = s.without B := by
  simp only [List.cons_subset, List.nil_subset, and_true] at hB
  unfold settleImages
  dsimp only
  split <;> simp [hB]

grind_pattern settleImages_without => settleImages s part, s.without B

@[simp] theorem finishAct_without (s : State) (n : Nat) (c : Claim) (r0 r1 : Nat) (body : List Byte) (B : List Blk) (hB : [.qau, .hbm, .warden, .maint, .links] ⊆ B) :
    (finishAct s n c r0 r1 body).without B = s.without B := by
  simp only [List.cons_subset, List.nil_subset, and_true] at hB
  unfold finishAct; grind

grind_pattern finishAct_without => finishAct s n c r0 r1 body, s.without B

@[simp] theorem nextUnit_without (s : State) (n : Nat) (c : Claim) (a : Activity) (B : List Blk) (hB : [.qau, .corpus, .flash, .hbm, .eng, .warden, .maint, .hold, .links] ⊆ B) :
    (nextUnit s n c a).without B = s.without B := by
  simp only [List.cons_subset, List.nil_subset, and_true] at hB
  unfold nextUnit; dsimp only; (repeat' split) <;> simp_all

grind_pattern nextUnit_without => nextUnit s n c a, s.without B

@[simp] theorem lastSwap_without (s : State) (part : Nat) (B : List Blk) (hB : [.maint] ⊆ B) :
    (lastSwap s part).without B = s.without B := by
  simp only [List.cons_subset, List.nil_subset, and_true] at hB
  unfold lastSwap; split <;> simp [*]

grind_pattern lastSwap_without => lastSwap s part, s.without B

@[simp] theorem endUpdate_without (s : State) (n : Nat) (c : Claim) (part unit : Nat) (rest : List Nat) (image : List Byte) (failed : Nat) (B : List Blk) (hB : [.freeCtr, .mod, .qau, .corpus, .flash, .reel, .hbm, .eng, .warden, .maint, .hold, .links] ⊆ B) :
    (endUpdate s n c part unit rest image failed).without B = s.without B := by
  simp only [List.cons_subset, List.nil_subset, and_true] at hB
  unfold endUpdate; (repeat' split) <;> simp [*]

grind_pattern endUpdate_without => endUpdate s n c part unit rest image failed, s.without B

@[simp] theorem fillSpare_without (s : State) (st p bank row : Nat) (B : List Blk) (hB : [.freeCtr, .hbm] ⊆ B) :
    (fillSpare s st p bank row).without B = s.without B := by
  simp only [List.cons_subset, List.nil_subset, and_true] at hB
  unfold fillSpare; grind

grind_pattern fillSpare_without => fillSpare s st p bank row, s.without B

@[simp] theorem remapRow_without (s : State) (st p bank row : Nat) (B : List Blk) (hB : [.freeCtr, .qau, .hbm, .links] ⊆ B) :
    (remapRow s st p bank row).without B = s.without B := by
  simp only [List.cons_subset, List.nil_subset, and_true] at hB
  unfold remapRow; grind

grind_pattern remapRow_without => remapRow s st p bank row, s.without B

@[simp] theorem poisonRow_without (s : State) (lo : Nat) (B : List Blk) (hB : [.hbm] ⊆ B) :
    (poisonRow s lo).without B = s.without B := by
  simp only [List.cons_subset, List.nil_subset, and_true] at hB
  exact foldl_without B _ (fun s i => by dsimp only; split <;> simp [hB]) _ _

grind_pattern poisonRow_without => poisonRow s lo, s.without B

@[simp] theorem noteRetired_without (s : State) (st p : Nat) (B : List Blk) (hB : [.qau, .corpus, .flash, .hbm, .eng, .warden, .maint, .hold, .links] ⊆ B) :
    (noteRetired s st p).without B = s.without B := by
  simp only [List.cons_subset, List.nil_subset, and_true] at hB
  unfold noteRetired; (repeat' split) <;> simp [*]

grind_pattern noteRetired_without => noteRetired s st p, s.without B

@[simp] theorem retireRow_without (s : State) (st p bank row : Nat) (B : List Blk) (hB : [.qau, .alloc, .corpus, .flash, .hbm, .eng, .warden, .maint, .hold, .links] ⊆ B) :
    (retireRow s st p bank row).without B = s.without B := by
  simp only [List.cons_subset, List.nil_subset, and_true] at hB
  simp [retireRow, *]

grind_pattern retireRow_without => retireRow s st p bank row, s.without B

@[simp] theorem failChannel_without (s : State) (ch : Nat) (B : List Blk) (hB : [.flash] ⊆ B) :
    (failChannel s ch).without B = s.without B := by
  simp only [List.cons_subset, List.nil_subset, and_true] at hB
  simp [failChannel, *]

grind_pattern failChannel_without => failChannel s ch, s.without B

@[simp] theorem spendSpare_without (s : State) (B : List Blk) (hB : [.freeCtr, .qau, .flash, .hbm, .links] ⊆ B) :
    (spendSpare s).without B = s.without B := by
  simp only [List.cons_subset, List.nil_subset, and_true] at hB
  unfold spendSpare; grind

grind_pattern spendSpare_without => spendSpare s, s.without B

@[simp] theorem notePackage_without (s : State) (ch block : Nat) (B : List Blk) (hB : [.qau, .corpus, .flash, .hbm, .eng, .warden, .maint, .hold, .links] ⊆ B) :
    (notePackage s ch block).without B = s.without B := by
  simp only [List.cons_subset, List.nil_subset, and_true] at hB
  unfold notePackage; dsimp only; split <;> simp [*]

grind_pattern notePackage_without => notePackage s ch block, s.without B

@[simp] theorem emptyPackage_without (s : State) (ch k : Nat) (B : List Blk) (hB : [.freeCtr, .qau, .corpus, .flash, .hbm, .eng, .warden, .links] ⊆ B) :
    (emptyPackage s ch k).without B = s.without B := by
  simp only [List.cons_subset, List.nil_subset, and_true] at hB
  exact foldl_without B _ (fun s o => by simp [hB]) _ _

grind_pattern emptyPackage_without => emptyPackage s ch k, s.without B

@[simp] theorem replaceBlock_without (s : State) (ch sb : Nat) (B : List Blk) (hB : [.flash] ⊆ B) :
    (replaceBlock s ch sb).without B = s.without B := by
  simp only [List.cons_subset, List.nil_subset, and_true] at hB
  unfold replaceBlock; (repeat' split) <;> simp [*]

grind_pattern replaceBlock_without => replaceBlock s ch sb, s.without B

@[simp] theorem retireSuper_without (s : State) (sb : Nat) (B : List Blk) (hB : [.flash] ⊆ B) :
    (retireSuper s sb).without B = s.without B := by
  simp only [List.cons_subset, List.nil_subset, and_true] at hB
  unfold retireSuper; (repeat' split) <;> simp [*]

grind_pattern retireSuper_without => retireSuper s sb, s.without B

@[simp] theorem retireBlock_without (s : State) (ch block : Nat) (B : List Blk) (hB : [.freeCtr, .qau, .corpus, .flash, .hbm, .eng, .warden, .maint, .hold, .links] ⊆ B) :
    (retireBlock s ch block).without B = s.without B := by
  simp only [List.cons_subset, List.nil_subset, and_true] at hB
  unfold retireBlock; dsimp only; (repeat' split) <;> simp [*]

grind_pattern retireBlock_without => retireBlock s ch block, s.without B

@[simp] theorem retirePackage_without (s : State) (ch k : Nat) (B : List Blk) (hB : [.freeCtr, .qau, .corpus, .flash, .hbm, .eng, .warden, .links] ⊆ B) :
    (retirePackage s ch k).without B = s.without B := by
  simp only [List.cons_subset, List.nil_subset, and_true] at hB
  unfold retirePackage
  split
  · rfl
  · dsimp only
    have hf : ∀ (l : List Nat) (s : State), (l.foldl (fun s sb => replaceBlock s ch sb) s).without B = s.without B :=
      fun l s => foldl_without B _ (fun s o => by simp [hB]) _ _
    (repeat' split) <;> simp [*]

grind_pattern retirePackage_without => retirePackage s ch k, s.without B

@[simp] theorem retireFlash_without (s : State) (ch block : Nat) (package : Option Nat) (B : List Blk) (hB : [.freeCtr, .qau, .corpus, .flash, .hbm, .eng, .warden, .maint, .life, .hold, .links] ⊆ B) :
    (retireFlash s ch block package).without B = s.without B := by
  simp only [List.cons_subset, List.nil_subset, and_true] at hB
  unfold retireFlash; split <;> simp [hB]

grind_pattern retireFlash_without => retireFlash s ch block package, s.without B

theorem rewriteChannel_without (s : State) (ch : Nat) (B : List Blk) (hB : [.freeCtr, .qau, .corpus, .flash, .hbm, .eng, .warden, .links] ⊆ B) (t : State) (h : rewriteChannel s ch = some t) :
    t.without B = s.without B := by
  simp only [List.cons_subset, List.nil_subset, and_true] at hB
  unfold rewriteChannel at h
  split at h
  · cases h
  · simp only [Option.some.injEq] at h
    rw [← h]
    have e := foldl_without B (fun t o => programRows (moveOut t o) (openRun t o.2 (runBound t o.2) t.flash.slotCursor) o.2)
      (fun s o => by simp [hB]) (objectsWith s (fun u => (rowsHit s ch).contains (flaRow u))) s
    simpa [hB] using e

grind_pattern rewriteChannel_without => rewriteChannel s ch, some t, s.without B

@[simp] theorem pauseRewrite_without (s : State) (ch : Nat) (B : List Blk) (hB : [.qau, .flash, .hbm, .links] ⊆ B) :
    (pauseRewrite s ch).without B = s.without B := by
  simp only [List.cons_subset, List.nil_subset, and_true] at hB
  unfold pauseRewrite; (repeat' split) <;> simp [*]

grind_pattern pauseRewrite_without => pauseRewrite s ch, s.without B

@[simp] theorem passWeevil_without (s : State) (w : Nat) (B : List Blk) (hB : [.reel] ⊆ B) :
    (passWeevil s w).without B = s.without B := by
  simp only [List.cons_subset, List.nil_subset, and_true] at hB
  simp [passWeevil, *]

grind_pattern passWeevil_without => passWeevil s w, s.without B

theorem retirePc_without (s : State) (p : Nat) (B : List Blk) (hB : [.qau, .reel, .hbm, .links] ⊆ B) (t : State) (h : retirePc s p = some t) :
    t.without B = s.without B := by
  simp only [List.cons_subset, List.nil_subset, and_true] at hB
  unfold retirePc at h; grind

grind_pattern retirePc_without => retirePc s p, some t, s.without B

@[simp] theorem closeStack_without (s : State) (st : Nat) (B : List Blk) (hB : [.qau, .hbm, .links] ⊆ B) :
    (closeStack s st).without B = s.without B := by
  simp only [List.cons_subset, List.nil_subset, and_true] at hB
  unfold closeStack; (repeat' split) <;> simp [*]

grind_pattern closeStack_without => closeStack s st, s.without B

theorem retireStack_without (s : State) (st : Nat) (B : List Blk) (hB : [.qau, .alloc, .corpus, .reel, .hbm, .eng, .links] ⊆ B) (t : State) (h : retireStack s st = some t) :
    t.without B = s.without B := by
  simp only [List.cons_subset, List.nil_subset, and_true] at hB
  unfold retireStack at h
  split at h
  · split at h
    · cases h
    · rw [← Option.some.inj h]
      have hf : ∀ (l : List Nat) (s : State), (l.foldl (fun s p => passWeevil s (32 * st + p)) s).without B = s.without B :=
        fun l s => foldl_without B _ (fun s p => by simp [hB]) l s
      rw [closeStack_without _ _ B (by simp [hB]), hf]
  · split at h
    · cases h
    · obtain ⟨u, hu, rfl⟩ := Option.map_eq_some_iff.mp h
      have e := emptyPlain_without _ _ B (by simp [hB]) _ hu
      simp [hB, e]

grind_pattern retireStack_without => retireStack s st, some t, s.without B

@[simp] theorem chainPort_without (s : State) (p : Nat) (B : List Blk) (hB : [.freeCtr, .qau, .corpus, .flash, .hbm, .eng, .warden, .maint, .hold, .links] ⊆ B) :
    (chainPort s p).without B = s.without B := by
  simp only [List.cons_subset, List.nil_subset, and_true] at hB
  unfold chainPort; dsimp only; (repeat' split) <;> simp_all

grind_pattern chainPort_without => chainPort s p, s.without B

@[simp] theorem blowFuse_without (s : State) (st chan : Nat) (name : String) (data : List Byte) (B : List Blk) (hB : [.alloc] ⊆ B) :
    (blowFuse s st chan name data).without B = s.without B := by
  simp only [List.cons_subset, List.nil_subset, and_true] at hB
  unfold blowFuse; (repeat' split) <;> simp [*]

grind_pattern blowFuse_without => blowFuse s st chan name data, s.without B

theorem testRan_without (s : State) (e cmd : Nat) (B : List Blk) (hB : [.eng] ⊆ B) (t : State) (h : testRan s e cmd = some t) :
    t.without B = s.without B := by
  simp only [List.cons_subset, List.nil_subset, and_true] at hB
  unfold testRan at h; grind

grind_pattern testRan_without => testRan s e cmd, some t, s.without B

@[simp] theorem endRefetch_without (s : State) (n : Nat) (c : Claim) (part unit : Nat) (B : List Blk) (hB : [.mod, .qau, .flash, .reel, .hbm, .eng, .warden, .maint, .links] ⊆ B) :
    (endRefetch s n c part unit).without B = s.without B := by
  simp only [List.cons_subset, List.nil_subset, and_true] at hB
  unfold endRefetch; (repeat' split) <;> simp [*]

grind_pattern endRefetch_without => endRefetch s n c part unit, s.without B

@[simp] theorem marginReads_without (s : State) (ch : Nat) (B : List Blk) (hB : [.freeCtr, .qau, .corpus, .flash, .hbm, .warden, .links] ⊆ B) :
    (marginReads s ch).without B = s.without B := by
  simp only [List.cons_subset, List.nil_subset, and_true] at hB
  unfold marginReads
  dsimp only
  split
  · rfl
  · apply foldl_without; intro t e; simp [State.draw, hB]

grind_pattern marginReads_without => marginReads s ch, s.without B

@[simp] theorem testReads_without (s : State) (t i : Nat) (extended : Bool) (B : List Blk) (hB : [.freeCtr, .qau, .corpus, .flash, .hbm, .warden, .links] ⊆ B) :
    (testReads s t i extended).without B = s.without B := by
  simp only [List.cons_subset, List.nil_subset, and_true] at hB
  unfold testReads; (repeat' split) <;> simp [*]

grind_pattern testReads_without => testReads s t i extended, s.without B

@[simp] theorem endEntry_without (s : State) (n : Nat) (c : Claim) (result cap esr : Nat) (B : List Blk) (hB : [.freeCtr, .mod, .qau, .alloc, .corpus, .flash, .reel, .hbm, .eng, .warden, .maint, .life, .hold, .links] ⊆ B) :
    (endEntry s n c result cap esr).without B = s.without B := by
  simp only [List.cons_subset, List.nil_subset, and_true] at hB
  unfold endEntry
  split <;> (try split) <;> (try simp [hB]; done)
  · rename_i g; simp [hB, retirePc_without _ _ B (by simp [hB]) _ g]
  · rename_i g; split at g
    · simp [hB, retireStack_without _ _ B (by simp [hB]) _ g]
    · cases g
  · split
    · rename_i g; simp [hB, rewriteChannel_without _ _ B (by simp [hB]) _ g]
    · simp [hB]
  · rename_i g; simp [hB, testRan_without _ _ _ B (by simp [hB]) _ g]

grind_pattern endEntry_without => endEntry s n c result cap esr, s.without B

/-! ## Borer.lean -/

@[simp] theorem retireTired_without (s : State) (fs : List Nat) (B : List Blk) (hB : [.qau, .corpus, .flash, .hbm, .eng, .warden, .maint, .hold, .links] ⊆ B) :
    (retireTired s fs).without B = s.without B := by
  simp only [List.cons_subset, List.nil_subset, and_true] at hB
  unfold retireTired
  exact foldl_without B _ (fun s f => by dsimp only; split <;> simp [hB]) _ _

grind_pattern retireTired_without => retireTired s fs, s.without B

@[simp] theorem readUnits_without (s : State) (fs : List Nat) (sealed : Bool) (o : FlashRead) (B : List Blk) (hB : [.qau, .corpus, .flash, .hbm, .eng, .warden, .maint, .hold, .links] ⊆ B) :
    (readUnits s fs sealed o).without B = s.without B := by
  simp only [List.cons_subset, List.nil_subset, and_true] at hB
  unfold readUnits; (repeat' split) <;> simp [*]

grind_pattern readUnits_without => readUnits s fs sealed o, s.without B

@[simp] theorem settleAll_without (s : State) (B : List Blk) (hB : [.flash] ⊆ B) :
    (settleAll s).without B = s.without B := by
  simp only [List.cons_subset, List.nil_subset, and_true] at hB
  unfold settleAll; apply foldl_without; intro t e; split <;> simp [*]

grind_pattern settleAll_without => settleAll s, s.without B

@[simp] theorem loseOne_without (s : State) (fs : List Nat) (B : List Blk) (hB : [.freeCtr, .qau, .corpus, .flash, .hbm, .warden, .links] ⊆ B) :
    (loseOne s fs).without B = s.without B := by
  simp only [List.cons_subset, List.nil_subset, and_true] at hB
  unfold loseOne; dsimp only; (repeat' split) <;> simp_all

grind_pattern loseOne_without => loseOne s fs, s.without B

@[simp] theorem endRead_without (s : State) (fs : List Nat) (sealed : Bool) (o : FlashRead) (B : List Blk) (hB : [.freeCtr, .qau, .corpus, .flash, .hbm, .eng, .warden, .maint, .hold, .links] ⊆ B) :
    (endRead s fs sealed o).without B = s.without B := by
  simp only [List.cons_subset, List.nil_subset, and_true] at hB
  unfold endRead; (repeat' split) <;> simp [*]

grind_pattern endRead_without => endRead s fs sealed o, s.without B

@[simp] theorem payloadIn_without (s : State) (c : Cmd) (j : SearchJob) (p : List Byte) (bad : Bool) (B : List Blk) (hB : [.freeCtr, .qau, .hbm, .warden, .links] ⊆ B) :
    (payloadIn s c j p bad).without B = s.without B := by
  simp only [List.cons_subset, List.nil_subset, and_true] at hB
  unfold payloadIn; grind

grind_pattern payloadIn_without => payloadIn s c j p bad, s.without B

@[simp] theorem offsetIn_without (s : State) (c : Cmd) (j : SearchJob) (a : Option W64) (o : FlashRead) (B : List Blk) (hB : [.freeCtr, .qau, .flash, .hbm, .warden, .links] ⊆ B) :
    (offsetIn s c j a o).without B = s.without B := by
  simp only [List.cons_subset, List.nil_subset, and_true] at hB
  unfold offsetIn; grind

grind_pattern offsetIn_without => offsetIn s c j a o, s.without B

@[simp] theorem recordIn_without (s : State) (c : Cmd) (j : SearchJob) (e : Option (Cand × W32)) (o : FlashRead) (B : List Blk) (hB : [.freeCtr, .qau, .flash, .hbm, .warden, .links] ⊆ B) :
    (recordIn s c j e o).without B = s.without B := by
  simp only [List.cons_subset, List.nil_subset, and_true] at hB
  unfold recordIn; dsimp only; (repeat' split) <;> simp_all

grind_pattern recordIn_without => recordIn s c j e o, s.without B

@[simp] theorem payloadAim_without (s : State) (c : Cmd) (j : SearchJob) (e : Option (Cand × W32)) (B : List Blk) (hB : [.freeCtr] ⊆ B) :
    (payloadAim s c j e).1.without B = s.without B := by
  simp only [List.cons_subset, List.nil_subset, and_true] at hB
  unfold payloadAim; grind

grind_pattern payloadAim_without => payloadAim s c j e, s.without B

/-! ## Pins.lean -/

@[simp] theorem admitPin_without (s : State) (c : Cmd) (B : List Blk) (hB : [.qau, .csn, .hbm, .warden, .links] ⊆ B) :
    (admitPin s c).without B = s.without B := by
  simp only [List.cons_subset, List.nil_subset, and_true] at hB
  unfold admitPin; (repeat' split) <;> simp [*]

grind_pattern admitPin_without => admitPin s c, s.without B

@[simp] theorem admitUnpin_without (s : State) (c : Cmd) (B : List Blk) (hB : [.qau, .csn, .hbm, .warden, .links] ⊆ B) :
    (admitUnpin s c).without B = s.without B := by
  simp only [List.cons_subset, List.nil_subset, and_true] at hB
  unfold admitUnpin; (repeat' split) <;> simp [*]

grind_pattern admitUnpin_without => admitUnpin s c, s.without B

@[simp] theorem postReleased_without (s : State) (n : Nat) (p : Pin) (B : List Blk) (hB : [.qau, .hbm, .links] ⊆ B) :
    (postReleased s n p).without B = s.without B := by
  simp only [List.cons_subset, List.nil_subset, and_true] at hB
  simp [postReleased, *]

grind_pattern postReleased_without => postReleased s n p, s.without B

@[simp] theorem releasePins_without (s : State) (B : List Blk) (hB : [.qau, .csn, .hbm, .links] ⊆ B) :
    (releasePins s).without B = s.without B := by
  simp only [List.cons_subset, List.nil_subset, and_true] at hB
  simp [releasePins, *]

grind_pattern releasePins_without => releasePins s, s.without B

@[simp] theorem admitStats_without (s : State) (c : Cmd) (B : List Blk) (hB : [.qau, .hbm, .warden, .links] ⊆ B) :
    (admitStats s c).without B = s.without B := by
  simp only [List.cons_subset, List.nil_subset, and_true] at hB
  unfold admitStats; (repeat' split) <;> simp [*]

grind_pattern admitStats_without => admitStats s c, s.without B

@[simp] theorem checkStats_without (s : State) (c : Cmd) (cid rlen : Nat) (shaped : Bool) (B : List Blk) (hB : [.qau, .hbm, .warden, .links] ⊆ B) :
    (checkStats s c cid rlen shaped).without B = s.without B := by
  simp only [List.cons_subset, List.nil_subset, and_true] at hB
  unfold checkStats; (repeat' split) <;> simp [*]

grind_pattern checkStats_without => checkStats s c cid rlen shaped, s.without B

/-! ## Collections.lean -/

theorem runCreate_without (a : State) (x1 : Cmd) (x2 : List Byte) (B : List Blk) (hB : [.qau, .csn, .corpus, .flash, .hbm, .warden, .links] ⊆ B) (t : State) (h : runCreate a x1 x2 = some t) :
    t.without B = a.without B := by
  simp only [List.cons_subset, List.nil_subset, and_true] at hB
  unfold runCreate at h
  split at h
  · cases h; simp [hB]
  split at h
  · cases h; simp [hB]
  · obtain ⟨r, _, rfl⟩ := Option.map_eq_some_iff.mp h
    simp [hB]

grind_pattern runCreate_without => runCreate a x1 x2, some t, a.without B

@[simp] theorem destroyColl_without (s : State) (cid ref : Nat) (B : List Blk) (hB : [.csn, .corpus, .flash] ⊆ B) :
    (destroyColl s cid ref).2.without B = s.without B := by
  simp only [List.cons_subset, List.nil_subset, and_true] at hB
  simp [destroyColl, *]

grind_pattern destroyColl_without => destroyColl s cid ref, s.without B

theorem runDestroy_without (a : State) (x1 : Cmd) (x2 : List Byte) (B : List Blk) (hB : [.qau, .csn, .corpus, .flash, .hbm, .warden, .links] ⊆ B) (t : State) (h : runDestroy a x1 x2 = some t) :
    t.without B = a.without B := by
  simp only [List.cons_subset, List.nil_subset, and_true] at hB
  unfold runDestroy at h
  split at h
  · cases h; simp [hB]
  · obtain ⟨r, _, rfl⟩ := Option.map_eq_some_iff.mp h
    simp [hB]

grind_pattern runDestroy_without => runDestroy a x1 x2, some t, a.without B

theorem runGenInstall_without (a : State) (x1 : Cmd) (x2 : List Byte) (B : List Blk) (hB : [.qau, .corpus, .flash, .hbm, .warden, .links] ⊆ B) (t : State) (h : runGenInstall a x1 x2 = some t) :
    t.without B = a.without B := by
  simp only [List.cons_subset, List.nil_subset, and_true] at hB
  unfold runGenInstall at h; (repeat' split at h) <;> (simp_all; try subst_vars) <;> simp_all

grind_pattern runGenInstall_without => runGenInstall a x1 x2, some t, a.without B

theorem runPriority_without (a : State) (x1 : Cmd) (x2 : List Byte) (B : List Blk) (hB : [.qau, .corpus, .flash, .hbm, .warden, .links] ⊆ B) (t : State) (h : runPriority a x1 x2 = some t) :
    t.without B = a.without B := by
  simp only [List.cons_subset, List.nil_subset, and_true] at hB
  unfold runPriority at h; (repeat' split at h) <;> (simp_all; try subst_vars) <;> simp_all

grind_pattern runPriority_without => runPriority a x1 x2, some t, a.without B

theorem runPinRelease_without (a : State) (x1 : Cmd) (x2 : List Byte) (B : List Blk) (hB : [.qau, .csn, .hbm, .warden, .links] ⊆ B) (t : State) (h : runPinRelease a x1 x2 = some t) :
    t.without B = a.without B := by
  simp only [List.cons_subset, List.nil_subset, and_true] at hB
  unfold runPinRelease at h; grind

grind_pattern runPinRelease_without => runPinRelease a x1 x2, some t, a.without B

/-! ## FlashCmd.lean -/

@[simp] theorem eraseSuper_without (s : State) (sb : Nat) (B : List Blk) (hB : [.flash, .life] ⊆ B) :
    (eraseSuper s sb).without B = s.without B := by
  simp only [List.cons_subset, List.nil_subset, and_true] at hB
  simp [eraseSuper, *]

grind_pattern eraseSuper_without => eraseSuper s sb, s.without B

@[simp] theorem retireWorn_without (s : State) (sb : Nat) (B : List Blk) (hB : [.qau, .corpus, .flash, .hbm, .eng, .warden, .maint, .hold, .links] ⊆ B) :
    (retireWorn s sb).without B = s.without B := by
  simp only [List.cons_subset, List.nil_subset, and_true] at hB
  unfold retireWorn
  exact foldl_without B _ (fun s c => by split <;> simp [hB]) _ _

grind_pattern retireWorn_without => retireWorn s sb, s.without B

theorem packSuper_without (s : State) (sb fresh : Nat) (B : List Blk) (hB : [.freeCtr, .qau, .corpus, .flash, .hbm, .eng, .warden, .links] ⊆ B) (t : State) (h : packSuper s sb fresh = some t) :
    t.without B = s.without B := by
  simp only [List.cons_subset, List.nil_subset, and_true] at hB
  unfold packSuper at h
  obtain ⟨x, hx, rfl⟩ := Option.map_eq_some_iff.mp h
  have key : ∀ (l : List (Nat × Nat)) (a : Option (State × Nat)), (∀ y, a = some y → y.1.without B = s.without B) →
      ∀ y, l.foldl (fun (a : Option (State × Nat)) o => a.bind (fun x =>
        let lo := nthUnit x.1 0 x.2
        if freeRun x.1 lo o.2 && decide (runEnd x.1 lo o.2 ≤ (fresh + 1) * (120 * Config.superRows))
        then some (moveRun x.1 o.1 o.2 lo, runEnd x.1 lo o.2) else none)) a = some y → y.1.without B = s.without B := by
    intro l
    induction l with
    | nil => exact fun a ha => ha
    | cons o t ih =>
      refine fun a ha => ih _ (fun y hy => ?_)
      obtain ⟨x, hx, hy⟩ := Option.bind_eq_some_iff.mp hy
      dsimp only at hy
      split at hy
      · cases hy; simp [hB, ha x hx]
      · cases hy
  exact key _ _ (fun y hy => by cases hy; rfl) _ hx

grind_pattern packSuper_without => packSuper s sb fresh, some t, s.without B

end Sys2Proof.Machine
end

