-- ==== Sys2Proof/Laws/FrameControl.lean ====
section
/-! SUPPORT. What each shared operation leaves unchanged: launches, the warden, power, links, start-up, the window and registers. A lemma `f_without` says that `f` changes
no part of State outside the list it names. -/

namespace Sys2Proof.Machine

/-! ## Launch.lean -/

@[simp] theorem launchImage_without (s : State) (x1 : List Byte) (B : List Blk) (hB : [.hbm] ⊆ B) :
    (launchImage s x1).1.without B = s.without B := by
  simp only [List.cons_subset, List.nil_subset, and_true] at hB
  simp [launchImage, *]

grind_pattern launchImage_without => launchImage s x1, s.without B

theorem runLaunch_without (a : State) (x1 : Cmd) (x2 : List Byte) (B : List Blk) (hB : [.qau, .hbm, .eng, .warden, .links] ⊆ B) (t : State) (h : runLaunch a x1 x2 = some t) :
    t.without B = a.without B := by
  simp only [List.cons_subset, List.nil_subset, and_true] at hB
  unfold runLaunch at h
  split at h
  · cases h; simp [hB]
  · have e := launchImage_without a x2 B (by simp [hB])
    split at h
    · rename_i g; rw [g] at e; cases h; simpa [hB] using e
    · rename_i g; rw [g] at e
      split at h
      · cases h; simpa [hB] using e
      · obtain ⟨⟨u, ps⟩, hu, rfl⟩ := Option.map_eq_some_iff.mp h
        have e2 := pinnedPages_without _ _ _ _ _ _ _ B (by simp [hB]) _ hu
        simpa [hB] using e2.trans e

grind_pattern runLaunch_without => runLaunch a x1 x2, some t, a.without B

theorem runResume_without (a : State) (x1 : Cmd) (x2 : List Byte) (B : List Blk) (hB : [.qau, .hbm, .eng, .warden, .links] ⊆ B) (t : State) (h : runResume a x1 x2 = some t) :
    t.without B = a.without B := by
  simp only [List.cons_subset, List.nil_subset, and_true] at hB
  unfold runResume at h; (repeat' split at h) <;> (simp_all; try subst_vars) <;> simp_all

grind_pattern runResume_without => runResume a x1 x2, some t, a.without B

theorem runKill_without (a : State) (x1 : Cmd) (x2 : List Byte) (B : List Blk) (hB : [.qau, .flash, .hbm, .eng, .warden, .links] ⊆ B) (t : State) (h : runKill a x1 x2 = some t) :
    t.without B = a.without B := by
  simp only [List.cons_subset, List.nil_subset, and_true] at hB
  unfold runKill at h; (repeat' split at h) <;> (simp_all; try subst_vars) <;> simp_all

grind_pattern runKill_without => runKill a x1 x2, some t, a.without B

@[simp] theorem wantPage_without (s : State) (n : Nat) (x : Ctx) (p : Page) (B : List Blk) (hB : [.eng] ⊆ B) :
    (wantPage s n x p).without B = s.without B := by
  simp only [List.cons_subset, List.nil_subset, and_true] at hB
  unfold wantPage; (repeat' split) <;> simp [*]

grind_pattern wantPage_without => wantPage s n x p, s.without B

theorem bringIn_without (n : Nat) (a : List Nat) (x2 : State) (B : List Blk) (hB : [.freeCtr, .qau, .corpus, .flash, .hbm, .eng, .warden, .links] ⊆ B) :
    (bringIn n a x2).1.without B = x2.without B := by
  simp only [List.cons_subset, List.nil_subset, and_true] at hB
  induction a generalizing x2 with
  | nil => rfl
  | cons va l ih =>
    unfold bringIn
    split
    · exact ih _
    · split
      · exact ih _
      · split
        · simp [hB]
        · split
          · dsimp only; split <;> simp [hB]
          · dsimp only
            split
            · simp [hB]
            · rw [ih]; simp [hB]

grind_pattern bringIn_without => bringIn n a x2, x2.without B

@[simp] theorem putSample_without (n : Nat) (s : State) (va : Nat) (x3 : List Byte) (B : List Blk) (hB : [.corpus, .reel, .hbm, .eng] ⊆ B) :
    (putSample n s va x3).without B = s.without B := by
  simp only [List.cons_subset, List.nil_subset, and_true] at hB
  unfold putSample; (repeat' split) <;> simp [*]

grind_pattern putSample_without => putSample n s va x3, s.without B

@[simp] theorem putSamples_without (n stride : Nat) (a : List (List Byte)) (x3 : Nat) (x4 : State) (B : List Blk) (hB : [.corpus, .reel, .hbm, .eng] ⊆ B) :
    (putSamples n stride a x3 x4).without B = x4.without B := by
  simp only [List.cons_subset, List.nil_subset, and_true] at hB
  induction a generalizing n stride x3 x4 <;> (unfold putSamples; grind)

grind_pattern putSamples_without => putSamples n stride a x3 x4, x4.without B

theorem runSample_without (a : State) (x1 : Cmd) (x2 : List Byte) (B : List Blk) (hB : [.freeCtr, .qau, .corpus, .flash, .reel, .hbm, .eng, .warden, .links] ⊆ B) (t : State) (h : runSample a x1 x2 = some t) :
    t.without B = a.without B := by
  simp only [List.cons_subset, List.nil_subset, and_true] at hB
  unfold runSample at h
  split at h
  · dsimp only at h
    split at h <;> (cases h; simp [hB, bringIn_without])
  · cases h; simp [hB]

grind_pattern runSample_without => runSample a x1 x2, some t, a.without B

/-! ## Maint.lean -/

@[simp] theorem runActivity_without (s : State) (c : Cmd) (a : Activity) (B : List Blk) (hB : [.qau, .corpus, .flash, .hbm, .eng, .warden, .maint, .hold, .links] ⊆ B) :
    (runActivity s c a).without B = s.without B := by
  simp only [List.cons_subset, List.nil_subset, and_true] at hB
  unfold runActivity; (repeat' split) <;> simp [*]

grind_pattern runActivity_without => runActivity s c a, s.without B

@[simp] theorem activityMaint_without (s : State) (q : QueueId) (sub : Nat) (authAt : List Byte → Option Nat) (shaped : List Byte → Bool) (a : Activity) (B : List Blk) (hB : [.qau, .corpus, .flash, .hbm, .eng, .warden, .maint, .hold, .links] ⊆ B) :
    (activityMaint s q sub authAt shaped a).without B = s.without B := by
  simp only [List.cons_subset, List.nil_subset, and_true] at hB
  unfold activityMaint; (repeat' split) <;> simp [*]

grind_pattern activityMaint_without => activityMaint s q sub authAt shaped a, s.without B

@[simp] theorem simpleMaint_without (s : State) (q : QueueId) (sub : Nat) (a : Activity) (B : List Blk) (hB : [.qau, .corpus, .flash, .hbm, .eng, .warden, .maint, .hold, .links] ⊆ B) :
    (simpleMaint s q sub a).without B = s.without B := by
  simp only [List.cons_subset, List.nil_subset, and_true] at hB
  simp [simpleMaint, *]

grind_pattern simpleMaint_without => simpleMaint s q sub a, s.without B

@[simp] theorem storeImage_without (s : State) (part : Nat) (image : List Byte) (B : List Blk) (hB : [.freeCtr, .flash, .warden] ⊆ B) :
    (storeImage s part image).without B = s.without B := by
  simp only [List.cons_subset, List.nil_subset, and_true] at hB
  unfold storeImage
  dsimp only
  (repeat' split) <;> simp [*]

grind_pattern storeImage_without => storeImage s part image, s.without B

theorem runUpdate_without (a : State) (x1 : Cmd) (x2 : List Byte) (B : List Blk) (hB : [.freeCtr, .qau, .corpus, .flash, .hbm, .eng, .warden, .maint, .hold, .links] ⊆ B) (t : State) (h : runUpdate a x1 x2 = some t) :
    t.without B = a.without B := by
  simp only [List.cons_subset, List.nil_subset, and_true] at hB
  unfold runUpdate at h; (repeat' split at h) <;> (simp_all; try subst_vars) <;> simp_all

grind_pattern runUpdate_without => runUpdate a x1 x2, some t, a.without B

@[simp] theorem admitSelftest_without (s : State) (c : Cmd) (B : List Blk) (hB : [.qau, .corpus, .flash, .hbm, .eng, .warden, .maint, .hold, .links] ⊆ B) :
    (admitSelftest s c).without B = s.without B := by
  simp only [List.cons_subset, List.nil_subset, and_true] at hB
  simp [admitSelftest, *]

grind_pattern admitSelftest_without => admitSelftest s c, s.without B

@[simp] theorem leaveOwing_without (s : State) (w n : Nat) (B : List Blk) (hB : [.reel] ⊆ B) :
    (leaveOwing s w n).without B = s.without B := by
  simp only [List.cons_subset, List.nil_subset, and_true] at hB
  unfold leaveOwing; (repeat' split) <;> simp [*]

grind_pattern leaveOwing_without => leaveOwing s w n, s.without B

/-! ## Warden.lean -/

@[simp] theorem takeRequest_without (s : State) (r : Request) (len : Nat) (B : List Blk) (hB : [.rsp, .qau, .hbm, .warden, .links] ⊆ B) :
    (takeRequest s r len).without B = s.without B := by
  simp only [List.cons_subset, List.nil_subset, and_true] at hB
  unfold takeRequest; (repeat' split) <;> simp [*]

grind_pattern takeRequest_without => takeRequest s r len, s.without B

@[simp] theorem mailboxGo_without (s : State) (B : List Blk) (hB : [.rsp, .qau, .hbm, .warden, .links] ⊆ B) :
    (mailboxGo s).without B = s.without B := by
  simp only [List.cons_subset, List.nil_subset, and_true] at hB
  unfold mailboxGo
  have e := State.read_without s 8 (s.warden.buf.toNat * 262144) 131072 .clean B (by simp [hB])
  dsimp only
  split
  · rfl
  · split
    · simp [hB]
    · split <;> (rename_i g; rw [g] at e; simp_all)

grind_pattern mailboxGo_without => mailboxGo s, s.without B

theorem mbOk_without (s : State) (body : List Byte) (B : List Blk) (t : State × Nat × List Byte) (h : mbOk s body = some t) :
    t.1.without B = s.without B := by
  unfold mbOk at h; grind

grind_pattern mbOk_without => mbOk s body, some t, s.without B

theorem mbNo_without (s : State) (result : Nat) (B : List Blk) (t : State × Nat × List Byte) (h : mbNo s result = some t) :
    t.1.without B = s.without B := by
  unfold mbNo at h; grind

grind_pattern mbNo_without => mbNo s result, some t, s.without B

@[simp] theorem runRequest_without (s : State) (type : Nat) (run : MbRun) (B : List Blk)
    (hB : [.rsp, .qau, .hbm, .warden, .links] ⊆ B) (hr : ∀ s b t, run s b = some t → t.1.without B = s.without B) :
    (runRequest s type run).without B = s.without B := by
  simp only [List.cons_subset, List.nil_subset, and_true] at hB
  unfold runRequest
  split
  · rfl
  · rename_i r _
    split
    · rfl
    · cases hrun : run s r.body with
      | none => rfl
      | some t => simpa [hB] using hr _ _ _ hrun



@[simp] theorem logged_without (s : State) (type : Nat) (body : List Byte) (B : List Blk) (hB : [.warden] ⊆ B) :
    (logged s type body).without B = s.without B := by
  simp only [List.cons_subset, List.nil_subset, and_true] at hB
  simp [logged, *]

grind_pattern logged_without => logged s type body, s.without B

@[simp] theorem takeIndex_without (s : State) (B : List Blk) (hB : [.warden] ⊆ B) :
    (takeIndex s).2.without B = s.without B := by
  simp only [List.cons_subset, List.nil_subset, and_true] at hB
  simp [takeIndex, *]

grind_pattern takeIndex_without => takeIndex s, s.without B

@[simp] theorem disableQueue_without (s : State) (q : Nat) (B : List Blk) (hB : [.qau, .hbm, .warden, .links] ⊆ B) :
    (disableQueue s q).without B = s.without B := by
  simp only [List.cons_subset, List.nil_subset, and_true] at hB
  unfold disableQueue; grind

grind_pattern disableQueue_without => disableQueue s q, s.without B

@[simp] theorem disableSealed_without (s : State) (n reason : Nat) (B : List Blk) (hB : [.qau, .hbm, .warden, .links] ⊆ B) :
    (disableSealed s n reason).without B = s.without B := by
  simp only [List.cons_subset, List.nil_subset, and_true] at hB
  unfold disableSealed; grind

grind_pattern disableSealed_without => disableSealed s n reason, s.without B

@[simp] theorem endSessions_without (s : State) (reason : Nat) (p : Session → Bool) (B : List Blk) (hB : [.qau, .hbm, .warden, .links] ⊆ B) :
    (endSessions s reason p).without B = s.without B := by
  simp only [List.cons_subset, List.nil_subset, and_true] at hB
  exact foldl_without B _ (fun s e => by split <;> simp [hB]) _ _

grind_pattern endSessions_without => endSessions s reason p, s.without B

theorem runClaim_without (a : State) (x1 : List Byte) (B : List Blk) (hB : [.warden] ⊆ B) (t : State × Nat × List Byte) (h : runClaim a x1 = some t) :
    t.1.without B = a.without B := by
  simp only [List.cons_subset, List.nil_subset, and_true] at hB
  unfold runClaim mbNo mbOk at h
  dsimp only at h
  (repeat' split at h) <;> cases h <;> simp [hB]

grind_pattern runClaim_without => runClaim a x1, some t, a.without B

theorem destroySealed_without (s : State) (a : List Nat) (B : List Blk) (hB : [.csn, .corpus, .flash] ⊆ B) (t : State) (h : destroySealed s a = some t) :
    t.without B = s.without B := by
  simp only [List.cons_subset, List.nil_subset, and_true] at hB
  induction a generalizing s t with
  | nil => cases h; rfl
  | cons cid l ih =>
    unfold destroySealed at h
    obtain ⟨r, _, h⟩ := Option.bind_eq_some_iff.mp h
    rw [ih _ _ h]; simp [hB]

grind_pattern destroySealed_without => destroySealed s a, some t, s.without B

theorem runTransfer_without (a : State) (x1 : List Byte) (B : List Blk) (hB : [.qau, .csn, .corpus, .flash, .hbm, .warden, .links] ⊆ B) (t : State × Nat × List Byte) (h : runTransfer a x1 = some t) :
    t.1.without B = a.without B := by
  simp only [List.cons_subset, List.nil_subset, and_true] at hB
  unfold runTransfer mbNo at h
  dsimp only at h
  split at h
  · cases h; rfl
  · split at h
    · cases h; rfl
    · split at h
      · cases h; rfl
      · obtain ⟨u, hu, rfl⟩ := Option.map_eq_some_iff.mp h
        have e := destroySealed_without _ _ B (by simp [hB]) _ hu
        simp [hB, e]

grind_pattern runTransfer_without => runTransfer a x1, some t, a.without B

@[simp] theorem acceptPolicy_without (s : State) (p : Policy) (B : List Blk) (hB : [.freeCtr, .mod, .qau, .alloc, .flash, .reel, .hbm, .eng, .warden, .pwr, .links] ⊆ B) :
    (acceptPolicy s p).without B = s.without B := by
  simp only [List.cons_subset, List.nil_subset, and_true] at hB
  simp [acceptPolicy, *]

grind_pattern acceptPolicy_without => acceptPolicy s p, s.without B

theorem runPolicy_without (a : State) (x1 : List Byte) (B : List Blk) (hB : [.freeCtr, .mod, .qau, .alloc, .flash, .reel, .hbm, .eng, .warden, .pwr, .links] ⊆ B) (t : State × Nat × List Byte) (h : runPolicy a x1 = some t) :
    t.1.without B = a.without B := by
  simp only [List.cons_subset, List.nil_subset, and_true] at hB
  unfold runPolicy mbNo mbOk at h
  (repeat' split at h) <;> cases h <;> simp [hB]

grind_pattern runPolicy_without => runPolicy a x1, some t, a.without B

theorem runTime_without (a : State) (x1 : List Byte) (B : List Blk) (hB : [.qau, .hbm, .warden, .links] ⊆ B) (t : State × Nat × List Byte) (h : runTime a x1 = some t) :
    t.1.without B = a.without B := by
  simp only [List.cons_subset, List.nil_subset, and_true] at hB
  unfold runTime at h; grind

grind_pattern runTime_without => runTime a x1, some t, a.without B

theorem openSession_without (s : State) (ct : List Byte) (q : Nat) (ss g key nonce sig : List Byte) (B : List Blk) (hB : [.qau, .warden] ⊆ B) (t : State × Nat × List Byte) (h : openSession s ct q ss g key nonce sig = some t) :
    t.1.without B = s.without B := by
  simp only [List.cons_subset, List.nil_subset, and_true] at hB
  unfold openSession mbNo mbOk at h
  dsimp only at h
  (repeat' split at h) <;> cases h <;> simp [hB]

grind_pattern openSession_without => openSession s ct q ss g key nonce sig, some t, s.without B

theorem runSessionOpen_without (a : State) (x1 : List Byte) (B : List Blk) (hB : [.qau, .warden] ⊆ B) (t : State × Nat × List Byte) (h : runSessionOpen a x1 = some t) :
    t.1.without B = a.without B := by
  simp only [List.cons_subset, List.nil_subset, and_true] at hB
  unfold runSessionOpen at h
  split at h
  · cases h; rfl
  · split at h
    · cases h; rfl
    · dsimp only at h
      split at h
      · cases h; rfl
      · exact openSession_without _ _ _ _ _ _ _ _ B (by simp [hB]) _ h

grind_pattern runSessionOpen_without => runSessionOpen a x1, some t, a.without B

@[simp] theorem mapSealed_without (s : State) (f : Nat → Coll → Coll) (B : List Blk) (hB : [.corpus] ⊆ B) :
    (mapSealed s f).without B = s.without B := by
  simp only [List.cons_subset, List.nil_subset, and_true] at hB
  simp [mapSealed, *]

grind_pattern mapSealed_without => mapSealed s f, s.without B

@[simp] theorem clearKeys_without (s : State) (B : List Blk) (hB : [.qau, .csn, .corpus, .flash, .hbm, .warden, .links] ⊆ B) :
    (clearKeys s).without B = s.without B := by
  simp only [List.cons_subset, List.nil_subset, and_true] at hB
  unfold clearKeys; (repeat' split) <;> simp [*]

grind_pattern clearKeys_without => clearKeys s, s.without B

@[simp] theorem scrubSealed_without (s : State) (B : List Blk) (hB : [.corpus, .hbm] ⊆ B) :
    (scrubSealed s).without B = s.without B := by
  simp only [List.cons_subset, List.nil_subset, and_true] at hB
  simp [scrubSealed, *]

grind_pattern scrubSealed_without => scrubSealed s, s.without B

@[simp] theorem dropSealedCtxs_without (s : State) (B : List Blk) (hB : [.flash, .hbm, .eng] ⊆ B) :
    (dropSealedCtxs s).without B = s.without B := by
  simp only [List.cons_subset, List.nil_subset, and_true] at hB
  exact foldl_without B _ (fun s c => by split <;> simp [hB]) _ _

grind_pattern dropSealedCtxs_without => dropSealedCtxs s, s.without B

@[simp] theorem restoreSealed_without (s : State) (B : List Blk) (hB : [.mod, .corpus] ⊆ B) :
    (restoreSealed s).without B = s.without B := by
  simp only [List.cons_subset, List.nil_subset, and_true] at hB
  unfold restoreSealed; (repeat' split) <;> simp [*]

grind_pattern restoreSealed_without => restoreSealed s, s.without B

@[simp] theorem extend15_without (s : State) (B : List Blk) (hB : [.freeCtr, .warden] ⊆ B) :
    (extend15 s).without B = s.without B := by
  simp only [List.cons_subset, List.nil_subset, and_true] at hB
  simp [extend15, *]

grind_pattern extend15_without => extend15 s, s.without B

@[simp] theorem openDebug_without (s : State) (secs : Nat) (B : List Blk) (hB : [.freeCtr, .qau, .hbm, .warden, .links] ⊆ B) :
    (openDebug s secs).without B = s.without B := by
  simp only [List.cons_subset, List.nil_subset, and_true] at hB
  simp [openDebug, *]

grind_pattern openDebug_without => openDebug s secs, s.without B

theorem runDebugUnlock_without (a : State) (x1 : List Byte) (B : List Blk) (hB : [.freeCtr, .qau, .corpus, .flash, .hbm, .eng, .warden, .links] ⊆ B) (t : State × Nat × List Byte) (h : runDebugUnlock a x1 = some t) :
    t.1.without B = a.without B := by
  simp only [List.cons_subset, List.nil_subset, and_true] at hB
  unfold runDebugUnlock mbNo mbOk at h
  dsimp only at h
  (repeat' split at h) <;> cases h <;> simp [hB]

grind_pattern runDebugUnlock_without => runDebugUnlock a x1, some t, a.without B

@[simp] theorem beginUnlock_without (s : State) (b : List Byte) (B : List Blk) (hB : [.qau, .hbm, .warden, .links] ⊆ B) :
    (beginUnlock s b).without B = s.without B := by
  simp only [List.cons_subset, List.nil_subset, and_true] at hB
  unfold beginUnlock; (repeat' split) <;> simp [*]

grind_pattern beginUnlock_without => beginUnlock s b, s.without B

@[simp] theorem beginScrub_without (s : State) (B : List Blk) (hB : [.qau, .csn, .corpus, .flash, .hbm, .warden, .links] ⊆ B) :
    (beginScrub s).without B = s.without B := by
  simp only [List.cons_subset, List.nil_subset, and_true] at hB
  unfold beginScrub; (repeat' split) <;> simp [*]

grind_pattern beginScrub_without => beginScrub s, s.without B

@[simp] theorem endDebug_without (s : State) (why : Nat) (B : List Blk) (hB : [.freeCtr, .mod, .qau, .corpus, .hbm, .warden, .links] ⊆ B) :
    (endDebug s why).without B = s.without B := by
  simp only [List.cons_subset, List.nil_subset, and_true] at hB
  unfold endDebug; (repeat' split) <;> simp [*]

grind_pattern endDebug_without => endDebug s why, s.without B

@[simp] theorem cutSealed_without (s : State) (c : Cmd) (B : List Blk) (hB : [.freeCtr, .qau, .csn, .corpus, .flash, .reel, .sel, .hbm, .eng, .warden, .links] ⊆ B) :
    (cutSealed s c).without B = s.without B := by
  simp only [List.cons_subset, List.nil_subset, and_true] at hB
  unfold cutSealed; dsimp only; (repeat' split) <;> simp_all

grind_pattern cutSealed_without => cutSealed s c, s.without B

@[simp] theorem tamperOne_without (s : State) (level d : Nat) (B : List Blk) (hB : [.freeCtr, .qau, .csn, .corpus, .flash, .reel, .sel, .hbm, .eng, .warden, .links] ⊆ B) :
    (tamperOne s level d).without B = s.without B := by
  simp only [List.cons_subset, List.nil_subset, and_true] at hB
  simp [tamperOne, *]

grind_pattern tamperOne_without => tamperOne s level d, s.without B

@[simp] theorem tamperTwo_without (s : State) (B : List Blk) (hB : [.qau, .csn, .corpus, .flash, .hbm, .eng, .warden, .links] ⊆ B) :
    (tamperTwo s).without B = s.without B := by
  simp only [List.cons_subset, List.nil_subset, and_true] at hB
  simp [tamperTwo, *]

grind_pattern tamperTwo_without => tamperTwo s, s.without B

@[simp] theorem tamperThree_without (s : State) (B : List Blk) (hB : [.warden] ⊆ B) :
    (tamperThree s).without B = s.without B := by
  simp only [List.cons_subset, List.nil_subset, and_true] at hB
  simp [tamperThree, *]

grind_pattern tamperThree_without => tamperThree s, s.without B

/-! ## Power.lean -/

@[simp] theorem startEntry_without (s : State) (target : Nat) (owner after : Option Nat) (byProtect : Bool) (B : List Blk) (hB : [.pwr] ⊆ B) :
    (startEntry s target owner after byProtect).without B = s.without B := by
  simp only [List.cons_subset, List.nil_subset, and_true] at hB
  simp [startEntry, *]

grind_pattern startEntry_without => startEntry s target owner after byProtect, s.without B

@[simp] theorem runPower_without (s : State) (c : Cmd) (st : Nat) (B : List Blk) (hB : [.qau, .hbm, .warden, .pwr, .links] ⊆ B) :
    (runPower s c st).without B = s.without B := by
  simp only [List.cons_subset, List.nil_subset, and_true] at hB
  unfold runPower; (repeat' split) <;> simp [*]

grind_pattern runPower_without => runPower s c st, s.without B

@[simp] theorem pauseTests_without (s : State) (B : List Blk) (hB : [.qau, .maint] ⊆ B) :
    (pauseTests s).without B = s.without B := by
  simp only [List.cons_subset, List.nil_subset, and_true] at hB
  exact foldl_without B _ (fun s e => by (repeat' split) <;> (try dsimp only) <;> (try split) <;> simp [hB]) _ _

grind_pattern pauseTests_without => pauseTests s, s.without B

@[simp] theorem resumeTests_without (s : State) (B : List Blk) (hB : [.maint] ⊆ B) :
    (resumeTests s).without B = s.without B := by
  simp only [List.cons_subset, List.nil_subset, and_true] at hB
  exact foldl_without B _ (fun s e => by split <;> simp [hB]) _ _

grind_pattern resumeTests_without => resumeTests s, s.without B

@[simp] theorem saveAll_without (s : State) (B : List Blk) (hB : [.freeCtr, .eng] ⊆ B) :
    (saveAll s).without B = s.without B := by
  simp only [List.cons_subset, List.nil_subset, and_true] at hB
  unfold saveAll; apply foldl_without; intro t e; split <;> simp [*]

grind_pattern saveAll_without => saveAll s, s.without B

@[simp] theorem pcieDown_without (s : State) (B : List Blk) (hB : [.links] ⊆ B) :
    (pcieDown s).without B = s.without B := by
  simp only [List.cons_subset, List.nil_subset, and_true] at hB
  simp [pcieDown, *]

grind_pattern pcieDown_without => pcieDown s, s.without B

@[simp] theorem linksDown_without (s : State) (B : List Blk) (hB : [.links] ⊆ B) :
    (linksDown s).without B = s.without B := by
  simp only [List.cons_subset, List.nil_subset, and_true] at hB
  simp [linksDown, *]

grind_pattern linksDown_without => linksDown s, s.without B

@[simp] theorem cutCmd_without (s : State) (c : Cmd) (B : List Blk) (hB : [.freeCtr, .qau, .csn, .corpus, .flash, .reel, .sel, .hbm, .eng, .warden, .maint, .links] ⊆ B) :
    (cutCmd s c).without B = s.without B := by
  simp only [List.cons_subset, List.nil_subset, and_true] at hB
  unfold cutCmd; (repeat' split) <;> simp [*]

grind_pattern cutCmd_without => cutCmd s c, s.without B

@[simp] theorem stopFetch_without (s : State) (B : List Blk) (hB : [.qau] ⊆ B) :
    (stopFetch s).without B = s.without B := by
  simp only [List.cons_subset, List.nil_subset, and_true] at hB
  simp [stopFetch, *]

grind_pattern stopFetch_without => stopFetch s, s.without B

@[simp] theorem endContexts_without (s : State) (B : List Blk) (hB : [.flash, .hbm, .eng] ⊆ B) :
    (endContexts s).without B = s.without B := by
  simp only [List.cons_subset, List.nil_subset, and_true] at hB
  simp [endContexts, *]

grind_pattern endContexts_without => endContexts s, s.without B

@[simp] theorem persist_without (s : State) (B : List Blk) (hB : [.qau, .csn, .flash, .hbm, .warden, .links] ⊆ B) :
    (persist s).without B = s.without B := by
  simp only [List.cons_subset, List.nil_subset, and_true] at hB
  unfold persist; (repeat' split) <;> simp [*]

grind_pattern persist_without => persist s, s.without B

@[simp] theorem loseHbm_without (s : State) (B : List Blk) (hB : [.corpus, .hbm] ⊆ B) :
    (loseHbm s).without B = s.without B := by
  simp only [List.cons_subset, List.nil_subset, and_true] at hB
  simp [loseHbm, *]

grind_pattern loseHbm_without => loseHbm s, s.without B

@[simp] theorem blocksOff_without (s : State) (B : List Blk) (hB : [.mod, .qau, .csn, .alloc, .corpus, .flash, .reel, .sel, .hbm, .eng, .maint, .hold, .links] ⊆ B) :
    (blocksOff s).without B = s.without B := by
  simp only [List.cons_subset, List.nil_subset, and_true] at hB
  simp [blocksOff, *]

grind_pattern blocksOff_without => blocksOff s, s.without B

@[simp] theorem endHolders_without (s : State) (B : List Blk) (hB : [.qau, .csn, .hbm, .warden, .links] ⊆ B) :
    (endHolders s).without B = s.without B := by
  simp only [List.cons_subset, List.nil_subset, and_true] at hB
  simp [endHolders, *]

grind_pattern endHolders_without => endHolders s, s.without B

@[simp] theorem enterVigil_without (s : State) (B : List Blk) (hB : [.freeCtr, .mod, .qau, .csn, .alloc, .corpus, .flash, .reel, .sel, .hbm, .eng, .warden, .maint, .pwr, .hold, .links] ⊆ B) :
    (enterVigil s).without B = s.without B := by
  simp only [List.cons_subset, List.nil_subset, and_true] at hB
  simp [enterVigil, *]

grind_pattern enterVigil_without => enterVigil s, s.without B

@[simp] theorem stateEffect_without (s : State) (a : Nat) (B : List Blk) (hB : [.freeCtr, .mod, .qau, .csn, .alloc, .corpus, .flash, .reel, .sel, .hbm, .eng, .warden, .maint, .pwr, .hold, .links] ⊆ B) :
    (stateEffect s a).without B = s.without B := by
  simp only [List.cons_subset, List.nil_subset, and_true] at hB
  unfold stateEffect; (repeat' split) <;> simp [*]

grind_pattern stateEffect_without => stateEffect s a, s.without B

theorem maintRunOf_without (sub : Nat) (run : MaintRun) (hm : maintRunOf sub = some run) (B : List Blk)
    (hB : [.freeCtr, .qau, .csn, .corpus, .flash, .reel, .hbm, .eng, .warden, .maint, .pwr, .hold, .links] ⊆ B)
    (s t : State) (c : Cmd) (bs : List Byte) (h : run s c bs = some t) : t.without B = s.without B := by
  simp only [List.cons_subset, List.nil_subset, and_true] at hB
  unfold maintRunOf at hm
  split at hm <;> cases hm
  · exact runCreate_without _ _ _ B (by simp [hB]) _ h
  · exact runDestroy_without _ _ _ B (by simp [hB]) _ h
  · exact runGenInstall_without _ _ _ B (by simp [hB]) _ h
  · exact runSample_without _ _ _ B (by simp [hB]) _ h
  · exact runLaunch_without _ _ _ B (by simp [hB]) _ h
  · exact runResume_without _ _ _ B (by simp [hB]) _ h
  · exact runKill_without _ _ _ B (by simp [hB]) _ h
  · exact runPinRelease_without _ _ _ B (by simp [hB]) _ h
  · exact runUpdate_without _ _ _ B (by simp [hB]) _ h
  · exact runPriority_without _ _ _ B (by simp [hB]) _ h



@[simp] theorem releaseCmd_without (s : State) (c : Cmd) (B : List Blk)
    (hB : [.freeCtr, .qau, .csn, .corpus, .flash, .reel, .hbm, .eng, .warden, .maint, .pwr, .hold, .links] ⊆ B) :
    (releaseCmd s c).without B = s.without B := by
  have hB' := hB
  simp only [List.cons_subset, List.nil_subset, and_true] at hB
  unfold releaseCmd
  split
  · split
    · simp [hB]
    · split <;> simp [hB]
  · split
    · simp [hB]
    · split <;> simp [hB]
  · simp [hB]
  · simp [hB]
  · simp [hB]
  · split
    · simp [hB]
    · split
      · simp [hB]
      · split
        · simp [hB]
        · split
          · simp [hB]
          · cases hm : maintRunOf c.subop with
            | none => simp [hB]
            | some run =>
              simp only [Option.bind_some]
              cases hr : run s c c.body with
              | none => simp [hB]
              | some t => exact maintRunOf_without _ _ hm B hB' _ _ _ _ hr

@[simp] theorem releaseHeld_without (s : State) (B : List Blk) (hB : [.freeCtr, .qau, .csn, .corpus, .flash, .reel, .hbm, .eng, .warden, .maint, .pwr, .hold, .links] ⊆ B) :
    (releaseHeld s).without B = s.without B := by
  simp only [List.cons_subset, List.nil_subset, and_true] at hB
  exact foldl_without B _ (fun s c => by split <;> simp [hB]) _ _

grind_pattern releaseHeld_without => releaseHeld s, s.without B

@[simp] theorem releaseOthers_without (s : State) (B : List Blk) (hB : [.freeCtr, .qau, .csn, .corpus, .flash, .reel, .hbm, .eng, .warden, .maint, .pwr, .hold, .links] ⊆ B) :
    (releaseOthers s).without B = s.without B := by
  simp only [List.cons_subset, List.nil_subset, and_true] at hB
  unfold releaseOthers; (repeat' split) <;> simp [*]

grind_pattern releaseOthers_without => releaseOthers s, s.without B

@[simp] theorem backToRun_without (s : State) (B : List Blk) (hB : [.freeCtr, .qau, .csn, .corpus, .flash, .reel, .hbm, .eng, .warden, .maint, .pwr, .hold, .links] ⊆ B) :
    (backToRun s).without B = s.without B := by
  simp only [List.cons_subset, List.nil_subset, and_true] at hB
  unfold backToRun; dsimp only; (repeat' split) <;> simp_all

grind_pattern backToRun_without => backToRun s, s.without B

@[simp] theorem protectCmd_without (s : State) (c : Cmd) (B : List Blk) (hB : [.freeCtr, .qau, .csn, .corpus, .flash, .reel, .sel, .hbm, .eng, .warden, .maint, .links] ⊆ B) :
    (protectCmd s c).without B = s.without B := by
  simp only [List.cons_subset, List.nil_subset, and_true] at hB
  unfold protectCmd; (repeat' split) <;> simp [*]

grind_pattern protectCmd_without => protectCmd s c, s.without B

@[simp] theorem holdOwner_without (s : State) (B : List Blk) (hB : [.qau, .pwr] ⊆ B) :
    (holdOwner s).without B = s.without B := by
  simp only [List.cons_subset, List.nil_subset, and_true] at hB
  unfold holdOwner; (repeat' split) <;> simp [*]

grind_pattern holdOwner_without => holdOwner s, s.without B

@[simp] theorem protectTarget_without (s : State) (B : List Blk) (hB : [.qau, .pwr] ⊆ B) :
    (protectTarget s).without B = s.without B := by
  simp only [List.cons_subset, List.nil_subset, and_true] at hB
  unfold protectTarget; grind

grind_pattern protectTarget_without => protectTarget s, s.without B

@[simp] theorem startProtect_without (s : State) (flow : Bool) (B : List Blk) (hB : [.freeCtr, .qau, .csn, .corpus, .flash, .reel, .sel, .hbm, .eng, .warden, .maint, .pwr, .therm, .links] ⊆ B) :
    (startProtect s flow).without B = s.without B := by
  simp only [List.cons_subset, List.nil_subset, and_true] at hB
  unfold startProtect; dsimp only; (repeat' split) <;> simp_all

grind_pattern startProtect_without => startProtect s flow, s.without B

/-! ## Links.lean -/

@[simp] theorem noteStart_without (s : State) (B : List Blk) (hB : [.freeCtr, .mod, .qau, .hbm, .links] ⊆ B) :
    (noteStart s).without B = s.without B := by
  simp only [List.cons_subset, List.nil_subset, and_true] at hB
  unfold noteStart; grind

grind_pattern noteStart_without => noteStart s, s.without B

@[simp] theorem linkEvent_without (s : State) (src port up how : Nat) (B : List Blk) (hB : [.qau, .hbm, .links] ⊆ B) :
    (linkEvent s src port up how).without B = s.without B := by
  simp only [List.cons_subset, List.nil_subset, and_true] at hB
  simp [linkEvent, *]

grind_pattern linkEvent_without => linkEvent s src port up how, s.without B

@[simp] theorem portTrained_without (s : State) (p : Nat) (r : LinkResult) (B : List Blk) (hB : [.freeCtr, .mod, .qau, .hbm, .links] ⊆ B) :
    (portTrained s p r).without B = s.without B := by
  simp only [List.cons_subset, List.nil_subset, and_true] at hB
  simp [portTrained, *]

grind_pattern portTrained_without => portTrained s p r, s.without B

@[simp] theorem mgmtTrained_without (s : State) (r : LinkResult) (B : List Blk) (hB : [.freeCtr, .qau, .hbm, .links] ⊆ B) :
    (mgmtTrained s r).without B = s.without B := by
  simp only [List.cons_subset, List.nil_subset, and_true] at hB
  unfold mgmtTrained; grind

grind_pattern mgmtTrained_without => mgmtTrained s r, s.without B

@[simp] theorem pcieTrained_without (s : State) (r : LinkResult) (B : List Blk) (hB : [.qau, .hbm, .links] ⊆ B) :
    (pcieTrained s r).without B = s.without B := by
  simp only [List.cons_subset, List.nil_subset, and_true] at hB
  unfold pcieTrained; grind

grind_pattern pcieTrained_without => pcieTrained s r, s.without B

/-! ## Meter.lean -/

@[simp] theorem meterLog_without (s : State) (type data : Nat) (B : List Blk) (hB : [.meter] ⊆ B) :
    (meterLog s type data).without B = s.without B := by
  simp only [List.cons_subset, List.nil_subset, and_true] at hB
  unfold meterLog; (repeat' split) <;> simp [*]

grind_pattern meterLog_without => meterLog s type data, s.without B

@[simp] theorem meterLogOrCount_without (s : State) (type data : Nat) (B : List Blk) (hB : [.meter] ⊆ B) :
    (meterLogOrCount s type data).without B = s.without B := by
  simp only [List.cons_subset, List.nil_subset, and_true] at hB
  unfold meterLogOrCount; (repeat' split) <;> simp [*]

grind_pattern meterLogOrCount_without => meterLogOrCount s type data, s.without B

@[simp] theorem noteKeys_without (s : State) (B : List Blk) (hB : [.qau, .hbm, .meter, .links] ⊆ B) :
    (noteKeys s).without B = s.without B := by
  simp only [List.cons_subset, List.nil_subset, and_true] at hB
  unfold noteKeys; grind

grind_pattern noteKeys_without => noteKeys s, s.without B

@[simp] theorem meterFails_without (s : State) (code : Nat) (B : List Blk) (hB : [.qau, .hbm, .meter, .links] ⊆ B) :
    (meterFails s code).without B = s.without B := by
  simp only [List.cons_subset, List.nil_subset, and_true] at hB
  unfold meterFails; (repeat' split) <;> simp [*]

grind_pattern meterFails_without => meterFails s code, s.without B

@[simp] theorem meterUp_without (s : State) (B : List Blk) (hB : [.freeCtr, .qau, .hbm, .meter, .links] ⊆ B) :
    (meterUp s).without B = s.without B := by
  simp only [List.cons_subset, List.nil_subset, and_true] at hB
  unfold meterUp
  split
  · rfl
  · dsimp only [State.draw]; split <;> simp [*]

grind_pattern meterUp_without => meterUp s, s.without B

/-! ## Thermal.lean -/

@[simp] theorem setGroup_without (s : State) (g level temp : Nat) (cool : Tab Nat) (failed : Bool) (B : List Blk) (hB : [.hbm, .therm] ⊆ B) :
    (setGroup s g level temp cool failed).without B = s.without B := by
  simp only [List.cons_subset, List.nil_subset, and_true] at hB
  unfold setGroup; (repeat' split) <;> simp [*]

grind_pattern setGroup_without => setGroup s g level temp cool failed, s.without B

@[simp] theorem thermEvent_without (s : State) (g level x3 : Nat) (B : List Blk) (hB : [.qau, .hbm, .links] ⊆ B) :
    (thermEvent s g level x3).without B = s.without B := by
  simp only [List.cons_subset, List.nil_subset, and_true] at hB
  unfold thermEvent; (repeat' split) <;> simp [*]

grind_pattern thermEvent_without => thermEvent s g level x3, s.without B

@[simp] theorem readGroup_without (s : State) (g x2 : Nat) (B : List Blk) (hB : [.qau, .hbm, .therm, .links] ⊆ B) :
    (readGroup s g x2).without B = s.without B := by
  simp only [List.cons_subset, List.nil_subset, and_true] at hB
  unfold readGroup; grind

grind_pattern readGroup_without => readGroup s g x2, s.without B

@[simp] theorem failGroup_without (s : State) (g : Nat) (B : List Blk) (hB : [.qau, .hbm, .therm, .links] ⊆ B) :
    (failGroup s g).without B = s.without B := by
  simp only [List.cons_subset, List.nil_subset, and_true] at hB
  unfold failGroup; grind

grind_pattern failGroup_without => failGroup s g, s.without B

@[simp] theorem readAll_without (s : State) (a : Nat) (x2 : List (Option Nat)) (B : List Blk) (hB : [.qau, .hbm, .therm, .links] ⊆ B) :
    (readAll s a x2).without B = s.without B := by
  simp only [List.cons_subset, List.nil_subset, and_true] at hB
  induction x2 generalizing s a <;> (unfold readAll; (repeat' split) <;> simp [*])

grind_pattern readAll_without => readAll s a x2, s.without B

@[simp] theorem afterRead_without (s : State) (B : List Blk) (hB : [.freeCtr, .qau, .csn, .corpus, .flash, .reel, .sel, .hbm, .eng, .warden, .maint, .pwr, .therm, .links] ⊆ B) :
    (afterRead s).without B = s.without B := by
  simp only [List.cons_subset, List.nil_subset, and_true] at hB
  unfold afterRead; dsimp only; (repeat' split) <;> simp_all

grind_pattern afterRead_without => afterRead s, s.without B

/-! ## Startup.lean -/

@[simp] theorem stopUnit_without (s : State) (part unit : Nat) (B : List Blk) (hB : [.mod, .flash, .reel, .eng, .warden] ⊆ B) :
    (stopUnit s part unit).without B = s.without B := by
  simp only [List.cons_subset, List.nil_subset, and_true] at hB
  unfold stopUnit; (repeat' split) <;> simp [*]

grind_pattern stopUnit_without => stopUnit s part unit, s.without B

@[simp] theorem bootUnit_without (s : State) (part unit : Nat) (B : List Blk) (hB : [.mod, .flash, .reel, .eng, .warden] ⊆ B) :
    (bootUnit s part unit).without B = s.without B := by
  simp only [List.cons_subset, List.nil_subset, and_true] at hB
  unfold bootUnit; (repeat' split) <;> simp [*]

grind_pattern bootUnit_without => bootUnit s part unit, s.without B

@[simp] theorem bootUnits_without (s : State) (B : List Blk) (hB : [.mod, .flash, .reel, .eng, .warden] ⊆ B) :
    (bootUnits s).without B = s.without B := by
  simp only [List.cons_subset, List.nil_subset, and_true] at hB
  exact foldl_without B _ (fun s p => foldl_without B _ (fun s u => by simp [hB]) _ _) _ _

grind_pattern bootUnits_without => bootUnits s, s.without B

@[simp] theorem bootCores_without (s : State) (B : List Blk) (hB : [.mod] ⊆ B) :
    (bootCores s).without B = s.without B := by
  simp only [List.cons_subset, List.nil_subset, and_true] at hB
  unfold bootCores
  split <;> simp [stopUnit, hB]

grind_pattern bootCores_without => bootCores s, s.without B

@[simp] theorem measureBoot_without (s : State) (B : List Blk) (hB : [.warden] ⊆ B) :
    (measureBoot s).without B = s.without B := by
  simp only [List.cons_subset, List.nil_subset, and_true] at hB
  unfold measureBoot; dsimp only; (repeat' split) <;> simp_all

grind_pattern measureBoot_without => measureBoot s, s.without B

@[simp] theorem restoreIndex_without (s : State) (B : List Blk) (hB : [.warden] ⊆ B) :
    (restoreIndex s).without B = s.without B := by
  simp only [List.cons_subset, List.nil_subset, and_true] at hB
  simp [restoreIndex, *]

grind_pattern restoreIndex_without => restoreIndex s, s.without B

@[simp] theorem wardenBoot_without (s : State) (B : List Blk) (hB : [.warden, .life] ⊆ B) :
    (wardenBoot s).without B = s.without B := by
  simp only [List.cons_subset, List.nil_subset, and_true] at hB
  unfold wardenBoot; grind

grind_pattern wardenBoot_without => wardenBoot s, s.without B

@[simp] theorem countFused_without (s : State) (B : List Blk) (hB : [.alloc, .hbm] ⊆ B) :
    (countFused s).without B = s.without B := by
  simp only [List.cons_subset, List.nil_subset, and_true] at hB
  unfold countFused; (repeat' split) <;> simp [*]

grind_pattern countFused_without => countFused s, s.without B

@[simp] theorem loadPolicy_without (s : State) (B : List Blk) (hB : [.freeCtr, .mod, .qau, .alloc, .flash, .reel, .hbm, .eng, .warden, .pwr, .links] ⊆ B) :
    (loadPolicy s).without B = s.without B := by
  simp only [List.cons_subset, List.nil_subset, and_true] at hB
  simp [loadPolicy, *]

grind_pattern loadPolicy_without => loadPolicy s, s.without B

@[simp] theorem retestStack_without (s : State) (n : Nat) (B : List Blk) (hB : [.freeCtr, .hbm] ⊆ B) :
    (retestStack s n).without B = s.without B := by
  simp only [List.cons_subset, List.nil_subset, and_true] at hB
  unfold retestStack; grind

grind_pattern retestStack_without => retestStack s n, s.without B

@[simp] theorem retestPc_without (s : State) (p : Nat) (B : List Blk) (hB : [.freeCtr, .hbm] ⊆ B) :
    (retestPc s p).without B = s.without B := by
  simp only [List.cons_subset, List.nil_subset, and_true] at hB
  unfold retestPc; grind

grind_pattern retestPc_without => retestPc s p, s.without B

@[simp] theorem trainPc_without (s : State) (p : Nat) (B : List Blk) (hB : [.reel, .hbm] ⊆ B) :
    (trainPc s p).without B = s.without B := by
  simp only [List.cons_subset, List.nil_subset, and_true] at hB
  unfold trainPc; (repeat' split) <;> simp [*]

grind_pattern trainPc_without => trainPc s p, s.without B

@[simp] theorem trainLanes_without (s : State) (n : Nat) (B : List Blk) (hB : [.freeCtr, .hbm] ⊆ B) :
    (trainLanes s n).without B = s.without B := by
  simp only [List.cons_subset, List.nil_subset, and_true] at hB
  simp [trainLanes, *]

grind_pattern trainLanes_without => trainLanes s n, s.without B

@[simp] theorem leavePlain_without (s : State) (st : Nat) (B : List Blk) (hB : [.alloc, .corpus, .hbm, .eng] ⊆ B) :
    (leavePlain s st).without B = s.without B := by
  simp only [List.cons_subset, List.nil_subset, and_true] at hB
  unfold leavePlain
  split
  · cases h : emptyPlain s st with
    | none => rfl
    | some t => exact emptyPlain_without s st B (by simp [hB]) t h
  · rfl

grind_pattern leavePlain_without => leavePlain s st, s.without B

@[simp] theorem retrain_without (s : State) (B : List Blk) (hB : [.freeCtr, .alloc, .corpus, .reel, .hbm, .eng] ⊆ B) :
    (retrain s).without B = s.without B := by
  simp only [List.cons_subset, List.nil_subset, and_true] at hB
  simp [retrain, *]

grind_pattern retrain_without => retrain s, s.without B

@[simp] theorem settleRegions_without (s : State) (B : List Blk) (hB : [.alloc, .hbm] ⊆ B) :
    (settleRegions s).without B = s.without B := by
  simp only [List.cons_subset, List.nil_subset, and_true] at hB
  unfold settleRegions; dsimp only; split <;> simp [*]

grind_pattern settleRegions_without => settleRegions s, s.without B

@[simp] theorem train_without (s : State) (B : List Blk) (hB : [.freeCtr, .alloc, .reel, .hbm] ⊆ B) :
    (train s).without B = s.without B := by
  simp only [List.cons_subset, List.nil_subset, and_true] at hB
  simp [train, *]

grind_pattern train_without => train s, s.without B

@[simp] theorem fitAll_without (s : State) (B : List Blk) (hB : [.qau, .corpus, .hbm, .warden, .links] ⊆ B) :
    (fitAll s).without B = s.without B := by
  simp only [List.cons_subset, List.nil_subset, and_true] at hB
  simp [fitAll, *]

grind_pattern fitAll_without => fitAll s, s.without B

@[simp] theorem mount_without (s : State) (B : List Blk) (hB : [.mod, .qau, .corpus, .flash, .hbm, .warden, .links] ⊆ B) :
    (mount s).without B = s.without B := by
  simp only [List.cons_subset, List.nil_subset, and_true] at hB
  simp [mount, *]

grind_pattern mount_without => mount s, s.without B

@[simp] theorem restartCsn_without (s : State) (current : Nat) (B : List Blk) (hB : [.csn] ⊆ B) :
    (restartCsn s current).without B = s.without B := by
  simp only [List.cons_subset, List.nil_subset, and_true] at hB
  simp [restartCsn, *]

grind_pattern restartCsn_without => restartCsn s current, s.without B

@[simp] theorem serve_without (s : State) (B : List Blk) (hB : [.mod] ⊆ B) :
    (serve s).without B = s.without B := by
  simp only [List.cons_subset, List.nil_subset, and_true] at hB
  simp [serve, *]

grind_pattern serve_without => serve s, s.without B

@[simp] theorem saveSize_without (s : State) (B : List Blk) (hB : [.freeCtr] ⊆ B) :
    (saveSize s).2.without B = s.without B := by
  simp only [List.cons_subset, List.nil_subset, and_true] at hB
  unfold saveSize; grind

grind_pattern saveSize_without => saveSize s, s.without B

@[simp] theorem saveCorpus_without (s : State) (B : List Blk) (hB : [.csn, .flash] ⊆ B) :
    (saveCorpus s).without B = s.without B := by
  simp only [List.cons_subset, List.nil_subset, and_true] at hB
  simp [saveCorpus, *]

grind_pattern saveCorpus_without => saveCorpus s, s.without B

@[simp] theorem save_without (s : State) (stored fromInput : Bool) (B : List Blk) (hB : [.freeCtr, .csn, .flash, .warden, .hold] ⊆ B) :
    (save s stored fromInput).without B = s.without B := by
  simp only [List.cons_subset, List.nil_subset, and_true] at hB
  unfold save; grind

grind_pattern save_without => save s stored fromInput, s.without B

@[simp] theorem railsOff_without (s : State) (B : List Blk) (hB : [.mod, .qau, .csn, .alloc, .corpus, .flash, .reel, .sel, .hbm, .eng, .warden, .maint, .pwr, .hold, .links] ⊆ B) :
    (railsOff s).without B = s.without B := by
  simp only [List.cons_subset, List.nil_subset, and_true] at hB
  simp [railsOff, *]

grind_pattern railsOff_without => railsOff s, s.without B

@[simp] theorem bankStart_without (s : State) (cold : Bool) (B : List Blk) (hB : [.hold] ⊆ B) :
    (bankStart s cold).without B = s.without B := by
  simp only [List.cons_subset, List.nil_subset, and_true] at hB
  simp [bankStart, *]

grind_pattern bankStart_without => bankStart s cold, s.without B

@[simp] theorem restoreLife_without (s : State) (B : List Blk) (hB : [.life, .hold] ⊆ B) :
    (restoreLife s).without B = s.without B := by
  simp only [List.cons_subset, List.nil_subset, and_true] at hB
  simp [restoreLife, *]

grind_pattern restoreLife_without => restoreLife s, s.without B

@[simp] theorem resetBlocks_without (s : State) (B : List Blk) (hB : [.mod, .qau, .csn, .alloc, .corpus, .flash, .reel, .sel, .hbm, .eng, .maint, .life, .pwr, .therm, .hold, .links] ⊆ B) :
    (resetBlocks s).without B = s.without B := by
  simp only [List.cons_subset, List.nil_subset, and_true] at hB
  simp [resetBlocks, *]

grind_pattern resetBlocks_without => resetBlocks s, s.without B

@[simp] theorem startEvents_without (s : State) (debug : Bool) (B : List Blk) (hB : [.qau, .csn, .hbm, .hold, .links] ⊆ B) :
    (startEvents s debug).without B = s.without B := by
  simp only [List.cons_subset, List.nil_subset, and_true] at hB
  unfold startEvents; dsimp only; (repeat' split) <;> simp_all

grind_pattern startEvents_without => startEvents s debug, s.without B

@[simp] theorem bootRest_without (s : State) (B : List Blk) (hB : [.freeCtr, .mod, .qau, .csn, .alloc, .corpus, .flash, .reel, .hbm, .eng, .warden, .pwr, .links] ⊆ B) :
    (bootRest s).without B = s.without B := by
  simp only [List.cons_subset, List.nil_subset, and_true] at hB
  simp [bootRest, *]

grind_pattern bootRest_without => bootRest s, s.without B

@[simp] theorem restart_without (s : State) (kind cause : Nat) (B : List Blk) (hB : [.freeCtr, .mod, .qau, .csn, .alloc, .corpus, .flash, .reel, .sel, .hbm, .eng, .warden, .maint, .life, .pwr, .therm, .hold, .links] ⊆ B) :
    (restart s kind cause).without B = s.without B := by
  simp only [List.cons_subset, List.nil_subset, and_true] at hB
  unfold restart
  dsimp only
  (repeat' split) <;> simp [hB]

grind_pattern restart_without => restart s kind cause, s.without B

@[simp] theorem resetSaid_without (s : State) (c : ResetCause) (ok : Bool) (B : List Blk) (hB : [.rsp] ⊆ B) :
    (resetSaid s c ok).without B = s.without B := by
  simp only [List.cons_subset, List.nil_subset, and_true] at hB
  unfold resetSaid; (repeat' split) <;> simp [*]

grind_pattern resetSaid_without => resetSaid s c ok, s.without B

@[simp] theorem handoverEnds_without (s : State) (B : List Blk) (hB : [.freeCtr, .rsp, .mod, .qau, .corpus, .flash, .reel, .hbm, .eng, .warden, .maint, .hold, .links] ⊆ B) :
    (handoverEnds s).without B = s.without B := by
  simp only [List.cons_subset, List.nil_subset, and_true] at hB
  unfold handoverEnds
  (repeat' split) <;> simp [*]

grind_pattern handoverEnds_without => handoverEnds s, s.without B

@[simp] theorem full_without (s : State) (cause : Nat) (B : List Blk) (hB : [.freeCtr, .rsp, .mod, .qau, .csn, .alloc, .corpus, .flash, .reel, .sel, .hbm, .eng, .warden, .maint, .life, .pwr, .therm, .hold, .links] ⊆ B) :
    (full s cause).without B = s.without B := by
  simp only [List.cons_subset, List.nil_subset, and_true] at hB
  simp [full, *]

grind_pattern full_without => full s cause, s.without B

@[simp] theorem leaveVigil_without (s : State) (B : List Blk) (hB : [.freeCtr, .mod, .qau, .alloc, .corpus, .flash, .reel, .hbm, .eng, .warden, .pwr, .links] ⊆ B) :
    (leaveVigil s).without B = s.without B := by
  simp only [List.cons_subset, List.nil_subset, and_true] at hB
  simp [leaveVigil, *]

grind_pattern leaveVigil_without => leaveVigil s, s.without B

@[simp] theorem verifyBlocks_without (s t : State) (B : List Blk) (hB : [.freeCtr, .qau, .corpus, .flash, .hbm, .warden, .links] ⊆ B) :
    (verifyBlocks s t).without B = t.without B := by
  simp only [List.cons_subset, List.nil_subset, and_true] at hB
  unfold verifyBlocks; apply foldl_without; intro t e; dsimp only; (repeat' split) <;> simp [*]

grind_pattern verifyBlocks_without => verifyBlocks s t, t.without B

@[simp] theorem warm_without (s : State) (cause : Nat) (B : List Blk) (hB : [.freeCtr, .rsp, .mod, .qau, .csn, .alloc, .corpus, .flash, .reel, .sel, .hbm, .eng, .warden, .maint, .pwr, .therm, .hold, .links] ⊆ B) :
    (warm s cause).without B = s.without B := by
  simp only [List.cons_subset, List.nil_subset, and_true] at hB
  unfold warm; dsimp only; (repeat' split) <;> simp_all

grind_pattern warm_without => warm s cause, s.without B

@[simp] theorem warmOrWake_without (s : State) (cause : Nat) (B : List Blk) (hB : [.freeCtr, .rsp, .mod, .qau, .csn, .alloc, .corpus, .flash, .reel, .sel, .hbm, .eng, .warden, .maint, .pwr, .therm, .hold, .links] ⊆ B) :
    (warmOrWake s cause).without B = s.without B := by
  simp only [List.cons_subset, List.nil_subset, and_true] at hB
  unfold warmOrWake; (repeat' split) <;> simp [*]

grind_pattern warmOrWake_without => warmOrWake s cause, s.without B

@[simp] theorem reloadBlocks_without (s : State) (cid : Nat) (B : List Blk) (hB : [.freeCtr, .qau, .corpus, .flash, .hbm, .warden, .links] ⊆ B) :
    (reloadBlocks s cid).without B = s.without B := by
  simp only [List.cons_subset, List.nil_subset, and_true] at hB
  unfold reloadBlocks; apply foldl_without; intro t e; dsimp only; (repeat' split) <;> simp [*]

grind_pattern reloadBlocks_without => reloadBlocks s cid, s.without B

/-! ## Window.lean -/

@[simp] theorem winSay_without (s : State) (status : Nat) (B : List Blk) :
    (winSay s status).s.without B = s.without B := by
  simp [winSay, *]

grind_pattern winSay_without => winSay s status, s.without B

@[simp] theorem runWindow_without (s : State) (w op : Nat) (rs : List Nat) (run : State → List Byte → WinAnswer) (B : List Blk)
    (hB : [.reel, .hbm] ⊆ B) (hr : ∀ s bs, (run s bs).s.without B = s.without B) :
    (runWindow s w op rs run).without B = s.without B := by
  simp only [List.cons_subset, List.nil_subset, and_true] at hB
  unfold runWindow
  split
  · rfl
  · split
    · rfl
    · dsimp only; split <;> simp [hB, hr]



@[simp] theorem putHeader_without (s : State) (w x2 : Nat) (x : Header) (B : List Blk) (hB : [.corpus] ⊆ B) :
    (putHeader s w x2 x).without B = s.without B := by
  simp only [List.cons_subset, List.nil_subset, and_true] at hB
  simp [putHeader, *]

grind_pattern putHeader_without => putHeader s w x2 x, s.without B

@[simp] theorem runHdrWrite_without (w : Nat) (s : State) (x2 : List Byte) (B : List Blk) (hB : [.corpus] ⊆ B) :
    (runHdrWrite w s x2).s.without B = s.without B := by
  simp only [List.cons_subset, List.nil_subset, and_true] at hB
  unfold runHdrWrite; (repeat' split) <;> simp [*]

grind_pattern runHdrWrite_without => runHdrWrite w s x2, s.without B

@[simp] theorem runExclWrite_without (w : Nat) (s : State) (x2 : List Byte) (B : List Blk) (hB : [.corpus] ⊆ B) :
    (runExclWrite w s x2).s.without B = s.without B := by
  simp only [List.cons_subset, List.nil_subset, and_true] at hB
  unfold runExclWrite; grind

grind_pattern runExclWrite_without => runExclWrite w s x2, s.without B

@[simp] theorem setPaused_without (s : State) (w : Nat) (b : Bool) (B : List Blk) (hB : [.reel] ⊆ B) :
    (setPaused s w b).without B = s.without B := by
  simp only [List.cons_subset, List.nil_subset, and_true] at hB
  simp [setPaused, *]

grind_pattern setPaused_without => setPaused s w b, s.without B

@[simp] theorem runUcodeStage_without (w : Nat) (s : State) (x2 : List Byte) (B : List Blk) (hB : [.reel] ⊆ B) :
    (runUcodeStage w s x2).s.without B = s.without B := by
  simp only [List.cons_subset, List.nil_subset, and_true] at hB
  unfold runUcodeStage; grind

grind_pattern runUcodeStage_without => runUcodeStage w s x2, s.without B

@[simp] theorem resultBytes_without (s : State) (k size : Nat) (f : Int × Nat → List Byte) (xs : List (Int × Nat)) (B : List Blk) (hB : [.freeCtr] ⊆ B) :
    (resultBytes s k size f xs).2.without B = s.without B := by
  simp only [List.cons_subset, List.nil_subset, and_true] at hB
  simp [resultBytes, *]

grind_pattern resultBytes_without => resultBytes s k size f xs, s.without B

@[simp] theorem runDscan_without (w : Nat) (s : State) (x2 : List Byte) (B : List Blk) (hB : [.freeCtr, .hbm] ⊆ B) :
    (runDscan w s x2).s.without B = s.without B := by
  simp only [List.cons_subset, List.nil_subset, and_true] at hB
  unfold runDscan; grind

grind_pattern runDscan_without => runDscan w s x2, s.without B

@[simp] theorem v1Say_without (s : State) (w st : Nat) (B : List Blk) (hB : [.reel, .hbm] ⊆ B) :
    (v1Say s w st).without B = s.without B := by
  simp only [List.cons_subset, List.nil_subset, and_true] at hB
  simp [v1Say, *]

grind_pattern v1Say_without => v1Say s w st, s.without B

@[simp] theorem runV1_without (s : State) (w : Nat) (B : List Blk) (hB : [.freeCtr, .reel, .hbm] ⊆ B) :
    (runV1 s w).without B = s.without B := by
  simp only [List.cons_subset, List.nil_subset, and_true] at hB
  unfold runV1; grind

grind_pattern runV1_without => runV1 s w, s.without B

/-! ## Registers.lean -/

@[simp] theorem clearRc_without (s : State) (blk o : Nat) (B : List Blk) (hB : [.qau, .flash, .reel, .sel, .hbm, .eng, .maint, .therm, .links] ⊆ B) :
    (clearRc s blk o).without B = s.without B := by
  simp only [List.cons_subset, List.nil_subset, and_true] at hB
  unfold clearRc
  repeat (first | rw [apply_ite (fun t => State.without t B)] | rfl)
  simp [hB]

grind_pattern clearRc_without => clearRc s blk o, s.without B

@[simp] theorem writeModRst_without (s : State) (v : Nat) (B : List Blk) (hB : [.freeCtr, .rsp, .mod, .qau, .csn, .alloc, .corpus, .flash, .reel, .sel, .hbm, .eng, .warden, .maint, .life, .pwr, .therm, .hold, .links] ⊆ B) :
    (writeModRst s v).without B = s.without B := by
  simp only [List.cons_subset, List.nil_subset, and_true] at hB
  unfold writeModRst; dsimp only; (repeat' split) <;> simp_all

grind_pattern writeModRst_without => writeModRst s v, s.without B

@[simp] theorem writeQueue_without (s : State) (q : QueueId) (r : Nat) (v : W64) (B : List Blk) (hB : [.qau, .hbm, .warden, .links] ⊆ B) :
    (writeQueue s q r v).without B = s.without B := by
  simp only [List.cons_subset, List.nil_subset, and_true] at hB
  have h1 : (after s (execQueueEnable q v s)).without B = s.without B := by
    unfold execQueueEnable
    split <;> simp [after, hB]
  have h2 : (after s (execQueueDisable q v s)).without B = s.without B := by
    unfold execQueueDisable
    split <;> simp [after, hB]
  have h3 : (after s (execQauSqtail q v s)).without B = s.without B := by
    unfold execQauSqtail
    dsimp only [after]
    (repeat' split) <;> simp [hB]
  have h4 : (after s (execQauCqhead q v s)).without B = s.without B := by
    unfold execQauCqhead
    dsimp only [after]
    (repeat' split) <;> simp [hB]
  unfold writeQueue
  dsimp only
  split
  · split
    · exact h1
    · exact h2
  · simp [hB]
  · simp [hB]
  · exact h3
  · exact h4
  · rfl

grind_pattern writeQueue_without => writeQueue s q r v, s.without B

@[simp] theorem writeQau_without (s : State) (o : Nat) (v : W64) (B : List Blk) (hB : [.freeCtr, .qau, .csn, .corpus, .flash, .reel, .sel, .hbm, .eng, .warden, .maint, .links] ⊆ B) :
    (writeQau s o v).without B = s.without B := by
  simp only [List.cons_subset, List.nil_subset, and_true] at hB
  have h1 : (after s (execQauAbort v s)).without B = s.without B := by
    unfold execQauAbort
    dsimp only [after]
    (repeat' split) <;> simp [hB]
  unfold writeQau
  split
  · simp [hB]
  · split
    · exact h1
    · split
      · simp [hB]
      · rfl

grind_pattern writeQau_without => writeQau s o v, s.without B

@[simp] theorem writeMbreq_without (s : State) (v : Nat) (B : List Blk) (hB : [.rsp, .qau, .hbm, .warden, .links] ⊆ B) :
    (writeMbreq s v).without B = s.without B := by
  simp only [List.cons_subset, List.nil_subset, and_true] at hB
  unfold writeMbreq; (repeat' split) <;> simp [*]

grind_pattern writeMbreq_without => writeMbreq s v, s.without B

@[simp] theorem writeReg_without (s : State) (c : CoreId) (blk o : Nat) (v : W64) (B : List Blk) (hB : [.freeCtr, .rsp, .mod, .qau, .csn, .alloc, .corpus, .flash, .reel, .sel, .hbm, .eng, .warden, .maint, .life, .pwr, .therm, .hold, .meter, .links] ⊆ B) :
    (writeReg s c blk o v).without B = s.without B := by
  simp only [List.cons_subset, List.nil_subset, and_true] at hB
  have h1 : ∀ st, (after s (execHbmcSfence c st v s)).without B = s.without B := fun st => by
    unfold execHbmcSfence
    dsimp only [after]
    (repeat' split) <;> simp [hB]
  have h2 : ∀ p, (after s (execNetPortWrite p v s)).without B = s.without B := fun p => by
    unfold execNetPortWrite
    dsimp only [after]
    (repeat' split) <;> simp [hB]
  have h3 : (after s (execMeterSign v s)).without B = s.without B := by
    unfold execMeterSign
    dsimp only [after]
    (repeat' split) <;> simp [hB]
  unfold writeReg
  repeat (first | rw [apply_ite (fun t => State.without t B)] | rfl)
  simp [hB, h1, h2, h3]

grind_pattern writeReg_without => writeReg s c blk o v, s.without B

@[simp] theorem maskVector_without (s : State) (v : Nat) (masked : Bool) (B : List Blk) (hB : [.links] ⊆ B) :
    (maskVector s v masked).without B = s.without B := by
  simp only [List.cons_subset, List.nil_subset, and_true] at hB
  unfold maskVector; dsimp only; split <;> simp [*]

grind_pattern maskVector_without => maskVector s v masked, s.without B

@[simp] theorem putMsix_without (s : State) (i x : Nat) (B : List Blk) (hB : [.links] ⊆ B) :
    (putMsix s i x).without B = s.without B := by
  simp only [List.cons_subset, List.nil_subset, and_true] at hB
  unfold putMsix; (repeat' split) <;> simp [*]

grind_pattern putMsix_without => putMsix s i x, s.without B

@[simp] theorem bar0Write_without (s : State) (o size : Nat) (v : W64) (B : List Blk) (hB : [.freeCtr, .rsp, .mod, .qau, .csn, .alloc, .corpus, .flash, .reel, .sel, .hbm, .eng, .warden, .maint, .life, .pwr, .therm, .hold, .meter, .links] ⊆ B) :
    (bar0Write s o size v).without B = s.without B := by
  simp only [List.cons_subset, List.nil_subset, and_true] at hB
  unfold bar0Write; dsimp only; (repeat' split) <;> simp [*]

grind_pattern bar0Write_without => bar0Write s o size v, s.without B

@[simp] theorem leaveRom_without (s : State) (image : List Byte) (B : List Blk) (hB : [.freeCtr, .mod, .qau, .csn, .alloc, .corpus, .flash, .reel, .hbm, .eng, .warden, .pwr, .links] ⊆ B) :
    (leaveRom s image).without B = s.without B := by
  simp only [List.cons_subset, List.nil_subset, and_true] at hB
  simp [leaveRom, *]

grind_pattern leaveRom_without => leaveRom s image, s.without B

end Sys2Proof.Machine
end

