-- ==== Sys2Proof/Laws/Memory.lean ====
section
/-! SUPPORT. Tables read back what was written, and every operation over memory keeps its canonical form. -/

namespace Sys2Proof.Machine

variable {α : Type} [DecidableEq α]

theorem Tab.wfFrom_mono (d : α) {lo hi : Nat} (h : lo ≤ hi) : (t : Tab α) → Tab.wfFrom d hi t = true → Tab.wfFrom d lo t = true
  | [], _ => rfl
  | (k, v) :: t, w => by
    simp only [Tab.wfFrom, Bool.and_eq_true, decide_eq_true_eq] at w ⊢
    exact ⟨⟨by omega, w.1.2⟩, w.2⟩

/-- A number below every entry reads as the default. -/
theorem Tab.get_below (d : α) {lo n : Nat} (h : n < lo) : (t : Tab α) → Tab.wfFrom d lo t = true → Tab.get d t n = d
  | [], _ => rfl
  | (k, v) :: t, w => by
    simp only [Tab.wfFrom, Bool.and_eq_true, decide_eq_true_eq] at w
    simp only [Tab.get, if_pos (show n < k by omega)]

/-- A table reads at a number what was written there. -/
theorem Tab.get_set_same (d : α) (n : Nat) (v : α) : (t : Tab α) → (lo : Nat) → Tab.wfFrom d lo t = true →
    Tab.get d (Tab.set d t n v) n = v
  | [], _, _ => by
    unfold Tab.set; split
    · next h => simp [Tab.get, h]
    · simp [Tab.get]
  | (k, w) :: t, lo, h => by
    simp only [Tab.wfFrom, Bool.and_eq_true, decide_eq_true_eq] at h
    unfold Tab.set
    split
    · split
      · next hv => simp [Tab.get, *]
      · simp [Tab.get]
    · split
      · split
        · next hv => rw [Tab.get_below d (by omega) t h.2, hv]
        · simp [Tab.get]
      · next h1 h2 => simp only [Tab.get, if_neg h1, if_neg h2]; exact Tab.get_set_same d n v t _ h.2

/-- A write leaves every other number as it was. -/
theorem Tab.get_set_other (d : α) {n m : Nat} (hm : m ≠ n) (v : α) : (t : Tab α) → (lo : Nat) → Tab.wfFrom d lo t = true →
    Tab.get d (Tab.set d t n v) m = Tab.get d t m
  | [], _, _ => by
    unfold Tab.set; split
    · rfl
    · simp [Tab.get, hm]
  | (k, w) :: t, lo, h => by
    simp only [Tab.wfFrom, Bool.and_eq_true, decide_eq_true_eq] at h
    unfold Tab.set
    split
    · split
      · rfl
      · simp only [Tab.get]; split
        · rw [if_pos (show m < k by omega)]
        · rfl
    · split
      · next h1 h2 =>
        subst h2
        split
        · simp only [Tab.get, if_neg hm]
          split
          · rw [Tab.get_below d (by omega) t h.2]
          · rfl
        · simp only [Tab.get, if_neg hm]
      · simp only [Tab.get]
        split
        · rfl
        · split
          · rfl
          · exact Tab.get_set_other d hm v t _ h.2

theorem Tab.set_wfFrom (d : α) (n : Nat) (v : α) : (t : Tab α) → (lo : Nat) → lo ≤ n → Tab.wfFrom d lo t = true →
    Tab.wfFrom d lo (Tab.set d t n v) = true
  | [], lo, hl, _ => by
    unfold Tab.set; split <;> simp_all [Tab.wfFrom]
  | (k, w) :: t, lo, hl, h => by
    have h' := h
    simp only [Tab.wfFrom, Bool.and_eq_true, decide_eq_true_eq] at h
    unfold Tab.set
    split
    · split
      · exact h'
      · simp only [Tab.wfFrom, Bool.and_eq_true, decide_eq_true_eq]
        exact ⟨⟨hl, ‹_›⟩, ⟨by omega, h.1.2⟩, h.2⟩
    · split
      · split
        · exact Tab.wfFrom_mono d (by omega) t h.2
        · simp only [Tab.wfFrom, Bool.and_eq_true, decide_eq_true_eq]
          exact ⟨⟨hl, ‹_›⟩, by subst n; exact h.2⟩
      · simp only [Tab.wfFrom, Bool.and_eq_true, decide_eq_true_eq]
        exact ⟨h.1, Tab.set_wfFrom d n v t _ (by omega) h.2⟩

/-- A write keeps the canonical form. -/
theorem Tab.set_wf (d : α) (t : Tab α) (n : Nat) (v : α) (h : Tab.wf d t = true) : Tab.wf d (Tab.set d t n v) = true :=
  Tab.set_wfFrom d n v t 0 (Nat.zero_le n) h

theorem Tab.filter_wfFrom (d : α) (p : Nat × α → Bool) : (t : Tab α) → (lo : Nat) → Tab.wfFrom d lo t = true →
    Tab.wfFrom d lo (t.filter p) = true
  | [], _, _ => rfl
  | (k, v) :: t, lo, h => by
    simp only [Tab.wfFrom, Bool.and_eq_true, decide_eq_true_eq] at h
    rw [List.filter_cons]
    split
    · simp only [Tab.wfFrom, Bool.and_eq_true, decide_eq_true_eq]
      exact ⟨h.1, Tab.filter_wfFrom d p t _ h.2⟩
    · exact Tab.wfFrom_mono d (by omega) _ (Tab.filter_wfFrom d p t _ h.2)

/-- Taking entries out keeps the canonical form. -/
theorem Tab.filter_wf (d : α) (p : Nat × α → Bool) (t : Tab α) (h : Tab.wf d t = true) : Tab.wf d (t.filter p) = true :=
  Tab.filter_wfFrom d p t 0 h

/-- A byte that is written reads back. -/
theorem byte_setByte_same (s : State) (p : Nat) (b : Byte) (h : Memory.wf s = true) : (s.setByte p b).byte p = b :=
  Tab.get_set_same 0 p b s.hbm.mem 0 h

/-- Every other byte reads as before. -/
theorem byte_setByte_other (s : State) (p q : Nat) (b : Byte) (hq : q ≠ p) (h : Memory.wf s = true) :
    (s.setByte p b).byte q = s.byte q :=
  Tab.get_set_other 0 hq b s.hbm.mem 0 h

/-- Writing a byte keeps memory canonical. -/
theorem setByte_wf (s : State) (p : Nat) (b : Byte) (h : Memory.wf s = true) : Memory.wf (s.setByte p b) = true :=
  Tab.set_wf 0 s.hbm.mem p b h

/-- Steps that keep memory canonical keep it canonical over a list. -/
theorem foldl_memory_wf {β : Type _} (f : State → β → State) (hf : ∀ s b, Memory.wf s = true → Memory.wf (f s b) = true)
    (xs : List β) (s : State) (h : Memory.wf s = true) : Memory.wf (xs.foldl f s) = true := by
  induction xs generalizing s with
  | nil => exact h
  | cons b t ih => exact ih _ (hf s b h)

/-- Writing bytes at consecutive places keeps memory canonical. -/
theorem setBytes_wf (bs : List Byte) (s : State) (p : Nat) (h : Memory.wf s = true) : Memory.wf (s.setBytes p bs) = true := by
  induction bs generalizing s p with
  | nil => exact h
  | cons b t ih => exact ih _ _ (setByte_wf s p b h)

/-- Writing bytes at the places of an access keeps memory canonical. -/
theorem putAt_wf (ps : List (Nat × Option Byte × Bool)) (bs : List Byte) (s : State) (h : Memory.wf s = true) :
    Memory.wf (s.putAt ps bs) = true := by
  induction ps generalizing s bs with
  | nil => exact h
  | cons p ps ih => cases bs with
    | nil => exact h
    | cons b bs => exact ih _ _ (setByte_wf s p.1 b h)

/-! The operations that zero a part of memory take its entries out. -/

theorem zeroBanks_wf (s : State) (p : Nat) (m : BitVec 48) (h : Memory.wf s = true) : Memory.wf (zeroBanks s p m) = true :=
  Tab.filter_wf 0 _ s.hbm.mem h

theorem zeroRange_wf (s : State) (a n : Nat) (h : Memory.wf s = true) : Memory.wf (zeroRange s a n) = true :=
  Tab.filter_wf 0 _ s.hbm.mem h

theorem fillSpare_wf (s : State) (st p bank row : Nat) (h : Memory.wf s = true) : Memory.wf (fillSpare s st p bank row) = true := by
  unfold fillSpare
  dsimp only
  split
  · exact Tab.filter_wf 0 _ s.hbm.mem h
  · exact h

theorem scrubSealed_wf (s : State) (h : Memory.wf s = true) : Memory.wf (scrubSealed s) = true :=
  Tab.filter_wf 0 _ _ h

theorem zeroReleased_wf (s : State) (new : Tab (Option Region)) (h : Memory.wf s = true) : Memory.wf (zeroReleased s new) = true :=
  Tab.filter_wf 0 _ s.hbm.mem h

/-- Steps that keep a table canonical keep it canonical over a list. -/
theorem Tab.foldl_wf {β : Type _} (d : α) (g : Tab α → β → Tab α) (hg : ∀ t e, Tab.wf d t = true → Tab.wf d (g t e) = true)
    (es : List β) (t : Tab α) (h : Tab.wf d t = true) : Tab.wf d (es.foldl g t) = true := by
  induction es generalizing t with
  | nil => exact h
  | cons e es ih => exact ih _ (hg t e h)

/-- Moving a plain stack's bytes keeps memory canonical. -/
theorem moveBytes_wf (s : State) (fs : List (Nat × Nat × Nat)) (ms : List (Region × Region)) (h : Memory.wf s = true) :
    Memory.wf (moveBytes s fs ms) = true := by
  refine Tab.foldl_wf 0 _ (fun t e ht => ?_) _ _ (Tab.filter_wf 0 _ s.hbm.mem h)
  split
  · exact ht
  · exact Tab.set_wf 0 t _ _ ht

theorem loseHbm_wf (s : State) : Memory.wf (loseHbm s) = true := rfl

theorem reset_memory_wf : Memory.wf State.reset = true := rfl

/-! What an access does beside the bytes it writes leaves every byte as it was. -/

@[simp] theorem modCtl_mem (s : State) (n : Nat) (f : Stack → Stack) : (s.modCtl n f).hbm.mem = s.hbm.mem := rfl

@[simp] theorem modPch_mem (s : State) (n : Nat) (f : Pch → Pch) : (s.modPch n f).hbm.mem = s.hbm.mem := rfl

@[simp] theorem accessError_mem (s : State) (r : Nat) (c : Option Nat) (a : Nat) (w : Bool) :
    (accessError s r c a w).hbm.mem = s.hbm.mem := by
  rfl

@[simp] theorem setTag_mem (s : State) (p : Nat) (g : Byte) : (s.setTag p g).hbm.mem = s.hbm.mem := rfl

@[simp] theorem readFinding_mem (s : State) (r p : Nat) (tag : Option Byte) (w : Bool) (f : Finding) :
    (readFinding s r p tag w f).1.hbm.mem = s.hbm.mem := by
  unfold readFinding
  dsimp only
  (repeat' split) <;> rfl

@[simp] theorem buffered_mem (s : State) (p : Nat) : (buffered s p).hbm.mem = s.hbm.mem := rfl

@[simp] theorem readSectors_mem (ps : List (Nat × Option Byte × Bool)) (s : State) (r : Nat) (f : Finding) :
    (readSectors s r ps f).1.hbm.mem = s.hbm.mem := by
  induction ps generalizing s f with
  | nil => rfl
  | cons p t ih => obtain ⟨p, q, w⟩ := p; simp only [readSectors, ih, readFinding_mem]

@[simp] theorem writeSectors_mem (qs ps : List (Nat × Option Byte × Bool)) (s : State) (r : Nat) (f : Finding) :
    (writeSectors s r qs ps f).hbm.mem = s.hbm.mem := by
  induction ps generalizing s f with
  | nil => rfl
  | cons p t ih =>
    obtain ⟨p, _ | q, w⟩ := p
    · exact ih _ _
    · unfold writeSectors
      split
      · rw [ih, setTag_mem]
        split <;> rfl
      · dsimp only
        rw [ih, setTag_mem]
        split <;> exact readFinding_mem _ _ _ _ _ _

/-- A read changes no byte. -/
theorem read_mem (s : State) (r a n : Nat) (f : Finding) : (s.read r a n f).1.hbm.mem = s.hbm.mem := by
  unfold State.read
  split
  · exact accessError_mem _ _ _ _ _
  · exact readSectors_mem _ _ _ _

/-- A write keeps memory canonical. -/
theorem write_wf (s : State) (r a : Nat) (bs : List Byte) (f : Finding) (h : Memory.wf s = true) :
    Memory.wf (s.write r a bs f).1 = true := by
  unfold State.write
  split
  · unfold Memory.wf; rw [accessError_mem]; exact h
  · dsimp only
    have hw : Memory.wf (writeSectors s r (placesOf s r a bs.length) (sectorsOf (placesOf s r a bs.length)) f) = true := by
      unfold Memory.wf; rw [writeSectors_mem]; exact h
    exact foldl_memory_wf buffered (fun _ _ h => h) _ _ (putAt_wf _ _ _ hw)

end Sys2Proof.Machine
end

