-- ==== Sys2Proof/Tests/Slice0.lean ====
section
/-! SUPPORT. Tests: what WellFormed refuses, single steps on small states with results worked out from the spec, and for every
statement with hypotheses a state and operands that meet them. -/

namespace Sys2Proof.Tests

open Sys2Proof.Machine

set_option Elab.async false

/-! ## WellFormed refuses an ill-formed term of each check -/

theorem test_refetch_of_a_unit_the_part_lacks_refused : Instr.wf (.refetch .auto 3 32) = false ∧ Instr.wf (.refetch .auto 3 31) = true := by
  decide
theorem test_row_beyond_the_bank_refused : Instr.wf (.rowRemap 0 0 0 24576) = false ∧ Instr.wf (.rowRetire 0 0 0 24576) = false ∧
    Instr.wf (.rowRemap 0 0 0 24575) = true := by decide
theorem test_flash_block_beyond_the_channel_refused : Instr.wf (.flashRetire 0 65536 none) = false := by decide
theorem test_scan_group_beyond_the_block_refused : Instr.wf (.scanBlock 0 (.group 256)) = false := by decide
theorem test_empty_handover_refused : Instr.wf (.mergeHandover 0 [] ⟨0, 0, 0, 0, 0, 0, 0⟩ true) = false := by decide
theorem test_handover_of_no_entry_number_refused : Instr.wf (.mergeHandover 0 [16777216] ⟨0, 0, 0, 0, 0, 0, 0⟩ true) = false := by
  decide
theorem test_handover_to_no_header_refused : Instr.wf (.mergeHandover 0 [0] ⟨0, 327680, 0, 0, 0, 0, 0⟩ true) = false := by decide
theorem test_move_from_no_header_refused : Instr.wf (.blockMove .compact [(0, 327680)] none true) = false := by decide
theorem test_settle_of_no_header_refused : Instr.wf (.exclusionSettle 0 327680) = false := by decide
theorem test_reclaim_of_no_entry_refused : Instr.wf (.reclaim (.side 16777216)) = false := by decide
theorem test_reload_of_no_header_refused : Instr.wf (.blockReload 0 327680 false) = false := by decide
theorem test_empty_accesses_refused : Instr.wf (.memoryRead ⟨0, 0⟩ 0 0 .clean) = false ∧
    Instr.wf (.memoryWrite ⟨0, 0⟩ 0 [] .clean) = false ∧ Instr.wf (.rdmaWrite ⟨0, 0, .clean⟩ 0 []) = false ∧
    Instr.wf (.rdmaRead ⟨0, 0, .clean⟩ 0 0) = false ∧ Instr.wf (.send 0 []) = false := by decide
theorem test_seventeen_sensors_refused : Instr.wf (.sensorRead (List.replicate 17 none)) = false := by decide
theorem test_nine_paces_refused : Instr.wf (.paceSample (List.replicate 9 0)) = false := by decide
theorem test_mailbox_beyond_the_buffer_refused : Instr.wf (.mailbox 0 0 (List.replicate 131057 0)) = false := by
  show decide ((List.replicate 131057 (0 : Byte)).length ≤ 131056) = false
  rw [List.length_replicate]
  decide
theorem test_firmware_part_nine_refused : Instr.wf (.firmwareUpdate 9 false 0 []) = false := by decide
theorem test_access_of_three_bytes_refused : Instr.wf (.csrWrite .bar0 0 3 0) = false ∧
    Instr.wf (.registerReadClear (.core 0) 0 3) = false := by decide

/-! ## Small states -/

/-- The reset state with these engines; an engine's microcode version has no value here, so tables are written out. -/
def withEngines (es : Tab Engine) : State := { State.reset with eng.engines := es }

/-- The first `n` engines have LAPOK cleared. -/
def lapoksClear (n : Nat) : State := withEngines ((List.range n).map (fun i => (i, { Engine.initial with lapok := false })))

def meterState (m : Meter) : State := { State.reset with meter := m }

/-! ## Hypotheses of the statements that are met -/

theorem witness_StepRunsFrontCommand_idle : State.reset.pending = [] := rfl
theorem witness_StepKeepsMeterInvariant : MeterInv State.reset ∧ ∃ t, step State.reset = .next t :=
  ⟨⟨by decide, by decide, by decide, by decide, by decide⟩, _, rfl⟩
theorem witness_NarrowAccessLeavesRegisters : ((4 : Nat) ≠ 8 ∨ (0#49).toNat % 8 ≠ 0) ∧ ((8 : Nat) ≠ 8 ∨ (1#49).toNat % 8 ≠ 0) := by decide
theorem witness_UnassignedBlocksReadZero : (255 : Nat) < 256 ∧ (0xFFFF8 : Nat) < 0x100000 ∧ 0xFFFF8 % 8 = 0 ∧
    255 ∉ [0x00, 0x01, 0x02, 0x03, 0x04, 0x05, 0x60, 0x62, 0xA0, 0xA1, 0xA2, 0xB0, 0xB1, 0xB2, 0xB8, 0xC0, 0xD0, 0xD1, 0xE0] ∧
    ¬ (0x10 ≤ 255 ∧ 255 < 0x1C) ∧ ¬ (0x20 ≤ 255 ∧ 255 < 0x28) ∧ ¬ (0x30 ≤ 255 ∧ 255 < 0x60) ∧ ¬ (0x70 ≤ 255 ∧ 255 < 0x92) := by
  decide
theorem witness_awake : awake State.reset := by decide
theorem witness_OutOfRangeSettingsStay_sidefill : unlocked State.reset (csrDpa 0x04 0x40) ∧
    bits (49#64).toNat 0 8 < 50 ∧ 85 < bits (86#64).toNat 0 8 ∧ bits (0x3632#64).toNat 8 8 < bits (0x3632#64).toNat 0 8 + 5 ∧
    95 < bits (0x6032#64).toNat 8 8 := by decide
theorem witness_OutOfRangeSettingsStay_reel : unlocked State.reset (csrDpa 0x02 0) ∧ bits (0x90000#64).toNat 16 16 < 10 ∧
    500 < bits (0x1F50000#64).toNat 16 16 ∧ 25 < bits (0x1A00#64).toNat 8 8 := by decide
theorem witness_OutOfRangeSettingsStay_mmu : unlocked State.reset (csrDpa 0x60 0) ∧ bits (0x3F0000#64).toNat 16 32 < 64 ∧
    freeMinMax State.reset < bits (0x26670000#64).toNat 16 32 ∧ bits (19#64).toNat 0 16 < 20 ∧ 5000 < bits (5001#64).toNat 0 16 := by decide
theorem witness_OutOfRangeSettingsStay_pwr : unlocked State.reset (csrDpa 0xB0 8) ∧ bits (0x63F0000#64).toNat 16 12 < 1600 ∧
    2400 < bits (0x9610000#64).toNat 16 12 ∧ bits (3#64).toNat 0 2 = 3 := by decide
theorem witness_SettingsTakeEffect_sidefill : 50 ≤ bits (0x5F55#64).toNat 0 8 ∧ bits (0x5F55#64).toNat 0 8 ≤ 85 ∧
    bits (0x5F55#64).toNat 0 8 + 5 ≤ bits (0x5F55#64).toNat 8 8 ∧ bits (0x5F55#64).toNat 8 8 ≤ 95 := by decide
theorem witness_SettingsTakeEffect_reel : 10 ≤ bits (0xA1900#64).toNat 16 16 ∧ bits (0xA1900#64).toNat 16 16 ≤ 500 ∧
    bits (0xA1900#64).toNat 8 8 ≤ 25 := by decide
theorem witness_SettingsTakeEffect_fcd : unlocked State.reset (csrDpa 0x70 8) ∧ 1 ≤ bits (16#64).toNat 0 8 ∧
    bits (16#64).toNat 0 8 ≤ engbackMax ∧ backUnits State.reset ≤ bits (16#64).toNat 0 8 := by
  refine ⟨by decide, by decide, ?_, by decide⟩
  unfold engbackMax; split <;> decide
theorem witness_SettingsTakeEffect_sched : unlocked State.reset (csrDpa 0x62 0) ∧ 1 ≤ bits (0x88#64).toNat 0 4 ∧
    bits (0x88#64).toNat 0 4 ≤ 8 ∧ 1 ≤ bits (0x88#64).toNat 4 4 ∧ bits (0x88#64).toNat 4 4 ≤ 8 ∧
    8 + bits (0x88#64).toNat 0 4 ≤ lapokIn State.reset 0 ∧ 8 + bits (0x88#64).toNat 4 4 ≤ lapokIn State.reset 1 := by decide
/-- The module of the standard region table: a pool of 12 GiB. -/
def pooled : State := { State.reset with hbm.regions := [(1, standardRegions[1]?)] }
theorem witness_SettingsTakeEffect_mmu : unlocked pooled (csrDpa 0x60 0) ∧ awake pooled ∧ 64 ≤ bits (0x401388#64).toNat 16 32 ∧
    bits (0x401388#64).toNat 16 32 ≤ freeMinMax pooled ∧ 20 ≤ bits (0x401388#64).toNat 0 16 ∧ bits (0x401388#64).toNat 0 16 ≤ 5000 := by decide
theorem witness_SettingsTakeEffect_pwr : 1600 ≤ bits (0x6400002#64).toNat 16 12 ∧ bits (0x6400002#64).toNat 16 12 ≤ 2400 ∧
    bits (0x6400002#64).toNat 0 2 ≠ 3 := by decide
theorem witness_SettingsTakeEffect_pcie : unlocked State.reset (csrDpa 0xA1 0) ∧
    bits (0x40000000001#64).toNat 16 10 + bits (0x40000000001#64).toNat 32 11 ≤ 1024 ∧ bits (0x40000000001#64).toNat 2 2 ≠ 3 := by decide
/-- BUSY_PCT is locked at 60, and ENGBACK at its value after reset. -/
def lockedState : State := { State.reset with
  alloc.busyPct := 60
  warden.locks := [⟨csrDpa 0x04 0x40, 0xFF00#64, 0x3C00#64⟩, ⟨csrDpa 0x70 8, 0xFF#64, 4#64⟩] }
theorem witness_SettingsWritesComplete : awake lockedState ∧ softOpen lockedState (csrDpa 0x04 0x40) 8 8 = false ∧
    softOpen lockedState (csrDpa 0x04 0x40) 0 8 = true ∧ 50 ≤ bits (0x6032#64).toNat 0 8 ∧ bits (0x6032#64).toNat 0 8 ≤ 85 ∧
    bits (0x6032#64).toNat 0 8 + 5 ≤ lockedState.alloc.busyPct ∧ lockedState.alloc.busyPct ≤ 95 ∧
    lockedState.alloc.busyPct < bits (0x55#64).toNat 0 8 + 5 ∧ softOpen lockedState (csrDpa 0x70 8) 0 8 = false ∧
    1 ≤ lockedState.flash.engback ∧ backUnits lockedState ≤ lockedState.flash.engback := by decide
theorem witness_SettingsWritesComplete_rest : lockedState.flash.engback ≤ engbackMax ∧
    softOpen lockedState (csrDpa 0x02 0) 16 16 = true ∧ softOpen lockedState (csrDpa 0xA1 0) 32 11 = true ∧
    ¬ (10 ≤ bits (0#64).toNat 16 16) ∧ ¬ (1024 < bits (0#64).toNat 16 10 + bits (0#64).toNat 32 11) := by
  refine ⟨?_, by decide, by decide, by decide, by decide⟩
  unfold engbackMax; split <;> decide
theorem witness_BoundedSettingsStay_fcd : bits (0#64).toNat 0 8 = 0 ∧ engbackMax < bits (33#64).toNat 0 8 ∧
    bits (1#64).toNat 0 8 < backUnits { State.reset with flash.backingBytes := 512000000000 } := by
  refine ⟨by decide, ?_, by decide⟩
  unfold engbackMax; split <;> decide
theorem witness_BoundedSettingsStay_sched : bits (0x10#64).toNat 0 4 = 0 ∧ 8 < bits (9#64).toNat 0 4 ∧ bits (1#64).toNat 4 4 = 0 ∧
    8 < bits (0x91#64).toNat 4 4 ∧ lapokIn (lapoksClear 16) 0 < 8 + bits (0x11#64).toNat 0 4 ∧
    unlocked (lapoksClear 16) (csrDpa 0x62 0) := by decide
theorem witness_BoundedSettingsStay_pcie : 1024 < bits (0x40000010000#64).toNat 16 10 + bits (0x40000010000#64).toNat 32 11 ∧
    bits (0xC#64).toNat 2 2 = 3 := by decide
theorem witness_BoundedSettingsStay_eng : unlocked (lapoksClear 16) (csrDpa (0x30 + (16 : EngineId).val) 8) ∧
    ((lapoksClear 16).engine 16).lapok = true ∧ bit (0#64).toNat 1 = false ∧
    ((List.range 24).filter (fun i => decide (24 * (16 / 24) + i ≠ 16) && ((lapoksClear 16).engine (24 * (16 / 24) + i)).lapok)).length < 8 := by
  decide
theorem witness_LockedFieldsKeepTheirValue : let s := { State.reset with warden.locks := [⟨csrDpa 0x04 0x40, 0xFF#64, 60#64⟩] }
    softOpen s (csrDpa 0x04 0x40) 0 8 = false ∧ ∃ t, exec (.allocSidefillWrite 0x5F55#64) s = .next t := ⟨by decide, _, rfl⟩
theorem witness_EngineDrainEffects : unlocked State.reset (csrDpa (0x30 + (47 : EngineId).val) 8) ∧ bit (3#64).toNat 1 = true ∧
    (State.reset.engine 47).drain = false ∧
    ((withEngines [(47, { Engine.initial with drain := true })]).engine 47).drain = true ∧
    ((withEngines [(47, { Engine.initial with drain := true })]).engine 47).work = .idle := by decide
theorem witness_MeterIsApart : (∃ t, exec .coreRestart State.reset = .next t) ∧ isMeterRow .coreRestart = false ∧
    (∀ c a n v, Instr.coreRestart ≠ .csrWrite c a n v) ∧ regBlock (BitVec.ofNat 49 (csrDpa 0xB8 0x48)).toNat = 0xB8 ∧
    (∃ t, exec (.csrWrite (.core 0) (BitVec.ofNat 49 (csrDpa 0xB8 0x48)) 8 5) State.reset = .next t) ∧ State.reset.meter.off = false ∧
    ∃ t, exec (.csrWrite .bar0 0 8 1) State.reset = .next t :=
  ⟨⟨_, rfl⟩, rfl, by simp, by decide, ⟨_, rfl⟩, rfl, _, rfl⟩
theorem witness_EnergyAccumulates : let s := meterState { Meter.initial with off := true, nvEnergy := 5 }
    s.mod.pwrgd = false ∧ s.meter.off = true := by decide
theorem witness_SignRequestsAndNonces : (meterState { Meter.initial with busy := true }).meter.busy = true ∧
    State.reset.meter.busy = false ∧ ∃ t, exec (.meterSign 0x8000000000000000#64) State.reset = .next t ∧ t.meter.busy = true :=
  ⟨rfl, rfl, _, rfl, by decide⟩
theorem witness_SignatureIsMade : bit (0#64).toNat 63 = false ∧ bit (0x8000000000000000#64).toNat 63 = true ∧
    (State.reset.meter.busy = false ∧ State.reset.meter.sigsLeft ≠ 0 ∧ State.reset.meter.sigsLeft ≠ 65536) ∧
    (∀ k, State.reset.meter.lastSign = some k → k + 9000 ≤ State.reset.meter.ticks) ∧
    (meterState { Meter.initial with lastSign := some 0, ticks := 8999 }).meter.lastSign = some 0 ∧
    (meterState { Meter.initial with busy := true, sigsLeft := 2 }).meter.busy = true ∧
    1024 ≤ (meterState { Meter.initial with busy := true, sigsLeft := 65536, log := List.replicate 1024 ⟨0, 1, 0, 0, 0⟩ }).meter.log.length :=
  ⟨by decide, by decide, by decide, by simp [State.reset, Meter.initial], rfl, rfl, by
    show 1024 ≤ (List.replicate 1024 (⟨0, 1, 0, 0, 0⟩ : MeterEnt)).length
    rw [List.length_replicate]⟩
theorem witness_KeyWarningsAreLogged : (meterState { Meter.initial with busy := true, sigsLeft := 65536 }).meter.sigsLeft = 65536 ∧
    (meterState { Meter.initial with busy := true, sigsLeft := 1 }).meter.log.length < 1024 := by decide
theorem witness_MeterLogGrows : State.reset.meter.log.length < 1024 ∧ State.reset.meter.sealIntact = true ∧
    (meterState { Meter.initial with sealIntact := false }).meter.sealIntact = false ∧
    (meterState { Meter.initial with log := List.replicate 1024 ⟨0, 1, 0, 0, 0⟩ }).meter.log.length = 1024 :=
  ⟨by decide, rfl, rfl, List.length_replicate⟩
theorem witness_PortsTrainAndFall : modeOk 0 3 = true ∧ modeOk 1 3 = false ∧ (State.reset.netPort 0).rate = 3 ∧
    (State.reset.netPort 0).width = 3 ∧ State.reset.pwr.state < 3 ∧ unitStopped State.reset (16 + 1) = false ∧ awake State.reset ∧
    unitStopped State.reset 18 = false ∧ State.reset.links.mgmtRate = 0 ∧ State.reset.links.pcieUp = false ∧
    ({ State.reset with links.mgmtRate := 3 }).links.mgmtRate ≠ 0 ∧ ({ State.reset with links.pcieUp := true }).links.pcieUp = true ∧
    ({ State.reset with pwr.state := 4 }).pwr.state = 4 ∧ 4 ≤ (4#3).toNat ∧ (4#3).toNat ≤ 6 - State.reset.links.maxGen ∧
    (16#5).toNat ∈ [1, 4, 8, 16] ∧
    ({ State.reset with links.pcieOn := true }).links.pcieOn = true ∧
    ((State.reset.modNetPort 1 (fun y => { y with rate := 0, up := 1 })).netPort 1).up ≠ 0 ∧
    ((State.reset.modNetPort 1 (fun y => { y with rate := 0, up := 1 })).netPort 1).rate ≠ 3 := by decide
/-- A region of every stack from the base of the memory of the front end's choosing, open to every requester. -/
def openRegion : Region := ⟨0xC000000000, 12, 104, false, 0, false, false, 0, 0xF00#12, 1, 0xFFFF#16⟩

/-- Data port 0 is up, and key 4,095 registers the region's first 64 bytes for reading and writing. -/
def rdmaState : State :=
  { State.reset.modNetPort 0 (fun y => { y with up := 1 }) with
    links.regs := [(4095, some ⟨0xC000000000, 64, true⟩)], hbm.regions := [(0, some openRegion)] }
theorem witness_RdmaStaysInItsRegistration : rdmaRuns rdmaState = true ∧
    (registered rdmaState 4095 0xC00000003F 1).any (·.write) = true ∧ (registered rdmaState 4095 0xC000000040 1).any (·.write) = false ∧
    registered rdmaState 4095 0xC000000000 64 = some ⟨0xC000000000, 64, true⟩ ∧ registered rdmaState 4095 0xC000000000 65 = none ∧
    registered { rdmaState with links.regs := [(4096, some ⟨0xC000000000, 64, true⟩)] } 4096 0xC000000000 64 = none ∧
    rdmaRuns State.reset = false := by decide +kernel
theorem witness_ManagementPortAnswers : State.reset.warden.romOnly = false ∧ State.reset.warden.request = none ∧
    ({ State.reset with warden.romOnly := true }).warden.romOnly = true ∧
    ({ State.reset with warden.request := some ⟨1, 0, [], some 0, none⟩ }).warden.request.isSome = true ∧
    unitsNamed 9 true 0 = false ∧ unitsNamed 8 false 0 = true := by decide


/-! ## Ocelm -/

/-- A MAINT program of one word, before its first instruction, on engine 0. -/
def program (b : W64) : Ctx :=
  { owner := .maint 0, cls := 3, st := .running 0, prog := 0, isSealed := false, ucode := 0, image := [b, 0], pc := 0, ef := 0,
    count := 0, budget := 1, s := [], a := [], v := [], p := [], t := [], issued := 0, ops := [], regHaz := [], sramHaz := [],
    mat := none, tile := none, live := BitVec.allOnes 48, sram := [], pages := [], maps := 0, pageAt := none, trapRec := none,
    ended := false, saved := false, lastFault := 0 }

/-- The context `x` as number 0 on engine 0. -/
def onEngine (x : Ctx) : State :=
  { State.reset with eng.engines := [(0, { Engine.initial with work := .context 0 })], eng.ctxs := [(0, some x)] }

/-- A word of opcode `op` with the bits of `rest` below it. -/
def word (op rest : Nat) : W64 := BitVec.ofNat 64 (op * 2 ^ 56 + rest)

/-- The front end of engine 0 issues the word `b` of context `x` with opcode `op`. -/
def ok (x : Ctx) (op : Nat) (u : OcUnit) (plan : State → Ctx → Iw → Plan) (b : W64) : Bool :=
  decide (Issues (onEngine x) 0 op u plan 0 x b)

/-- The same for a program of that word alone. -/
def okW (op rest : Nat) (u : OcUnit) (plan : State → Ctx → Iw → Plan) : Bool :=
  ok (program (word op rest)) op u plan (word op rest)

theorem witness_ScalarIntegersSaturate_regs : okW 0x10 0 .front (fun _ => planSss [0]) ∧ okW 0x11 0 .front (fun _ => planSss [0]) ∧
    okW 0x12 0 .front (fun _ => planSss [0]) ∧ okW 0x14 0 .front (fun _ => planSss [0]) ∧
    okW 0x15 0 .front (fun _ => planSss [0]) ∧ okW 0x16 0 .front (fun _ => planSss [0]) ∧
    okW 0x17 2 .front (fun _ => planSss [0, 1, 2]) ∧ okW 0x13 3 .front (fun _ => planSss [0, 1, 2, 3]) := by decide
/-- A signed DIV of s1 by s1, which is 5. -/
def divides : Ctx := { program (word 0x13 0x2100001) with s := [(1, 5#64)] }
theorem witness_ScalarIntegersSaturate_div : ok divides 0x13 .front (fun _ => planSss [0, 1, 2, 3]) (word 0x13 0x2100001) ∧
    bit (word 0x13 0x2100001).toNat 0 = true ∧ divides.sreg (iFb (word 0x13 0x2100001).toNat) = 5#64 ∧
    divides.sreg (iFa (word 0x13 0x2100001).toNat) = 5#64 := by decide
theorem witness_ScalarIntegersSaturate_imms : okW 0x1A 0x1FFFFFF .front (fun _ => planSsi (fun _ => true)) ∧
    okW 0x1B 0x1FFFFFF .front (fun _ => planSsi (fun _ => true)) ∧
    okW 0x1C 0x13F .front (fun _ => planSsi (fun w => bits w 9 16 = 0 && bits w 7 2 ≤ 2)) := by decide
theorem witness_ScalarIntegersSaturate_jr : let x := { program (word 0x42 0x2000000) with s := [(1, 4#64)] }
    runningOn (onEngine x) 0 = some (0, x) ∧ x.spent = false ∧ x.wordAt x.pc = some (word 0x42 0x2000000) ∧
    iOp (word 0x42 0x2000000).toNat = 0x42 ∧ x.ops = [] ∧ bits (word 0x42 0x2000000).toNat 0 25 = 0 ∧
    iFd (word 0x42 0x2000000).toNat = 0 ∧ sigOk (word 0x42 0x2000000).toNat = true ∧
    (x.sreg (iFa (word 0x42 0x2000000).toNat)).toNat % 8 ≠ 0 := by decide
theorem witness_ScalarsAndAddresses_scalars : okW 0x18 3 .front (fun _ => planSss [0, 1, 2, 3]) ∧
    okW 0x19 5 .front (fun _ => planSss [0, 1, 2, 3, 4, 5]) ∧ okW 0x20 0x3FFFFFFF .front (fun _ => planSd (fun _ => true)) ∧
    okW 0x21 1 .front (fun _ x w => { planSd (fun _ => true) x w with addrOk := x.relOk (iImm30 w) }) ∧
    okW 0x22 10 .front (fun _ => planSss (List.range 11)) := by decide
theorem witness_ScalarsAndAddresses_addresses :
    okW 0x30 1 .front (fun _ _ w => Plan.front
        (zeroF [iFb w, iFc w] && iFn w ≤ 1 && (if iFn w = 0 then iFd w < 16 else iFa w < 16))
        (if iFn w = 0 then useA (iFd w) true :: useS (iFa w) false else useA (iFa w) false :: useS (iFd w) true)) ∧
    okW 0x31 0 .front (fun _ _ w => Plan.front (zeroF [iFc w, iFn w] && iFd w < 16 && iFa w < 16)
        (useA (iFd w) true :: useA (iFa w) false :: useS (iFb w) false)) ∧
    okW 0x32 1 .front (fun _ _ w => Plan.front (iFd w < 16 && iFa w < 16) [useA (iFd w) true, useA (iFa w) false]) ∧
    okW 0x33 1 .front (fun _ x w =>
        { Plan.front (iFd w < 16) [useA (iFd w) true] with addrOk := x.relOk (iImm30 w) }) ∧
    okW 0x34 0 .front (fun _ _ w => Plan.front (zeroF [iFc w, iFn w] && iFd w < 8)
        ((.t, iFd w, true) :: useS (iFa w) false ++ useS (iFb w) false)) ∧
    okW 0x35 6 .front (fun _ _ w => Plan.front (zeroF [iFb w, iFc w] && iFn w ≤ 6 && iFd w < 8)
        ((.t, iFd w, true) :: useS (iFa w) false)) ∧
    okW 0x36 1 .front (fun _ _ w => Plan.front (zeroF [iFb w, iFc w] && iFn w ≤ 1 && iFa w < 8)
        (useT (iFa w) :: useS (iFd w) true)) := by decide
theorem witness_ControlFlow_plain : okW 0x00 0 .front (fun _ => planNone) ∧ okW 0xF0 0 .front (fun _ => planNone) ∧
    okW 0xF1 0 .front (fun _ => planNone) ∧ okW 0x01 0 .front (fun _ => planNone) ∧
    okW 0x03 0 .front (fun _ => planSd (fun w => bits w 0 30 = 0)) ∧
    okW 0x04 0 .front (fun _ _ w => Plan.front (zeroF [iFd w, iFb w, iFc w, iFn w]) (useS (iFa w) false)) ∧
    okW 0x05 0 .front (fun _ => planSd (fun w => zeroF [iFa w, iFb w, iFc w] && iFn w ≤ 1)) ∧
    okW 0x05 1 .front (fun _ => planSd (fun w => zeroF [iFa w, iFb w, iFc w] && iFn w ≤ 1)) ∧
    okW 0x02 0x1FFFFFF .front (fun _ _ w => Plan.front (zeroF [iFd w, iFa w]) []) := by decide
theorem witness_ControlFlow_branches :
    (∀ k : Fin 7, okW 0x40 (k.val * 0x400000 + 1) .front (fun _ x w =>
      { Plan.front (iCnd w ≤ 6) (useS (iBa w) false ++ useS (iBb w) false) with addrOk := branchOk x w (brTaken x w) })) ∧
    okW 0x41 1 .front (fun _ x w => { planSd (fun _ => true) x w with addrOk := x.relOk (iImm30 w) }) ∧
    okW 0x42 0 .front (fun _ x w => { Plan.front (zeroF [iFd w, iFb w, iFc w, iFn w]) (useS (iFa w) false) with
        addrOk := x.inImage (opA x w) }) ∧
    okW 0x43 1 .front (fun _ x w => { Plan.front (zeroF [iCnd w, iBb w]) (useS (iBa w) true) with
        addrOk := branchOk x w (x.sreg (iBa w) != 0) }) ∧
    ok { program (word 0x43 0x40000001) with s := [(1, 1#64)] } 0x43 .front (fun _ x w =>
      { Plan.front (zeroF [iCnd w, iBb w]) (useS (iBa w) true) with addrOk := branchOk x w (x.sreg (iBa w) != 0) })
      (word 0x43 0x40000001) ∧
    ({ program 0 with count := 1048576 }).budget * 2 ^ 20 ≤ ({ program 0 with count := 1048576 }).count ∧
    runningOn (onEngine { program 0 with count := 1048576 }) 0 = some (0, { program 0 with count := 1048576 }) := by decide

/-- A NOP-like operation outstanding in a unit. -/
def opOf (u : OcUnit) (b : W64) : Op :=
  { seq := 0, unit := u, word := b, pc := 0, sa := 0, sb := 0, sc := 0, aa := 0, ad := 0, td := 0, ta := 0, tb := 0, offset := 0 }

theorem witness_ControlFlow_fenceWaits : let x := { program (word 0xF1 0) with ops := [opOf .vector (word 0x62 0)] }
    runningOn (onEngine x) 0 = some (0, x) ∧ x.ops ≠ [] := by decide

/-- The descriptor of a tile of one row and 16 columns of type `ty` at SRAM byte `base`. -/
def tile16 (base ty : Nat) : BitVec 128 := BitVec.ofNat 128 (base + 15 * 2 ^ 36 + 4 * 2 ^ 48 + ty * 2 ^ 64)

/-- The context whose first tile descriptors are `ts`. -/
def withTiles (op rest : Nat) (ts : List (Nat × BitVec 128)) : Ctx := { program (word op rest) with t := ts }

theorem witness_UnitInstructionsQueue_vector : okW 0x50 0 .vector planVarith ∧ okW 0x51 0 .vector planVcmp ∧
    okW 0x52 0 .vector planVsel ∧ okW 0x53 0 .vector planVcvt ∧ okW 0x54 0 .vector planVperm ∧
    okW 0x55 0 .vector planVbcast ∧ okW 0x56 0 .vector planVext ∧ okW 0x57 0x1800 .vector planVsrnd ∧
    okW 0x60 0 .vector planVld ∧ okW 0x61 0 .vector planVst ∧ okW 0x62 4 .vector planPlogic ∧
    okW 0x63 0 .vector planPset ∧ okW 0x64 0 .vector planPcnt := by decide
/-- The context with a tile open in the matrix unit. -/
def withMat (x : Ctx) (rows cols : Nat) : Ctx := { x with mat := some ⟨rows, cols, false, true, none, 0, none⟩ }

theorem witness_UnitInstructionsQueue_matrix :
    ok (withTiles 0x70 0 [(0, tile16 0 0)]) 0x70 .matrix planMopen (word 0x70 0) ∧
    ok (withMat (withTiles 0x71 0x100000 [(0, BitVec.ofNat 128 (15 * 2 ^ 36 + 2 * 2 ^ 48 + 1 * 2 ^ 64)),
        (1, BitVec.ofNat 128 (15 * 2 ^ 24 + 2 * 2 ^ 48 + 1 * 2 ^ 64))]) 1 1) 0x71 .matrix planMmul (word 0x71 0x100000) ∧
    ok (withMat (withTiles 0x72 0 [(0, tile16 0 0)]) 1 16) 0x72 .matrix planMclose (word 0x72 0) ∧
    ok (withMat (program (word 0x73 0)) 1 16) 0x73 .matrix planMdrop (word 0x73 0) := by decide
theorem witness_UnitInstructionsQueue_macc :
    let x := withMat (withTiles 0x74 0 [(0, BitVec.ofNat 128 (511 * 2 ^ 36 + 32 * 2 ^ 48 + 7 * 2 ^ 64))]) 1 16
    decide (Issues { onEngine x with warden.debugOpen := true } 0 0x74 .matrix planMacc 0 x (word 0x74 0)) = true := by decide
theorem witness_UnitInstructionsQueue_others :
    ok (withTiles 0x80 0x2000006 [(0, tile16 0 1), (1, BitVec.ofNat 128 (0x1000 + 15 * 2 ^ 36 + 4 * 2 ^ 48 + 8 * 2 ^ 64 + 3 * 2 ^ 68))])
      0x80 .expansion planXpnd (word 0x80 0x2000006) ∧
    okW 0x91 0 .lut planLbound ∧
    ok (withTiles 0xA0 0x2000000 [(0, tile16 0 11), (1, tile16 0x1000 11)]) 0xA0 .selection planThrc (word 0xA0 0x2000000) ∧
    ok (withTiles 0xA1 0x2000000 [(0, tile16 0 7), (1, tile16 0x1000 7)]) 0xA1 .selection planTopk (word 0xA1 0x2000000) ∧
    ok (withTiles 0xB0 0x2000000 [(0, BitVec.ofNat 128 (4 * 2 ^ 48)), (1, tile16 0x1000 0)]) 0xB0 .reduction planRsum
      (word 0xB0 0x2000000) ∧
    ok (withTiles 0xB1 0x2000000 [(0, BitVec.ofNat 128 (1 * 2 ^ 36 + 4 * 2 ^ 48 + 13 * 2 ^ 64)), (1, tile16 0x1000 0)]) 0xB1 .reduction
      planRmv (word 0xB1 0x2000000) ∧
    ok (withTiles 0xB2 0x2000000 [(0, BitVec.ofNat 128 (1 * 2 ^ 36 + 4 * 2 ^ 48)), (1, tile16 0x1000 0)]) 0xB2 .reduction planRmaxsum
      (word 0xB2 0x2000000) := by decide
theorem witness_UnitInstructionsQueue_dma :
    ok (withTiles 0xC0 0 [(0, tile16 0 7)]) 0xC0 .dma planDld (word 0xC0 0) ∧
    ok (withTiles 0xC1 0 [(0, tile16 0 7)]) 0xC1 .dma planDst (word 0xC1 0) ∧
    okW 0xC2 0 .dma planDcpy ∧
    ok { program (word 0xC2 0x42000000) with a := [(1, 64#64)] } 0xC2 .dma planDcpy (word 0xC2 0x42000000) ∧
    ok { program (word 0xC2 0x2200000) with a := [(1, 64#64)], s := [(2, 8#64)] } 0xC2 .dma planDcpy (word 0xC2 0x2200000) ∧
    okW 0xD0 0 .dma planAmo ∧
    ok (withTiles 0xD1 0 [(0, tile16 0 11)]) 0xD1 .dma planAaddt (word 0xD1 0) ∧
    okW 0xF2 0 .dma planWindec := by decide
/-- A WINDOW page on the command window of pseudo-channel 0. -/
def windowPage : Page :=
  { va := 0, size := 0x200000, kind := 2, w := true, pin := true, res := true, d := false, a := false, frame := some windowOff,
    fla := 0, backed := false, writing := false, wanted := false }
theorem witness_UnitInstructionsQueue_window :
    ok { program (word 0xE0 0) with pages := [windowPage] } 0xE0 .dma planWvx (word 0xE0 0) ∧
    ok { program (word 0xE1 0) with pages := [windowPage] } 0xE1 .dma planSfence (word 0xE1 0) ∧
    ok { withTiles 0x90 0x2000000 [(0, BitVec.ofNat 128 (0x4000 + 1 * 2 ^ 48 + 11 * 2 ^ 64)), (1, tile16 0x2000 7)] with
        sram := [(4098, 1#8)] } 0x90 .lut planLdist (word 0x90 0x2000000) := by decide

theorem test_PredicateOperations_and : let x := { program 0 with ops := [opOf .vector (word 0x62 0x2100000)], p := [(1, 6#256)] }
    activeOn (onEngine x) 0 = some (0, x) ∧ frontOp x .vector = some (opOf .vector (word 0x62 0x2100000)) := by decide
theorem witness_PredicateOperations_types : vecType 0 = true ∧ vecType 12 = true ∧ iOp (word 0x63 0).toNat = 0x63 ∧
    iOp (word 0x64 0).toNat = 0x64 := by decide
theorem witness_OperationsComplete : let x := { program (word 0xF2 0) with ops := [opOf .dma (word 0xF2 0)] }
    activeOn (onEngine x) 0 = some (0, x) ∧ frontOp x .dma = some (opOf .dma (word 0xF2 0)) ∧
    (dmaRun (onEngine x) x (opOf .dma (word 0xF2 0))).stop = none ∧ x.ended = false := by decide
theorem witness_OperationsComplete_fault : let o := { opOf .dma (word 0xD0 0) with aa := 8 }
    let x := { program (word 0xD0 0) with ops := [o] }
    activeOn (onEngine x) 0 = some (0, x) ∧ frontDma x = some o ∧ (dmaRun (onEngine x) x o).stop = some (.fault 0x10 8) := by decide


/-! ## The command queues -/

/-- The reset state with one region, and these bytes at its first addresses. -/
def withBytes (bs : List Byte) : State := (({ State.reset with hbm.regions := [(0, some openRegion)] } : State).write 2 0xC000000000 bs .clean).1

/-- A command of queue 0 with tag 1, fetched as the fifth: opcode, the rest of its 64 bytes as a number, phase, job. -/
def command (op rest : Nat) (ph : Phase) (j : Job) : Cmd :=
  ⟨0, 1, 5, leBytes 64 (op + rest), ph, false, false, none, 0xFFF#12, none, 0, [], j⟩

/-- A state in which that is the one fetched command, and its queue may send MAINT commands. -/
def holding (s : State) (c : Cmd) : State := { s with qau.cmds := [c], qau.queues := [(0, { Queue.initial with maint := true })] }

/-- A collection of dimension 4 in 8 subspaces of 8 bits, created at CSN 1. -/
def coll : Coll := ⟨⟨0, 4, true, 8, 0, 0, [], 0, 0⟩, false, [⟨0, [], 0⟩], 0, true, false, 1, none, true, []⟩

def withColl (s : State) : State := { s with corpus.colls := [(1, some coll)], csn.rangeEnd := 1048576 }

theorem witness_QueuesEnableAndDrain :
    let on (e : Bool) (t : BitVec 32) : State := { State.reset with qau.queues := [(0, { Queue.initial with enable := e, draining := e, tags := t })] }
    let v : W64 := 0x1FF00000000#64
    Tab.wf Queue.initial (on true 1).qau.queues = true ∧ (on true 1).session 0xFFF = none ∧
    ringsPlaced (qcfgFields (on false 0) 0 v.toNat) ((qcfgFields (on false 0) 0 v.toNat).queue 0) = false ∧
    ((on true 1).queue 0).tags ≠ 0 ∧ ((on true 0).queue 0).tags = 0 ∧ ((on true 0).queue 0).held = [] ∧
    (Queue.initial).sqSize ≤ bits (1#64).toNat 0 10 ∧ bits (0#64).toNat 0 10 < (Queue.initial).sqSize ∧
    bits (0#64).toNat 0 12 < (Queue.initial).cqSize := by decide +kernel
theorem witness_QueuesEnableAndDrain_placed :
    let s : State := { withBytes [] with qau.queues := [(0, { Queue.initial with sqBase := 0xC000000000#49, cqBase := 0xC000010000#49 })] }
    let w := qcfgFields s 0 (0x6500000000#64).toNat
    ringsPlaced w (w.queue 0) = true ∧ (s.queue 0).held = [] ∧ (s.queue 0).atReset = [] ∧ carriesM s 0 = false ∧
    Tab.wf Queue.initial s.qau.queues = true := by decide +kernel
theorem witness_FenceAndAbort :
    let held := command 0x30 0 .fenceHeld .none
    let s := holding State.reset held
    s.cmdAt 0 1 = some held ∧ held.phase = .fenceHeld ∧ earlierDone s 0 5 = true ∧ held.unnamed = false ∧ fetchable s 0 = false ∧
    (command 0x10 0 .fetched .none).opcode = opInsert ∧ (command 0x11 0 .fetched .none).opcode = opDelete ∧
    (holding State.reset (command 0x12 0 .fetched .none)).cmdAt 0 1 = some (command 0x12 0 .fetched .none) ∧
    earlierDone { s with qau.cmds := [{ held with seq := 3, tag := 2 }, held] } 0 5 = false ∧ s.cmdAt 0 2 = none ∧
    bits (0x400#64).toNat 0 10 = 0 ∧ bits (0x400#64).toNat 10 5 = 1 ∧
    (∀ ph ∈ [Phase.waitEngine .rerank, .inStage .rerank, .selftest 0, .activity 0],
      (holding State.reset (command 1 0 ph .none)).cmdAt 0 1 = some (command 1 0 ph .none)) := by decide +kernel

/-! ## Commands of a queue -/

theorem witness_SearchesAreAdmitted :
    let c := command 0x01 (2 ^ 32) .fetched .none
    let s := withColl (holding State.reset c)
    let u := (plainReq s c).1
    let r := (plainReq s c).2.1
    Fetched s 0 opSearch c ∧ c.isSealed = false ∧ plainReq s c = (u, r, true, true) ∧ c.cflag 5 = false ∧ c.cflag 6 = false ∧
    r.handle 0 = 0 ∧ searchAuthority u c r = true ∧ collAt u r.cid u.csn.current = some coll ∧ r.cid < 65536 ∧
    admissionStopped u = false :=
  ⟨by decide, by decide, rfl, by decide, by decide, by decide, by decide, by decide, by decide, by decide⟩
theorem witness_BatchesAreAdmitted :
    let c := command 0x11 (2 ^ 32 + 2 ^ 128 + 0xC000000000 * 2 ^ 256 + 8 * 2 ^ 384) .fetched .none
    let bs := leBytes 8 0x1000000000005
    let s := withColl (holding (withBytes bs) c)
    let u := (s.read 2 c.addr c.len .clean).1
    let r : BatchReq := ⟨c.hdrCid, le c.bytes 16 2, le c.bytes 20 2, true, bs⟩
    Fetched s 0 opDelete c ∧ c.isSealed = false ∧ reachable s c.addr c.len = true ∧ s.read 2 c.addr c.len .clean = (u, some bs) ∧
    batchAuthority u c r.cid (batchItems opDelete r.dim r.count bs).2.1 = true ∧ liveColl u r.cid = some coll ∧
    firstFail (batchChecks u c r coll.params true) = none ∧ batchLimits u opDelete r.count = none ∧ admissionStopped u = false ∧
    freeRef u = some 0 :=
  ⟨by decide, by decide, by decide, rfl, by decide, by decide, by decide, by decide, by decide, by decide⟩
theorem witness_PinsFlushAndStats_pins :
    let c := command 0x20 (2 ^ 128 + 100 * 2 ^ 160) .fetched .none
    let d := command 0x21 (2 ^ 128) .fetched .none
    let s := holding State.reset c
    let t := (holding State.reset d).setPin 1 ⟨true, 0, 0, 0xFFF#12, 100, 0⟩
    Fetched s 0 opPin c ∧ pinChecks s c = none ∧ admissionStopped s = false ∧ Fetched t 0 opUnpin d ∧ unpinChecks t d = none ∧
    pinChecks s { c with bytes := leBytes 64 (0x20 + 99 * 2 ^ 160) } = some stBadCmd ∧
      unpinChecks (holding State.reset d) d ≠ none := by decide
theorem witness_PinsFlushAndStats_stats :
    let c := command 0x31 (2 ^ 32 + 0xC000000000 * 2 ^ 320 + 128 * 2 ^ 416) .fetched .none
    let s := withColl (holding (withBytes []) c)
    let f := command 0x30 0 .fetched (.flush 0)
    (Fetched s 0 opStats c ∧ c.isSealed = false ∧ mayName s c c.hdrCid = true ∧ liveColl s c.hdrCid = some coll ∧ 128 ≤ c.rlen ∧
      admissionStopped s = false) ∧ Fetched (holding State.reset f) 0 opFlush f := by decide
theorem witness_PinsFlushAndStats_reach :
    reachable (withColl (holding (withBytes []) (command 0x31 0 .fetched .none))) 0xC000000000 128 = true := by decide
theorem witness_PinsFlushAndStats_fetch :
    let bs := leBytes 64 (0x30 + 2 ^ 8)
    let s : State := { withBytes bs with qau.queues := [(0, { Queue.initial with sqBase := 0xC000000000#49 })] }
    (∃ s', s.read 2 ((s.queue 0).sqBase.toNat + 64 * (s.queue 0).sqHead) 64 .clean = (s', some bs)) ∧
    (s.queue 0).tags.getLsbD (byteAt bs 1 % 32) = false ∧ byteAt bs 0 = opFlush := by
  refine ⟨⟨_, Prod.ext rfl ?_⟩, ?_, ?_⟩ <;> decide +kernel
theorem witness_PinsFlushAndStats_leases :
    let s (lease secs : Nat) : State := { State.reset.setPin 15 ⟨true, 0, 0, 0xFFF#12, lease, 0⟩ with secs := secs }
    98 * ((s 60000 59).pinAt 15).leaseMs ≤ 100000 * ((s 60000 59).secs - ((s 60000 59).pinAt 15).takenAt + 1) ∧
    100000 * ((s 60000 57).secs - ((s 60000 57).pinAt 15).takenAt + 1) < 98 * ((s 60000 57).pinAt 15).leaseMs ∧
    ((s 0 0).pinAt 15).held = true ∧ (State.reset.pinAt 0).held = false := by decide

/-- A MAINT command of a subop with a body of these bytes at the start of memory, on collection 1. -/
def maint (sub : Nat) (bs : List Byte) : Cmd :=
  command 0x60 (2 ^ 32 * b2n ([1, 2, 3, 4,
    0x150].contains sub) + sub * 2 ^ 128 + 0xC000000000 * 2 ^ 256 + bs.length * 2 ^ 384) .fetched .none
def maintState (sub : Nat) (bs : List Byte) : State := withColl (holding (withBytes bs) (maint sub bs))

theorem witness_MaintRead_destroy : MaintRead (maintState 2 []) (maintState 2 []) 0 2 (maint 2 []) [] ∧
    destroyChecks (maintState 2 []) (maint 2 []) [] true = none ∧ changeRef (maintState 2 []) = some 0 :=
  ⟨⟨by decide, by decide, by decide, rfl, by decide, by decide⟩, by decide, by decide⟩
theorem witness_MaintRead_priority :
    let bs := leBytes 64 15
    let s := maintState 0x150 bs
    let u := (maintBody s (maint 0x150 bs)).1
    MaintRead s u 0 0x150 (maint 0x150 bs) bs ∧ priorityChecks u (maint 0x150 bs) bs true = none ∧ liveColl u 1 = some coll :=
  ⟨⟨by decide, by decide, by decide, rfl, by decide, by decide⟩, by decide, by decide⟩
theorem witness_CollectionsChange_create :
    let bs := leBytes 8 (16 * 2 ^ 16 + 4 * 2 ^ 48) ++ zeros 568
    let c := { maint 1 [] with bytes := leBytes 64 (0x60 + 2 * 2 ^ 32 + 2 ^ 128 + 0xC000000000 * 2 ^ 256 + 576 * 2 ^ 384) }
    let s := withColl (holding (withBytes (leBytes 8 (16 * 2 ^ 16 + 4 * 2 ^ 48))) c)
    createSealed bs = false ∧ createChecks s c bs true = none ∧ maintCmd s 0 1 = some c ∧ stepOne c = true ∧
      changeRef s = some 0 ∧
      c.len = bs.length := by decide +kernel
/-- A sealed CREATE under an authorisation block, where the owner's signature verifies. -/
theorem witness_CollectionsChange_sealed (h : ∀ k m x, Config.xmssVerify k m x = true) :
    let bs := leBytes 16 (16 * 2 ^ 16 + 4 * 2 ^ 48 + 2 ^ 64) ++ zeros 560
    let b := bs ++ leBytes 48 0x48545541
    let c := { maint 1 [] with bytes := leBytes 64 (0x60 + 2 * 2 ^ 32 + 2 ^ 128 + 0xC000000000 * 2 ^ 256 + 624 * 2 ^ 384) }
    let s : State := { withColl (holding State.reset c) with warden.owner := some [], warden.challenges := [(0, 0)] }
    createSealed b = true ∧ createAuth b = some 576 ∧ authBlock s c b 576 = some 0 ∧ createSealed (b.take 576) = true ∧
      createChecks (dropChallenge s 0) c (b.take 576) true = none ∧ changeRef (dropChallenge s 0) = some 0 ∧
      authBlock { s with warden.challenges := [] } c b 576 = none := by
  simp only [authBlock, ownerSigned, h]
  decide +kernel
theorem witness_CollectionsChange_install :
    let x : Coll := { coll with params := { coll.params with pq8 := false, m := 16 } }
    let s : State := { State.reset with corpus.colls := [(1, some x)] }
    genChecks s (maint 3 []) (zeros 576) true = none ∧ journalRoom s 128 = true ∧ liveColl s 1 = some x := by decide +kernel
theorem witness_CollectionsChange_release :
    let bs := leBytes 64 15
    let s := (maintState 0x20 bs).setPin 15 ⟨true, 0, 0, 0xFFF#12, 100, 0⟩
    let u := (maintBody s (maint 0x20 bs)).1
    MaintRead s u 0 0x20 (maint 0x20 bs) bs ∧ releaseChecks u (maint 0x20 bs) (bs.take 64) true = none :=
  ⟨⟨by decide, by decide, by decide, rfl, by decide, by decide⟩, by decide⟩

/-- A MAINT program of queue 0 that has trapped on an unmapped address, with a writable page of 64 KiB at address 0. -/
def trappedProgram : Ctx :=
  { owner := .maint 0, cls := 3, st := .trapped 0, prog := 0, isSealed := false, ucode := 0, image := [0], pc := 0, ef := 0,
    count := 0, budget := 0, s := [], a := [], v := [], p := [], t := [], issued := 0, ops := [], regHaz := [], sramHaz := [],
    mat := none, tile := none, live := 0, sram := [],
    pages := [⟨0, 65536, 0, true, false, true, false, false, some 0xC000000000, 0, false, false, false⟩], maps := 0, pageAt := none,
    trapRec := some ⟨0, 0x10, .dma, 0, 0x100000, 0⟩, ended := false, saved := true, lastFault := 0 }

theorem witness_ProgramsAreManaged_launch :
    let bs := leBytes 64 (7 + 2 * 2 ^ 32)
    let s := { maintState 0x10 bs with warden.policy := some ⟨1, 0, 0, [], 0, 0, [], [⟨Config.shake256 [], 7, 4, false⟩], [], [], 0⟩ }
    let u := (maintBody s (maint 0x10 bs)).1
    let v := (launchImage u bs).1
    MaintRead s u 0 0x10 (maint 0x10 bs) bs ∧ launchImage u bs = (v, some []) ∧ approved v (lHandle bs) 4 false =
      some ⟨Config.shake256 [], 7, 4, false⟩ ∧ pinnedPages frame64k false (imagePages bs) v [] 0 [] = some (v, []) :=
  ⟨⟨by decide, by decide, by decide, rfl, by decide, by decide⟩, rfl, rfl, rfl⟩
theorem witness_ProgramsAreManaged_measured (a : Approval) (h : a.meas = Config.shake256 []) :
    (some a).filter (fun a => a.meas = Config.shake256 []) = some a := by simp [Option.filter, h]
theorem witness_ProgramsAreManaged_resume :
    let bs := leBytes 64 0
    let s (sub : Nat) : State := { maintState sub bs with eng.ctxs := [(0, some trappedProgram)] }
    let u (sub : Nat) : State := (maintBody (s sub) (maint sub bs)).1
    trappedCtx (u 0x11) (ctxNo bs) = some (trappedProgram, ⟨0, 0x10, .dma, 0, 0x100000, 0⟩, 0) ∧
    MaintRead (s 0x11) (u 0x11) 0 0x11 (maint 0x11 bs) bs ∧ resumeChecks (u 0x11) (maint 0x11 bs) bs true = none ∧
    MaintRead (s 0x12) (u 0x12) 0 0x12 (maint 0x12 bs) bs ∧ killChecks (u 0x12) (maint 0x12 bs) bs true = none :=
  ⟨by decide, ⟨by decide, by decide, by decide, rfl, by decide, by decide⟩, by decide,
    ⟨by decide, by decide, by decide, rfl, by decide, by decide⟩, by decide⟩
theorem witness_ProgramsAreManaged_sample :
    let bs := leBytes 64 (2 ^ 64)
    let s := { maintState 4 bs with eng.ctxs := [(0, some trappedProgram)] }
    let u := (maintBody s (maint 4 bs)).1
    MaintRead s u 0 4 (maint 4 bs) bs ∧ sampleChecks u (maint 4 bs) bs true = none ∧ u.coll (maint 4 bs).hdrCid = some coll ∧
      sampleCtx u (maint 4 bs) bs = some trappedProgram :=
  ⟨⟨by decide, by decide, by decide, rfl, by decide, by decide⟩, by decide, by decide, by decide⟩
theorem witness_ProgramsAreManaged_update :
    let bs := leBytes 8 (3 + 2 ^ 8 + 31 * 2 ^ 16)
    let s := maintState 0x100 bs
    let u := (maintBody s (maint 0x100 bs)).1
    MaintRead s u 0 0x100 (maint 0x100 bs) bs ∧ namedUnits (uPart bs) (uOne bs) (uUnit bs) = [31] ∧ uPart bs ≠ 8 :=
  ⟨⟨by decide, by decide, by decide, rfl, by decide, by decide⟩, by decide, by decide⟩

/-! ## Claims -/

/-- The start is posted, and nothing is claimed. -/
def settled : State := { State.reset with mod.startPosted := true }

theorem witness_ActivitiesTakeTheirClaims_auto :
    let bad : State := { settled with eng.engines := [(47, { Engine.initial with permanent := true })] }
    let used : State := { settled with hbm.banks := [(bankKey 11 31 47, ⟨8, []⟩)] }
    let lanes : State := settled.modCtl 11 (fun c => { c with lanes := [(15, 2)] })
    Claims bad (.refetch 1 47) true 48 ∧ (unitsOf 1).contains 47 = true ∧ needsRefetch bad 1 47 = true ∧
    Claims settled (.rowRemap 11 31 47 24575) true 48 ∧ canRemap settled (bankKey 11 31 47) 24575 = true ∧
    Claims used (.rowRetire 11 31 47 24575) true 48 ∧ canRemap used (bankKey 11 31 47) 24575 = false ∧
    Claims settled (.laneRemap 11 15) true 48 ∧ Tab.get 0 (settled.ctl 11).lanes 15 + (allClaims settled).length < 2 ∧
    Claims lanes (.stackRetire 11) true 48 ∧ 2 ≤ Tab.get 0 (lanes.ctl 11).lanes 15 := by decide
theorem witness_ActivitiesTakeTheirClaims_limits :
    let rows : State := settled.modPch 255 (fun p => { p with retiredRows := 1025 })
    let out : State := { settled with flash.channels := [(31, { Channel.initial with state := 2 })] }
    let bank : State := { settled with hold.charged := true }
    Claims rows (.stackRetire 7) true 48 ∧ 1024 < stackRetiredRows rows 7 ∧ (rows.ctl 7).retired = false ∧
    Claims settled (.flashRetire 31 65535 (some 3)) true 48 ∧ (settled.channel 31).state ≠ 2 ∧
    Claims out (.channelRewrite 31) true 48 ∧ (out.channel 31).state = 2 ∧
    Claims rows (.pcRetire 255) true 48 ∧ pcFailing rows 255 = true ∧ (rows.pch 255).retired = false ∧
    Claims bank (.holdupTest 0) true 48 ∧ bank.hold.charged = true ∧ dueSection bank = some 0 := by decide
theorem witness_ActivitiesTakeTheirClaims_maint :
    let a : Activity := .bypass 31
    let c := { maint 0x102 [] with job := .act a }
    let s := { maintState 0x102 [] with mod.startPosted := true, qau.cmds := [c] }
    let u := (maintBody (s.setCmd c) c).1
    maintCmd s 0 0x102 = some c ∧ MaintRead (s.setCmd c) u 0 0x102 c [] ∧ Claims u a false 0 :=
  ⟨by decide, ⟨by decide, by decide, by decide, rfl, by decide, by decide⟩, by decide⟩
theorem witness_ActivitiesTakeTheirClaims_wrapper :
    let bs : List Byte := [0x5A]
    let a : Activity := .ieee1500 11 15 "BYPASS" 1 bs
    let c := { maint 0x140 bs with job := .act a }
    let s := { maintState 0x140 bs with mod.startPosted := true, qau.cmds := [c], hbm.ctls := [(11, { Stack.initial with retired := true })] }
    let u := (maintBody (s.setCmd c) c).1
    maintCmd s 0 0x140 = some c ∧ MaintRead (s.setCmd c) u 0 0x140 c bs ∧ Claims u a false 0 ∧ max 1 bs.length ≤ bs.length ∧
      (u.ctl 11).retired = true :=
  ⟨by decide, ⟨by decide, by decide, by decide, rfl, by decide, by decide⟩, by decide, by decide, by decide⟩
theorem witness_ActivitiesTakeTheirClaims_selftest :
    let c := command 0x40 (3 * 2 ^ 128 + 47 * 2 ^ 136) .fetched .none
    let s := { holding State.reset c with mod.startPosted := true }
    Fetched s 0 opSelftest c ∧ le c.bytes 17 2 < testTargets (byteAt c.bytes 16) ∧ admissionStopped s = false ∧
    Claims s (.selftest (byteAt c.bytes 16) (le c.bytes 17 2) (c.cflag 0)) false 0 := by decide
theorem witness_ClaimsStartAndEnd_waits :
    let claim (a : Activity) (auto : Bool) (k : Nat) : Claim := ⟨k, a, auto, 5, 0, 1, [], 0, false⟩
    let on (c : Claim) : State := { settled with maint.claims := [(63, some c)], qau.cmds := [command 0x60 0 (.activity 63) .none] }
    let w := claim (.rowRemap 0 0 0 0) true 0
    let m := claim (.bypass 0) false 0
    let late : State := { on m with secs := 10 }
    (on w).claim 63 = some w ∧ outcome (on w) w.act w.auto (some 63) = .both ∧
    outcome { on w with pwr.entering := true } w.act w.auto (some 63) = .wait ∧
    m.begun = false ∧ m.since + 10 ≤ late.secs ∧ admissionStopped late = false ∧ (on m).secs < m.since + 10 := by decide
theorem witness_ClaimsStartAndEnd_ends :
    let claim (a : Activity) : Claim := ⟨1, a, true, 0, 0, 0, [], 0, false⟩
    let on (a : Activity) : State := { settled with maint.claims := [(63, some (claim a))] }
    (on (.bypass 31)).claim 63 = some (claim (.bypass 31)) ∧ ((on (.bypass 31)).channel 31).jobs = [] ∧
    addressHeld (on (.flashRetire 31 0 none)) = false ∧ (retirePc (on (.pcRetire 383)) 383).isSome = true ∧
    (retireStack (on (.stackRetire 7)) 7).isSome = true ∧ rehomed (on (.stackRetire 7)) 7 = true ∧
    Tab.get 0 ((on (.laneRemap 7 1)).ctl 7).lanes 1 < 2 ∧
    2 ≤ Tab.get 0 (((on (.laneRemap 7 1)).modCtl 7 (fun c => { c with lanes := [(1, 2)] })).ctl 7).lanes 1 ∧
    unitReady (on (.refetch 3 31)) 3 31 = true ∧ testNeeded (on (.selftest 1 31 false)) (.selftest 1 31 false) = false := by decide
theorem witness_ClaimsStartAndEnd_refetch : mayRun settled 3 (unitImage settled 3 31) = true := by
  rw [show unitImage settled 3 31 = [] by decide, mayRun, show svnFloor settled 3 = 0 by decide]
  simp

/-! ## The Reel, the selector, refine -/

def context : SlotCtx := ⟨1, 0, false, false, false, false, coll.params, [], [], 0, -2147483648, 0, 1, 1, true, []⟩
def search : SearchJob :=
  { ctx := context, pinTake := none, partialList := false, withPayload := true, cr := 0, rw := 0, encodeProg := 0, lutProg := 0
    rerankProg := 0, encodeBudget := 0, rerankBudget := 0, input := [], raddr := 0, rlen := 0, rclass := 3, gens := [],
      waits := false
    queryF := [], clipN := 0, clipD := 0, lutDone := false, slot := none, result := [], tally := Tally.zero, total := 0,
      tiesN := 0
    scanTies := 0, scored := [], awaiting := 0, integ := false, dupInc := false, allPaced := false, final := [], payloads := []
    boundUs := 0, encUnits := 0, rrUnits := 0, sideSources := [], aborted := false, offsetRead := false, order := 0, approvals := [] }

/-- A header with these bytes, LIVE, of collection 1 from CSN 1 on, with no exclusion list. -/
def header (flags : Nat) : Header :=
  BitVec.ofNat 1024 (1 + flags * 2 ^ 56 + 2 ^ 64 + (2 ^ 64 - 1) * 2 ^ 128 + 0xFFFFFFFF * 2 ^ 192 + 0xFFFF * 2 ^ 256)
def block (flags : Nat) : Block := ⟨header flags, [], [], 0, none⟩
def withBlock (flags : Nat) : State := { withColl State.reset with corpus.blocks := [(blockKey 255 327679, some (block flags))] }

/-- Weevil 255 with these entries to send, and slot 31 busy with command 5. -/
def withSlot (j : SearchJob) (ph : Phase) (out : List Entry) : State :=
  { State.reset with
    qau.cmds := [command 1 0 ph (.search j)], reel.weevils := [(255, { Weevil.initial with out := out })]
    reel.slots := [(31, ⟨true, 5, 0, 1, true, some j.ctx⟩)] }

theorem witness_ScansWalk_slots :
    let c := command 1 0 .waitSlot (.search search)
    let s : State := { State.reset with qau.cmds := [c], reel.cfg := [(0, 0#4)] }
    unitStopped s 3 = false ∧ (s.slot 1).busy = false ∧ s.pwr.withheld = false ∧ s.pwr.state = 0 ∧
    (slotWaiters s).filter (fun k => !(List.range 1).any (fun m => !(s.slot m).busy && (classMask s m).getLsbD k.2.rclass)) =
      [(c, search)] ∧ (classMask s 1).getLsbD search.rclass = true ∧ issuedSides s search.ctx.cid.toNat = 0 ∧
    ((withSlot search .inSlot []).slot 31).busy = true := by decide +kernel
theorem witness_ScansWalk_walks :
    let s := withBlock 1
    let v := s.weevil 255
    (s.pwr.state = 0 ∧ v.paused = false ∧ v.stalled = false ∧ v.passThrough = false ∧ (s.ctl 7).answering = true) ∧ v.out.length < 512 ∧
      v.repair = [] ∧
    walkAt (ring s 255) v.pos = some (327679, block 1) ∧ ring s 254 = [] ∧
      (withBlock 0).block (blockKey 255 327679) = some (block 0) ∧
    ring (withBlock 0) 255 = [] := by decide +kernel
theorem witness_ScansWalk_holds :
    let t := withSlot search .inSlot []
    let w (stalled : Bool) (n : Nat) : State := { State.reset with reel.weevils := [(255, { Weevil.initial with
      stalled := stalled, out := List.replicate n (.leave 0 Tally.zero), repair := [7] })] }
    (t.slot 31).busy = true ∧ (t.slot 31).loaded = true ∧ (t.cmd (t.slot 31).cmd).isSome = true ∧
    ((w true 511).weevil 255).stalled = true ∧ ((w true 511).weevil 255).out.length < 512 ∧
    ((w false 0).weevil 255).repair = [7] ∧ 512 ≤ ((w false 512).weevil 255).out.length ∧
      ((w false 0).weevil 255).stalled = false := by
  decide +kernel
theorem witness_ScansWalk_laps :
    let s : State := { State.reset with
      eng.engines := [(47, { Engine.initial with work := .lap 3 })], eng.groups := [⟨3, 1, [24, 47], [0]⟩] }
    groupOf s 47 = some (⟨3, 1, [24, 47], [0]⟩, 1) ∧ memberChunks s ⟨3, 1, [24, 47], [0]⟩ 1 = [] ∧
      groupOf s 46 = none := by decide +kernel
theorem witness_ScansWalk_chunks :
    let g : LapGroup := ⟨3, 1, [24, 47], [31]⟩
    let s : State := { State.reset with
      eng.engines := [(47, { Engine.initial with work := .lap 3, lapSlots := [(31, { WSlot.free with phase := 1 })] })]
      eng.groups := [g], corpus.chunks := [(2, some ⟨1, 0, 1⟩), (5, some ⟨1, 1, 1⟩), (6, some ⟨1, 2, 1⟩), (9, some ⟨1, 3, 1⟩)] }
    let t := lapCatchUp s 47
    let u := lapChunkFor (t.modEngine 47 (fun g => { g with
      lapSlots := (slotsIn g.lapSlots 1).foldl (fun a n =>
        Tab.mod WSlot.free a n (fun ws => { ws with phase := 2, start := 0 })) g.lapSlots })) 47 5 false
    groupOf s 47 = some (g, 1) ∧ memberChunks s g 1 = [5, 9] ∧ (t.engine 47).chunkPos = 0 ∧
    slotsIn (u.engine 47).lapSlots 2 = [31] ∧ passes 0 1 (Tab.get WSlot.free (u.engine 47).lapSlots 31).start = false := by
  refine ⟨by decide +kernel, by decide +kernel, ?_, ?_, ?_⟩ <;>
    simp [lapCatchUp, lapChunkFor, State.modEngine, State.engine, Tab.mod, Tab.set, Tab.get, slotsIn, Engine.initial, WSlot.free, State.slot,
      State.reset, Reel.initial, ReelSlot.free, chunkEntries, passes]
theorem witness_ScansWalk_thresholds :
    let s := { withSlot search .inSlot [] with sel.sent := [(31, some (-1))] }
    unitStopped s 1 = false ∧ Tab.get none s.sel.sent 31 = some (-1) ∧ (s.slot 31).ctx = some context ∧
    Tab.get none s.sel.sent 30 = none := by decide +kernel

theorem witness_SelectorsTakeEntries :
    let c : Cand := ⟨0, -7, 0, false, 0⟩
    let e : Cand := ⟨9, -7, 2, true, 0⟩
    let s := withSlot search .inSlot [.cand 31 c]
    unitStopped s 1 = false ∧ portOut s (.weevil 255) = [.cand 31 c] ∧ ((popPort s (.weevil 255)).slot 31).ctx = some context ∧
    resolveCand (popPort s (.weevil 255)) (.weevil 255) c = none ∧ resolveCand s (.side 47) e = some e ∧
    portOut State.reset (.side 47) = [] ∧
    ([(⟨9, 5, 3, false, 0⟩ : Cand)].find? (fun d => d.vid = e.vid) = some ⟨9, 5, 3, false, 0⟩) ∧
    (resolveDup ⟨9, 5, 3, false, 0⟩ e).1 = ⟨9, 5, 3, false, 0⟩ := by decide +kernel
theorem witness_SelectorsTakeEntries_poisoned :
    let c : Cand := ⟨327679, -7, 0, false, 0⟩
    let s (bad : List Nat) : State := { withSlot search .inSlot [.cand 31 c] with
      corpus.blocks := [(blockKey 255 327679, some ⟨BitVec.ofNat 1024 (1 + placeOf 8 0 0 * 2 ^ 352), [], [], 0, none⟩)], hbm.poisoned := bad }
    let u := popPort (s [placeOf 8 0 0 / 32]) (.weevil 255)
    (resolveCand u (.weevil 255) c).isSome = true ∧ (u.slot 31).ctx = some context ∧
    poisonedEntry u (.weevil 255) c = some (placeOf 8 0 0, false) ∧ poisonedEntry (popPort (s []) (.weevil 255)) (.weevil 255) c = none := by
  decide +kernel
theorem witness_SelectorsTakeEntries_insert :
    let e : Cand := ⟨9, -7, 2, true, 0⟩
    let s : State := { withSlot search .inSlot [] with eng.engines := [(47, { Engine.initial with out := [.cand 31 e] })] }
    let t := popPort s (.side 47)
    portOut s (.side 47) = [.cand 31 e] ∧ (t.slot 31).ctx = some context ∧ resolveCand t (.side 47) e = some e ∧
    (halfAt (countEntry t (.side 47) 31 context) 63).held.find? (fun d => d.vid = e.vid) = none ∧
    (halfAt (countEntry t (.side 47) 31 context) 63).held.length < context.n :=
  ⟨by decide, rfl, rfl, rfl, by decide⟩
theorem witness_SelectorsTakeEntries_words :
    let s := withSlot search .inSlot [.stats 31 343 Tally.zero]
    let t := withSlot search .inSlot [.leave 31 Tally.zero]
    portOut s (.weevil 255) = [.stats 31 343 Tally.zero] ∧ portOut t (.weevil 255) = [.leave 31 Tally.zero] ∧
    t.cmd (t.slot 31).cmd = some (command 1 0 .inSlot (.search search)) ∧ (t.slot 31).busy = true := by decide +kernel

theorem witness_RefineReturns :
    let j : RefineJob := ⟨5, 9, 2, 0, false⟩
    let r : RefineRes := ⟨5, 9, 2, some 0⟩
    let e : Cand := ⟨9, -7, 2, true, 0⟩
    let c := command 1 0 .refining (.search { search with result := [e] })
    let s (js : List RefineJob) (rs : List RefineRes) : State := { State.reset with
      qau.cmds := [c], flash.channels := [(31, { Channel.initial with jobs := js, results := rs })] }
    (s [j] []).pwr.state = 0 ∧ ((s [j] []).channel 31).jobs = [j] ∧ (s [j] []).cmd j.cmd = some c ∧ c.job = .search { search with result := [e] } ∧
    j.surplus = false ∧ ((s [] [r]).channel 31).results = [r] ∧ (s [] [r]).cmd r.cmd = some c ∧
    [e].find? (fun e => e.vid = r.vid && e.version = r.version) = some e ∧ ((s [] []).channel 31).jobs = [] ∧
    ((s [] []).channel 31).results = [] := by decide +kernel
theorem witness_RefineReturns_payloads :
    let e : Cand := ⟨9, -7, 2, true, 0⟩
    let c := command 1 0 .payload (.search { search with final := [(e, 0)] })
    let s := holding State.reset c
    s.pwr.state = 0 ∧ s.cmdAt 0 1 = some c ∧ c.phase = .payload ∧ c.job = .search { search with final := [(e, 0)] } ∧ search.aborted = false ∧
    [(e, (0 : BitVec 32))][search.payloads.length]? = some (e, 0) ∧ s.cmdAt 0 0 = none ∧ c.isSealed = false ∧
    readOutcome s [0] .ok ≠ .lost ∧ readOutcome s [0] .lost = .lost ∧ slotAt s e.slot = none ∧
    (((slotHeld { s with flash.slots := [(slotKey 0, some ⟨1, 9, 2, 0, 4, 0, 0, [], 16, none, 0, [], 0, false⟩)] } 0).map (·.payLen)).getD 0) ≠ 0 :=
  by decide +kernel

/-! ## Commits, the allocator, the page store -/

def batch : BatchJob := ⟨1, false, 0, 0, [0x1000000000005], [], [], some 0, none, 0, 1, 0, 0⟩

theorem witness_BatchesCommitOnce :
    let c := command 0x11 (2 ^ 32) .staging (.batch batch)
    let s := withColl (holding State.reset c)
    s.cmdAt 0 1 = some c ∧ c.phase = .staging ∧ c.job = .batch batch ∧ (liveColl s batch.cid.toNat).isSome = true ∧
      canIssue s = true ∧
    journalRoom s (batchRoom batch.count) = true ∧ clash s batch = false ∧ batch.kind = none ∧ refusal s c.opcode batch = none ∧
    (stage s batch []).isSome = true ∧ canIssue (holding State.reset c) = false ∧ liveColl (holding State.reset c) 1 = none := by
  decide +kernel
theorem witness_BatchesCommitOnce_staged :
    let k : BatchJob := { batch with kind := some true, jsn := 1 }
    let c := command 0x11 (2 ^ 32) .staging (.batch k)
    let s : State := { withColl (holding State.reset c) with flash.programmed := 1, flash.jsn := 1 }
    canIssue s = true ∧ journalled s k true = true ∧ stagedBefore s k.jsn = false ∧ journalRoom s (batchRoom k.count) = true ∧
    refusal s c.opcode k = none ∧ journalled { s with flash.programmed := 0 } k true = false ∧
    journalRoom { s with flash.tail := [⟨1, false, 0, 0, 0, 67108864, [], 0, .commit, none, none, [], 0⟩] } (batchRoom k.count) = false ∧
    refusal s 0x12 { k with recs := [] } = none := by decide +kernel
theorem witness_BatchesCommitOnce_journal :
    let s : State := { State.reset with flash.tail := [⟨1, false, 0, 0, 0, 64, [], 0, .commit, none, none, [], 0⟩] }
    asleep s = false ∧ s.flash.tail ≠ [] ∧ (∀ e ∈ s.flash.tail, e.cmd = none ∧ e.ack = none) ∧ s.csn.nextRange = none ∧ s.qau.cmds = [] ∧
    524288 ≤ s.csn.next - 1 + 1048576 - s.csn.rangeEnd ∧ s.flash.sinceCkpt < 1073741824 ∧ unitStopped s 2 = false ∧
    journalRoom s 72 = true :=
  ⟨by decide, by decide, by decide, rfl, rfl, by decide, by decide, by decide, by decide⟩

def sideEntry : SideEnt := ⟨1, 0x1000000000005, 1, BitVec.allOnes 64, 0xFFFF, 0xFFFF, 0, 0, 0, ⟨[], 0, 0, []⟩, 0, 0, 0⟩

theorem witness_TheAllocatorWorks_reclaims :
    let s (flags : Nat) : State := withBlock flags
    let old : State := { withColl State.reset with
      corpus.sides := [(16777215, some { sideEntry with retire := 0 })], csn.current := 2 }
    let x : State := { State.reset with
      corpus.colls := [(1, some { coll with gens := [⟨0, [], 0⟩, ⟨1, [], 0⟩], destroyed := some 0 })] }
    unitStopped (s 1) 2 = false ∧ (s 1).block (blockKey 255 327679) = some (block 1) ∧ hQuar (block 1).hdr = false ∧
    hQuar (block 5).hdr = true ∧ (reserveRow (s 5) 255 (rowSpan (block 5).hdr)).isSome = true ∧ hExclList (block 1).hdr = 0xFFFF ∧
    exclusions (s 1) 255 (block 1).hdr = [] ∧
      ¬ resolveRetire (s 1) (hRetire (block 1).hdr) (hRetireRef (block 1).hdr) ≤ horizon (s 1) ∧
    goneColl (s 1) 1 = false ∧ resolveRetire old 0 0xFFFF ≤ horizon old ∧ goneColl x 1 = true ∧ emptyColl x 1 = true ∧
    (Tab.get none State.reset.csn.table 65534).bind (·.csn) = none ∧ genUsed x 1 0 = false := by decide +kernel
theorem witness_TheAllocatorWorks_merges :
    let pl : Place := ⟨255, 327679, 40960, 0, 0xA000000000#49, 0, 0⟩
    let s : State := { withColl State.reset with
      corpus.sides := [(16777215, some sideEntry)], secs := 1, hbm.pchs := [(255, { Pch.initial with scan := true, banks := BitVec.allOnes 48 })] }
    liveColl s 1 = some coll ∧ changeRef s = some 0 ∧ s.side 16777215 = some sideEntry ∧
    mergeable s 1 [(16777215, sideEntry)] = true ∧ sideLive s sideEntry = true ∧
      extentsFree s coll.params pl [sideEntry.slot] = true ∧
    placeOk s pl 1 (blockBytes coll.params) false [] = true := by decide +kernel
theorem witness_TheAllocatorWorks_moves :
    let s := withBlock 1
    s.block (blockKey 255 327679) = some (block 1) ∧ liveColl s (hCid (block 1).hdr) = some coll ∧ changeRef s = some 0 ∧
    blockLive s (block 1) = true ∧ hQuar (block 1).hdr = false ∧ liveRecs s (keyWeevil (blockKey 255 327679)) (block 1) = [] ∧
    balanced s 1 [255] none = true := by
  decide +kernel
theorem witness_TheAllocatorWorks_reloads :
    let s (k : List Byte) : State := { withColl State.reset with flash.imgs := [(0, some ⟨0, [], k, 0⟩)] }
    imageUnder (s [1]) { block 5 with img := some 0 } = none ∧ imageUnder (s []) { block 5 with img := some 0 } = some ⟨0, [], [], 0⟩ := by
  decide +kernel

theorem witness_PageStoreWorks :
    let v : VSlot := ⟨1, 5, 0, 0, 4, 0, 0, [], 0, none, 0, [], 0, false⟩
    let s : State := { withColl State.reset with
      corpus.sides := [(0, some { sideEntry with slot := 29 + 2 ^ 46 })], flash.slots := [(29 * 4096, some v)],
        flash.rows := [(0, ⟨true, true, none, false⟩), (7, ⟨false, true, none, false⟩)] }
    let out : State := { s with flash.channels := [(31, { Channel.initial with state := 1 })] }
    let fetched : State := holding s (command 1 0 .refining (.search search))
    (rowAt s 7).openRow = false ∧ (rowAt s 0).openRow = true ∧ skipNow s = none ∧ skipNow out ≠ none ∧ lastColumn out 0 ≠ [] ∧
    asleep s = false ∧ addressHeld out = false ∧ addressHeld fetched = true ∧ objectAt s 29 = some (29, 1) ∧ freeRun s 3600 1 = true ∧
    unitStopped s 2 = false ∧ readOutcome s [850] .ok ≠ .lost ∧ readOutcome s [850] .lost = .lost := by decide +kernel
/-- Erasures of a superblock far behind the module's mean, whatever the number of superblocks. -/
theorem witness_PageStoreWorks_wear (h : 1 < superblocks) :
    let s : State := { State.reset with life.now.erase := [(65536 * 32, 6400 * superblocks + 1)] }
    addressHeld s = false ∧ wearLags s 0 = true ∧ superEmpty s 1 = true ∧ packSuper s 0 1 = some s := by
  refine ⟨by decide, ?_, rfl, rfl⟩
  simp only [wearLags, Bool.and_eq_true, decide_eq_true_eq]
  refine ⟨by omega, ?_⟩
  have z : superErases { State.reset with life.now.erase := [(65536 * 32, 6400 * superblocks + 1)] } 0 = 0 := by
    simp [superErases, eraseCount, blockOf, Tab.get, eraseKey, State.reset, Flash.initial, List.range, List.range.loop]
  rw [z]
  simp [allErases]

/-! ## The command window -/

/-- Weevil 255 with this entry at the front of its window, from requester `r`. -/
def window (r : Nat) (bs : List Byte) : State :=
  { State.reset with reel.weevils := [(255, { Weevil.initial with accepted := [(0, r, bs)] })] }

theorem witness_WindowCommandsRun :
    let at' (op r : Nat) (rest : Nat) : Option (Nat × List Byte) := winFront (window r (leBytes 64 (op + rest))) 255 op
    asleep State.reset = false ∧ asleep { State.reset with pwr.state := 2 } = true ∧ at' 0x08 9 0 = some (9, leBytes 64 0x08) ∧ at' 0x10 3 0 = some (3, leBytes 64 0x10) ∧ at' 0x18 9 0 = some (9,
      leBytes 64 0x18) ∧
    at' 0x0B 9 0 = some (9, leBytes 64 0x0B) ∧ at' 0x0A 9 (65536 * 2 ^ 96) = some (9, leBytes 64 (0x0A + 65536 * 2 ^ 96)) ∧
    le (leBytes 64 (0x0A + 65536 * 2 ^ 96)) 12 4 = 65536 ∧ winFront (window 3 (leBytes 64 8)) 255 0x09 = none ∧
    [(9 : Nat)].contains 3 = false ∧ [(0 : Nat), 1, 3, 9].contains 3 = true := by decide +kernel
theorem witness_WindowCommandsRun_rows :
    let bs := leBytes 64 (1 + 327679 * 2 ^ 32)
    let es := leBytes 64 (2 + 8191 * 2 ^ 32 + 327679 * 2 ^ 64 + 32 * 2 ^ 96 + 3 * 2 ^ 104 + 29 * 2 ^ 112)
    winFront (window 3 bs) 255 1 = some (3, bs) ∧ arg0 bs = 327679 ∧
      (dataBytes (window 3 bs) 255 (le bs 16 4) 128).isSome = true ∧
    (withBlock 1).block (blockKey 255 (le es 8 4)) = some (block 1) ∧ arg0 es = 8191 ∧ byteAt es 12 = 32 ∧ byteAt es 13 = 3 ∧
    byteAt es 14 + byteAt es 13 ≤ 32 ∧ hQuar (block 1).hdr = false ∧ hQuar (block 5).hdr = true := by decide +kernel

/-- Extent 5 of pseudo-channel 31 of stack 7, as a direct-scan region. -/
def scanRegion : Region := ⟨0xC000000000, 1, 5, true, 2, false, true, 31, 0x080#12, 1, 0xFFFF#16⟩

theorem witness_DirectScansAnswer :
    let bs := leBytes 64 (0x11 + 4 * 2 ^ 64 + 16 * 2 ^ 72 + 64 * 2 ^ 80 + 2 ^ 96 + 0x3000000 * 2 ^ 128)
    let s : State := { window 1 bs with hbm.regions := [(0, some scanRegion)] }
    s.pwr.state = 0 ∧ dscanTime s 255 = true ∧ winFront s 255 0x11 = some (1, bs) ∧ 1 ≤ byteAt bs 10 ∧ byteAt bs 10 ≤ 64 ∧
    1 ≤ le bs 12 4 ∧ le bs 12 4 ≤ 16777216 ∧ byteAt bs 8 % 8 = 4 ∧ byteAt bs 9 = 16 ∧
    dscanRegion s 255 (le bs 16 8) (le bs 12 4 * (byteAt bs 9 + 8)) = true ∧
    le bs 24 4 + byteAt bs 9 * 256 ≤ winV1 - winData ∧ le bs 32 4 + 8 * byteAt bs 10 ≤ winV1 - winData := by decide +kernel
theorem witness_DirectScansAnswer_v1 :
    let s (m : List Host.Cell) : State := { State.reset with
      reel.weevils := [(255, { Weevil.initial with v1Run := true, paused := true })], hbm.regions := [(0, some scanRegion)],
        hbm.mem := m }
    let b := windowBase 255 + winV1
    let t := s [(b + 0x08 + 3, 0x03), (b + 0x10, 1), (b + 0x18, 64)]
    dscanTime t 255 = true ∧ v1Word t 255 0x08 % 16 = 0 ∧ v1Word t 255 0x10 = 1 ∧ v1Word t 255 0x18 = 64 ∧
    dscanRegion t 255 (v1Word t 255 0x08) 16 = true ∧ (t.byte b).getLsbD 1 = false ∧ ((s [(b, 2)]).byte b).getLsbD 1 = true ∧
    (t.weevil 255).v1Run = true ∧ (t.weevil 255).paused = true ∧ (t.weevil 254).v1Run = false := by decide +kernel

/-! ## Engines and pages -/

theorem witness_EngineWorkGoesOn :
    let c := command 0x10 0 .waitEncode (.batch batch)
    let w : Work := ⟨1, 5, .encode 5, 1⟩
    let s : State := { withColl (holding State.reset c) with eng.work := [w] }
    let x := { trappedProgram with st := .saved, saved := false, trapRec := none }
    let y : State := { State.reset with eng.ctxs := [(127, some x)], eng.work := [⟨3, 0, .context 127, 1⟩] }
    unitStopped s 3 = false ∧ nextWork s 1 = some w ∧ mayStart s w 47 = true ∧ urgentFirst s w 47 = true ∧
    takeFirst (· = w) s.eng.work = some (w, []) ∧ s.cmd 5 = some c ∧ nextWork s 0 = none ∧
    nextWork y 3 = some ⟨3, 0, .context 127, 1⟩ ∧ mayStart y ⟨3, 0, .context 127, 1⟩ 47 = true ∧ urgentFirst y ⟨3, 0, .context 127, 1⟩ 47 = true ∧
    starved y = none ∧ starved { y with
      eng.engines := (List.range 47).map (fun e => (e, { Engine.initial with drain := true })) ++ [(47, { Engine.initial with work := .test 5 })],
      eng.work := [⟨1, 0, .context 127, 1⟩] } = some ⟨1, 0, .context 127, 1⟩ := by decide +kernel
theorem witness_EngineWorkGoesOn_contexts :
    let s (secs : Nat) : State := { State.reset with eng.ctxs := [(127, some trappedProgram)], secs := secs }
    (s 10).ctx 127 = some trappedProgram ∧ trappedProgram.st = .trapped 0 ∧ trappedProgram.owner = .maint 0 ∧
      0 + 10 ≤ (s 10).secs ∧
    (s 9).secs < 0 + 10 := by decide +kernel
theorem witness_EngineWorkGoesOn_stages :
    let b := command 0x10 0 .encoding (.batch batch)
    let l := command 1 0 (.inStage .lut) (.search { search with queryF := [0x7FC00000] })
    let on (w : EngWork) (cs : List Cmd) (xs : Tab (Option Ctx)) : State := { withColl State.reset with
      eng.engines := [(47, { Engine.initial with work := w })], qau.cmds := cs, eng.ctxs := xs }
    let x (o : Owner) (r : W64) : Ctx := { trappedProgram with owner := o, st := .running 47, trapRec := none, ended := true, s := [(1, r)] }
    let p := x (.maint 0) 0
    let q := x (.stage 5 .lut) 1
    ((on (.encode 5) [b] []).engine 47).work = .encode 5 ∧ (on (.encode 5) [b] []).cmd 5 = some b ∧
    (on (.lutStd 5) [l] []).cmd 5 = some l ∧ prepareQuery search.ctx.params.metric [0x7FC00000#32] = none ∧
    (on (.context 0) [] [(0, some p)]).ctx 0 = some p ∧ p.st = .running 47 ∧ p.ended = true ∧ p.ops = [] ∧
    (on (.context 0) [l] [(0, some q)]).ctx 0 = some q ∧ q.sreg 1 ≠ 0 ∧ (on .idle [] []).eng.groups = [] := by decide +kernel

/-- A program with a DLD of an address of its page at 0, which stands as `p`. -/
def pager (p : Page) : Ctx :=
  { program 0 with pages := [p], ops := [⟨0, .dma, word 0xC0 0, 0, 8, 0, 0, 0, 0, 0, 0, 0, 0⟩] }

theorem witness_PagesComeAndGo_in :
    let p (f : Option Nat) : Page := ⟨0, 65536, 0, true, false, false, false, false, f, 0, false, false, false⟩
    let s (f : Option Nat) : State := { onEngine (pager (p f)) with hbm.regions := [(0, some { openRegion with access := 3 })] }
    let free := s none
    ((missingPage free (pager (p none))).any (fun m => m.2.2.1 = 0 && m.2.1.x.pageOf 0 = some (p none)) = true) ∧
    (missingPage (s (some 0xC000000000)) (pager (p (some 0xC000000000)))).isSome = true ∧
      (findFrame free [] 65536).isSome = true ∧
    (free.engine 0).work = .context 0 ∧ (free.engine 47).work = .idle ∧ missingPage free (program 0) = none := by decide +kernel
/-- Tables 11.1 and 11.2: a backed page of 2 MiB at level 3. -/
theorem test_page_tables :
    let q : Page := { newPage 0x40000000 0x200000 true false with res := true, frame := some 0xC000000000, fla := 5, backed := true }
    let x := { program 0 with pages := [q] }
    x.pte 0x40000000 39 none = .next ∧ x.pageOf 0x401FFFFF = some q ∧ x.pageOf 0x40200000 = none ∧
    Pte.words (.leaf q) 0 3 0x40000000 = 0x10000000005000000C00000040F#128 := by decide
theorem witness_PagesComeAndGo :
    let p (f : Option Nat) (res wr a d : Bool) : Page := ⟨0, 65536, 0, true, false, res, d, a, f, 0, false, wr, false⟩
    let w : Page := { p (some 0xC000000000) false true false false with wanted := true }
    let at' (pg : Page) : State := { onEngine { program 0 with pages := [pg], pageAt := some 0 } with
      hbm.regions := [(0, some openRegion)] }
    let f := some 0xC000000000
    (program 0).pageAt ≠ some w.va ∧ (p f false true false false).wanted = false ∧ w.wanted = true ∧ w.writing = true ∧ w.frame = f ∧
    (findFrame { State.reset with hbm.regions := [(0, some { openRegion with access := 3 })] } [] 65536).isSome = true ∧
    unitStopped State.reset 4 = false ∧ framesWanted (at' (p none false false false false)) = true ∧
    ((program 0).pageOf 0) = none ∧
      (({ program 0 with pages := [p f true false true true] }).pageOf 0) = some (p f true false true true) ∧
    runFree (at' (p f false true false false)) 0 16 = true ∧
      (at' (p f false false false false)).flash.backingBytes + 65536 ≤ 4 * 256000000000 ∧
    backingGone State.reset { p f false false false false with backed := true } = true ∧
    backingGone State.reset (p f false false false false) = false := by
  decide +kernel

/-! ## Memory and the controllers -/

theorem witness_MemoryKeepsItsBytes :
    let s := withBytes [1, 2]
    let a := 0xC000000000
    firstError s 1 a 2 = none ∧ windowAt s a = none ∧ winPart s a 2 = none ∧ Memory.wf s = true ∧
    s.hbm.poisoned = [] ∧ Tab.wf Stack.initial State.reset.hbm.ctls = true ∧ (firstError s 1 (a - 1) 2).isSome = true ∧
    ((placesOf s 1 a 2).map (·.1)).Nodup ∧ a % 8 = 0 ∧ amoOk 1 0 = true ∧ 0xFFFFFFFFFF < 0x10000000000 ∧
    (∃ p g hide, find s 1 a = .data p (some g) hide ∧ tagOk s p (some g) = true ∧ tagOk s p (some (g + 1)) = false) ∧
    (∀ q ∈ placesOf s 1 a 2, tagOk s q.1 q.2.1 = true) :=
  ⟨by decide +kernel, by decide +kernel, by decide +kernel, by decide +kernel, by decide +kernel, by decide +kernel,
    by decide +kernel,
    by decide +kernel, by decide, by decide, by decide, ⟨_, _, _, rfl, by decide +kernel, by decide +kernel⟩, by decide +kernel⟩
theorem witness_MemoryKeepsItsBytes_reach :
    let s := withBytes [1, 2]
    let p := locate openRegion 0
    let t : State := s.modCtl (stackOf p) (fun x => { x with pending := [(23, 1#32 <<< pcOf p)] })
    reaches s ⟨0, 23⟩ 0xC000000000 2 = true ∧ reaches s ⟨1, 0⟩ 0xC000000000 8 = true ∧ reaches t ⟨0, 23⟩ 0xC000000000 2 = false ∧
    (∃ tag hide, find t 0 0xC000000000 = .data p tag hide) ∧ (Tab.get 0#32 (t.ctl (stackOf p)).pending 23).getLsbD (pcOf p) = true ∧
    s.links.pcieUp = false ∧ reaches { s with links.pcieUp := true } ⟨6, 0⟩ 0xFFFFFFFFF0 16 = true ∧
    reaches { s with links.pcieUp := true } ⟨6, 0⟩ 0xFFFFFFFFF0 17 = false :=
  ⟨by decide +kernel, by decide +kernel, by decide +kernel, ⟨_, _, rfl⟩, by decide +kernel, by decide +kernel, by decide +kernel,
    by decide +kernel⟩
theorem witness_MemoryKeepsItsBytes_atomics :
    let s := withBytes (leBytes 8 5)
    let r := s.read 1 0xC000000000 8 .clean
    let w := r.1.write 1 0xC000000000 (leBytes 8 6) .clean
    let rows : State := { State.reset with hbm.pchs := [(255, { Pch.initial with scan := true, banks := BitVec.allOnes 48 })] }
    r.2 = some (leBytes 8 5) ∧ w.2 = true ∧ inScanMode s 0xC000000000 = false ∧ isPlace 0x77FFC00000 = true := by decide +kernel

theorem witness_ControllersGoOn :
    let s (n : Nat) : State := { State.reset with hbm.pchs := [(383, { Pch.initial with wbuf := n, scan := true, postponed := 3 })] }
    (s 31).pch 383 = { Pch.initial with wbuf := 31, scan := true, postponed := 3 } ∧ 32 ≤ ((s 32).pch 383).wbuf ∧
    modeChangeOk State.reset 255 fixedBanks = true ∧ modeChangeOk State.reset 256 fixedBanks = false ∧ fixedBanks ≠ 0 ∧
    (let c : Pch := { Pch.initial with pendingChange := true, nextBanks := fixedBanks }
     let t (x : Pch) : State := { State.reset with hbm.pchs := [(255, x)] }
     modeChangeOk (t c) 255 ((t c).pch 255).nextBanks = true ∧ ((t c).pch 255).zeroing = false ∧ (State.reset.pch 255).pendingChange = false ∧
     modeChangeOk (t { c with zeroing := true }) 255 ((t { c with zeroing := true }).pch 255).nextBanks = true ∧
     modeChangeOk (t { c with zeroing := true, nextBanks := 0 }) 255 0 = true ∧
     ({ t { c with zeroing := true, nextBanks := 0 } with
       reel.weevils := [(255, { Weevil.initial with accepted := [(0, 9, [])] })] }.weevil 255).accepted ≠ []) ∧
    protSector State.reset 0 = none ∧ (protSector State.reset 0x8000000000).isSome = true ∧
    (State.reset.ctl 11).retired = false ∧ (State.reset.ctl 11).answering = true := by decide +kernel

/-! ## The warden -/

def asked (type : Nat) (b : List Byte) : State := { State.reset with warden.request := some ⟨type, 0, b, some 0, none⟩ }

theorem witness_WardenAnswers :
    (asked 1 []).warden.request = some ⟨1, 0, [], some 0, none⟩ ∧ (⟨1, 0, [], some 0, none⟩ : Request).bad = none ∧
    (⟨1, 0, [], some 0, some 3⟩ : Request).bad ≠ none ∧ (asked 1 []).warden.handover = false ∧
      (asked 2 (zeros 32)).warden.erased = false ∧
    (zeros 36).length = 36 ∧ 10 ≤ le (leBytes 36 13) 0 4 ∧ le (leBytes 36 13) 0 4 ≤ 13 ∧
      State.reset.warden.request = none := by decide
theorem witness_OwnerRequestsTakeEffect :
    let owned (b : List Byte) : State := { asked 0x11 b with warden.owner := some [] }
    let time := leBytes 64 0x454D4954
    let unlock := leBytes 4 86400
    let locked : State := { asked 0x30 unlock with warden.lease := 1 }
    68 ≤ (zeros 68).length ∧ (asked 0x10 (zeros 68)).warden.owner = none ∧ (asked 0x10 (zeros 68)).warden.erased = false ∧
    (owned (zeros 68)).warden.owner = some [] ∧ 64 ≤ time.length ∧ le time 0 4 = 0x454D4954 ∧ zeroAt time 36 28 = true ∧
    le time 16 8 = State.reset.life.boot ∧ le time 8 8 = 0 ∧ (asked 0x14 time).warden.tseq = none ∧
    unlocking (asked 0x30 unlock) = false ∧ unlocking locked = true ∧ sessions locked = [] ∧ le unlock 0 4 = 86400 := by decide
theorem witness_OwnerRequestsTakeEffect_forms :
    let b := padTo 1568 [] ++ leBytes 2 1023 ++ leBytes 4 16 ++ zeros 16
    openParts b = some (zeros 1568, 1023, zeros 16) ∧ policyFormed [] = false ∧
    policyFormed (leBytes 1072 0x4C4F504B) = true := by decide +kernel
theorem witness_OwnerRequestsTakeEffect_expiry :
    let x (t : Nat) : Session := ⟨0, [], [], [], [], 0, [], 0, 0, 0, 0, t, 0, 0, none⟩
    let s (t : Nat) : State := { State.reset with warden.keys := [(4094, some (x t))], warden.calendar := some ⟨5, 0, 0⟩ }
    (s 4).session 4094 = some (x 4) ∧ wallNow (s 4) = some (5, 0) ∧ (x 4).notAfter ≠ 2 ^ 64 - 1 ∧ (x 4).notAfter < 5 + 0 ∧
    5 + 0 ≤ (x 5).notAfter ∧ (x 4).ending = none := by decide +kernel
theorem witness_TamperResponses : (2 : Fin 6).val < 3 ∧ (3 : Fin 6).val = 3 ∧ (4 : Fin 6).val = 4 ∧
  (5 : Fin 6).val = 5 := by decide

/-! ## Power, sensors, starts -/

theorem witness_PowerLadder_commands :
    let c (st : Nat) : Cmd := command 0x50 (st * 2 ^ 128) .fetched .none
    let s (st now : Nat) (b : Bool) : State :=
      { holding State.reset (c st) with mod.startPosted := true, pwr.state := now, pwr.entering := b, pwr.protect := b }
    Fetched (s 5 0 false) 0 opPower (c 5) ∧ 4 < byteAt (c 5).bytes 16 ∧ Fetched (s 4 1 true) 0 opPower (c 4) ∧
    byteAt (c 4).bytes 16 = 4 ∧ (s 4 1 true).pwr.entering = true ∧ (s 1 2 false).pwr.protect = false ∧
    byteAt (c 1).bytes 16 < (s 1 2 false).pwr.state := by decide
theorem witness_PowerLadder_states :
    let s (n t : Nat) (e b : Bool) : State := { State.reset with pwr.entering := e, pwr.target := t, pwr.state := n, pwr.byProtect := b }
    let c := command 0x50 (2 * 2 ^ 128) .entering (.power 2)
    let o : State := { s 0 2 true false with pwr.owner := some 5, qau.cmds := [c] }
    (s 0 4 true false).pwr.entering = true ∧ (s 0 4 true false).maint.claims = [] ∧
      (s 0 4 true false).qau.cmds.any Cmd.active = false ∧
    (s 0 4 true false).pwr.owner = none ∧ o.qau.cmds.any Cmd.active = false ∧ o.pwr.owner = some 5 ∧ o.cmd 5 = some c ∧
    (s 3 0 false true).pwr.state ≤ 3 ∧ (s 3 0 false true).pwr.protect = false ∧ (s 3 0 false true).qau.cmds = [] := by decide
theorem witness_SensorsAct :
    let ts := List.replicate 18 (some 20)
    ts.length = 18 ∧ ts[17]? = some (some 20) ∧ groupFailed State.reset 17 = false ∧ State.reset.qau.even = false ∧
    (∀ k, k < 18 → groupLevel (readAll State.reset 0 (List.replicate 18 (some 20))) k ≠ 3) ∧
    Tab.wf Group.initial State.reset.therm.groups = true ∧ State.reset.hold.connected = 0 ∧
    ({ State.reset with pwr.pace := 1 }).pwr.pace ≠ 0 := by decide +kernel
theorem witness_StartsAndResets :
    let s : State := { State.reset with mod.pwrgd := true, mod.accepting := true }
    let r : State := { s with mod.reload := [1], corpus.colls := [(1, some coll)] }
    (¬ (s.warden.romOnly = true ∧ s.mod.lastKind ≠ 2)) ∧ ({ s with warden.romOnly := true }).mod.lastKind ≠ 2 ∧
    ({ s with hbm.serviceStopped := true, mod.accepting := false }).hbm.serviceStopped = true ∧ s.mod.stoppedUnits.contains 6 = false ∧
    (reloadBlocks r 1).coll 1 = some coll ∧ State.reset.mod.pwrgd = false ∧ resetAllowed s .management s.links.fullLock = true ∧
      resetAllowed s .watchdog s.links.warmLock = true ∧
    resetAllowed { s with links.fullLock := true } .management true = false ∧ s.pwr.state ≠ 4 ∧ unitStopped s 6 = false ∧
    3 ≤ (([0, 0, 0] : List Nat).filter (fun t => decide (3599 - t < 3600))).length ∧
    (([0, 0, 0] : List Nat).filter (fun t => decide (3600 - t < 3600))).length < 3 ∧ r.mod.reload = [1] ∧ r.coll 1 = some coll ∧
    coll.destroyed = none ∧ coll.flashOnly = false ∧ coll.keyed = true ∧
    ({ s with pwr.state := 4 } : State).pwr.protect = false := by decide

/-! ## Layouts and places written out from the spec's tables -/

/-- 05 Tables 5.1 and 5.2: SLOT and KIND share byte 12; SIDE is bit 20 of bytes 13-15. -/
theorem test_chain_entry_bytes :
    Entry.bytes 0 (.cand 31 ⟨0x0102, -2, 0xABCDE, true, 0⟩) = [2, 1, 0, 0, 0, 0, 0, 0, 0xFE, 0xFF, 0xFF, 0xFF, 31, 0xDE, 0xBC, 0x1A] ∧
    Entry.bytes 0 (.leave 5 { Tally.zero with elig := 1, visclr := 2, owed := 3, max := -1 }) =
      [1, 0, 0, 0, 2, 0, 0, 0, 0xFF, 0xFF, 0xFF, 0xFF, 0x45, 3, 0, 0] ∧
    Entry.bytes 0 (.stats 0 0 { Tally.zero with sum := -1 }) =
      [0xFF, 0xFF, 0xFF, 0xFF, 0xFF, 0xFF, 0xFF, 0xFF, 0, 0, 0, 0, 0x20, 0, 0, 0] := by decide +kernel
/-- 02 Table 2.4: version 1, format 2 and tag 7 in bytes 28-31, and the code at 32. -/
theorem test_side_entry_bytes :
    let e : SideEnt := ⟨1, 5, 0, BitVec.allOnes 64, 3, 0xFFFF, 1, 2, 7, ⟨[9], 0, 0, []⟩, 0, 0, 0⟩
    e.image.length = 128 ∧ (e.image.drop 24).take 9 = [3, 0, 0xFF, 0xFF, 1, 0, 0x20, 7, 9] := by decide +kernel
/-- 06 Table 6.7: MAGIC, TYPE, DURABLE, JSN, REF and CID of an entry header. -/
theorem test_journal_header_bytes :
    (entryHeader 6 true 9 1 0 0 2 []).take 20 = [0x4A, 0x52, 0x4E, 0x4C, 2, 1, 0, 0, 6, 0, 0, 0, 0, 0, 0, 0, 9, 0, 1, 0] := by decide +kernel
/-- 06 R182: with a channel out, a run of three units that begins at column 28 of a new row goes on in the columns behind column 29. -/
theorem test_run_passes_column_29 :
    unitsOfRun { State.reset with flash.channels := [(4, { Channel.initial with state := 1 })] } 28 3 = [28, 30, 31] ∧
    unitsOfRun State.reset 28 3 = [28, 29, 30] := by decide +kernel
/-- 10 R343: a sector written under tag 1 is no data of a region whose tag is 2. -/
theorem test_foreign_tag_is_denied :
    let s := withBytes [1, 2]
    let t : State := { s with hbm.regions := [(0, some { openRegion with tag := 2 })] }
    (s.read 1 0xC000000000 2 .clean).2 = some [1, 2] ∧ (t.read 1 0xC000000000 2 .clean).2 = none := by decide +kernel

end Sys2Proof.Tests
end

section
/-! PROOFS. The registers (00 R10-R18): what an access at the address of a register answers, block by block, and what the writes
of the settings registers (00 R14, R17) leave and change. -/

namespace Sys2Proof.Machine

/-! ## Register addresses (00 R11, Table 0.3) -/

theorem toNat_csrDpa {blk off : Nat} (hb : blk < 256) (ho : off < 0x100000) :
    (BitVec.ofNat 49 (csrDpa blk off)).toNat = csrDpa blk off := by
  rw [BitVec.toNat_ofNat, Nat.mod_eq_of_lt]
  unfold csrDpa
  omega

theorem regBlock_csrDpa {blk off : Nat} (ho : off < 0x100000) : regBlock (csrDpa blk off) = blk := by
  unfold regBlock csrDpa
  omega

theorem regOffset_csrDpa {blk off : Nat} (ho : off < 0x100000) : regOffset (csrDpa blk off) = off := by
  unfold regOffset csrDpa
  omega

theorem regAccess_csrDpa {blk off : Nat} (hb : blk < 256) (ho : off < 0x100000) (ha : off % 8 = 0) :
    regAccess (csrDpa blk off) 8 = true := by
  simp only [regAccess, decide_true, Bool.true_and, Bool.and_eq_true, decide_eq_true_eq]
  unfold csrDpa
  omega

theorem regAccess_narrow {a size : Nat} (h : size ≠ 8 ∨ a % 8 ≠ 0) : regAccess a size = false := by
  rcases h with h | h <;> simp [regAccess, h]

/-- Outside Vigil every block has power (16 R572). -/
theorem blockOff_of_awake {s : State} (h : awake s) (blk : Nat) : blockOff s blk = false := by
  simp [blockOff, h]

/-! ## The two rows of an access (00 R14, R16) -/

theorem exec_csrWrite_narrow (c : CoreId) (a : Dpa) (size : Nat) (v : W64) (s : State) (h : size ≠ 8 ∨ a.toNat % 8 ≠ 0) :
    exec (.csrWrite (.core c) a size v) s = .next s := by
  simp only [exec, execCsrWrite, regAccess_narrow h, Bool.false_eq_true, if_false]

theorem exec_registerReadClear_narrow (c : CoreId) (a : Dpa) (size : Nat) (s : State) (h : size ≠ 8 ∨ a.toNat % 8 ≠ 0) :
    exec (.registerReadClear (.core c) a size) s = .next { s with rsp := .value 0 } := by
  simp only [exec, execRegisterReadClear, regAccess_narrow h, Bool.false_eq_true, if_false]

theorem exec_csrWrite_csrDpa (c : CoreId) {blk off : Nat} (v : W64) (s : State)
    (hb : blk < 256) (ho : off < 0x100000) (ha : off % 8 = 0) :
    exec (.csrWrite (.core c) (BitVec.ofNat 49 (csrDpa blk off)) 8 v) s = .next (writeReg s c blk off v) := by
  simp only [exec, execCsrWrite, toNat_csrDpa hb ho, regAccess_csrDpa hb ho ha, regBlock_csrDpa ho, regOffset_csrDpa ho, if_true]

theorem exec_csrWrite_of_writeReg {c : CoreId} {blk off : Nat} {v : W64} {s : State} {r : Host.Outcome State Fault Refusal}
    (h : .next (writeReg s c blk off v) = r) (hb : blk < 256) (ho : off < 0x100000) (ha : off % 8 = 0) :
    exec (.csrWrite (.core c) (BitVec.ofNat 49 (csrDpa blk off)) 8 v) s = r :=
  (exec_csrWrite_csrDpa c v s hb ho ha).trans h

theorem exec_registerReadClear_of_clearRc (c : CoreId) {blk off : Nat} {s t : State} (h : clearRc s blk off = t)
    (hb : blk < 256) (ho : off < 0x100000) (ha : off % 8 = 0) :
    exec (.registerReadClear (.core c) (BitVec.ofNat 49 (csrDpa blk off)) 8) s =
      .next { t with rsp := .value (BitVec.ofNat 64 (regValue s c.val blk off)), freeCtr := s.freeCtr + 1 } := by
  subst h
  simp only [exec, execRegisterReadClear, toNat_csrDpa hb ho, regAccess_csrDpa hb ho ha, regBlock_csrDpa ho, regOffset_csrDpa ho,
    if_true]

/-- Settles O6: neither row takes an access that `regAccess` refuses (R11). -/
theorem narrowAccessLeavesRegisters : Obligations.NarrowAccessLeavesRegisters :=
  fun c a size v s h => ⟨exec_csrWrite_narrow c a size v s h, exec_registerReadClear_narrow c a size s h⟩

/-! ## Blocks that are not assigned (00 R12) -/

/-- No unit of Table 0.3 has registers in the block. -/
structure Unassigned (blk : Nat) : Prop where
  single : blk ∉ [0x00, 0x01, 0x02, 0x03, 0x04, 0x05, 0x60, 0x62, 0xA0, 0xA1, 0xA2, 0xB0, 0xB1, 0xB2, 0xB8, 0xC0, 0xD0, 0xD1, 0xE0]
  hbmc : ¬ (0x10 ≤ blk ∧ blk < 0x1C)
  wvg : ¬ (0x20 ≤ blk ∧ blk < 0x28)
  eng : ¬ (0x30 ≤ blk ∧ blk < 0x60)
  flash : ¬ (0x70 ≤ blk ∧ blk < 0x92)

theorem writeReg_unassigned {blk : Nat} (h : Unassigned blk) (s : State) (c : CoreId) (off : Nat) (v : W64) :
    writeReg s c blk off v = s := by
  obtain ⟨single, hbmc, wvg, eng, flash⟩ := h
  simp only [List.mem_cons, not_or] at single
  rw [writeReg]
  by_cases hoff : blockOff s blk
  · rw [if_pos hoff]
  · rw [if_neg hoff]
    repeat rw [if_neg (by omega)]

theorem clearRc_unassigned {blk : Nat} (h : Unassigned blk) (s : State) (off : Nat) : clearRc s blk off = s := by
  obtain ⟨single, hbmc, wvg, eng, flash⟩ := h
  simp only [List.mem_cons, not_or] at single
  rw [clearRc]
  by_cases hoff : blockOff s blk
  · rw [if_pos hoff]
  · rw [if_neg hoff]
    repeat rw [if_neg (by omega)]

theorem regValue_unassigned {blk : Nat} (h : Unassigned blk) (s : State) (c off : Nat) : regValue s c blk off = 0 := by
  obtain ⟨single, hbmc, wvg, eng, flash⟩ := h
  simp only [List.mem_cons, not_or] at single
  rw [regValue]
  by_cases hoff : blockOff s blk
  · rw [if_pos hoff]
  · rw [if_neg hoff]
    repeat rw [if_neg (by omega)]

/-- Settles O7: no branch of a write, of a value or of a clearing read is for such a block. -/
theorem unassignedBlocksReadZero : Obligations.UnassignedBlocksReadZero := by
  intro c blk off v s hb ho ha single hbmc wvg eng flash
  have h : Unassigned blk := ⟨single, hbmc, wvg, eng, flash⟩
  constructor
  · rw [exec_csrWrite_csrDpa c v s hb ho ha, writeReg_unassigned h]
  · rw [exec_registerReadClear_of_clearRc c (clearRc_unassigned h s off) hb ho ha, regValue_unassigned h]
    rfl

/-! ## Reads that clear (00 R14, R16) -/

theorem clearRc_qauStat {s : State} (h : awake s) : clearRc s 0x01 8 = { s with qau.evdrop := 0 } := by
  rw [clearRc, blockOff_of_awake h]
  rfl

theorem clearRc_selStat {s : State} (h : awake s) :
    clearRc s 0x03 0 = { s with sel.dups := 0, sel.dupinc := 0, sel.thrSent := 0 } := by
  rw [clearRc, blockOff_of_awake h]
  rfl

theorem clearRc_schedStat {s : State} (h : awake s) :
    clearRc s 0x62 8 = { s with eng.preempts := 0, eng.slotWait := 0 } := by
  rw [clearRc, blockOff_of_awake h]
  rfl

theorem clearRc_mmuStat {s : State} (h : awake s) :
    clearRc s 0x60 8 = { s with eng.pageins := 0, eng.evicts := 0 } := by
  rw [clearRc, blockOff_of_awake h]
  rfl

theorem clearRc_pcieStat {s : State} (h : awake s) : clearRc s 0xA1 8 = { s with links.flrs := 0 } := by
  rw [clearRc, blockOff_of_awake h]
  rfl

theorem clearRc_maintStat {s : State} (h : awake s) :
    clearRc s 0xD0 0 = { s with maint.drops := 0, maint.refused := 0 } := by
  rw [clearRc, blockOff_of_awake h]
  rfl

theorem clearRc_pwrInput {s : State} (h : awake s) : clearRc s 0xB0 0x18 = s := by
  rw [clearRc, blockOff_of_awake h]
  rfl

theorem clearRc_hbmcErr {s : State} (h : awake s) (n : StackId) :
    clearRc s (0x10 + n.val) 8 = s.modCtl n.val (fun k =>
      { k with ce := 0, ue := 0, mis := 0, dieCe := 0, dieUe := 0, poison := 0, accErr := 0 }) := by
  rw [clearRc, blockOff_of_awake h, if_neg Bool.false_ne_true]
  repeat rw [if_neg (by omega)]
  rw [if_pos (by omega), Nat.add_sub_cancel_left]

theorem clearRc_borErr {s : State} (h : awake s) (b : ChannelId) :
    clearRc s (0x72 + b.val) 8 = s.modChannel b.val (fun k => { k with corrHi := 0, retry := 0, recon := 0, excl := 0 }) := by
  rw [clearRc, blockOff_of_awake h, if_neg Bool.false_ne_true]
  repeat rw [if_neg (by omega)]
  rw [if_pos (by omega), Nat.add_sub_cancel_left]

theorem clearRc_thermGrp {s : State} (h : awake s) (g : Fin 18) :
    clearRc s 0xB1 (0x100 + 8 * g.val) = s.modGroup g.val (fun k => { k with peak := 0 }) := by
  rw [clearRc, blockOff_of_awake h, if_neg Bool.false_ne_true]
  repeat rw [if_neg (by omega)]
  rw [if_pos (by omega), show (0x100 + 8 * g.val - 0x100) / 8 = g.val by omega]

/-- Settles O8: the answer and the counter of free values are written beside what `clearRc` clears for each register. -/
theorem readsClearTheirCounters : Obligations.ReadsClearTheirCounters := by
  intro c s h
  refine ⟨?_, ?_, fun n => ?_, ?_, ?_, fun b => ?_, ?_, fun g => ?_, ?_, ?_⟩
  · exact exec_registerReadClear_of_clearRc c (clearRc_qauStat h) (by decide) (by decide) (by decide)
  · exact exec_registerReadClear_of_clearRc c (clearRc_selStat h) (by decide) (by decide) (by decide)
  · exact exec_registerReadClear_of_clearRc c (clearRc_hbmcErr h n) (by omega) (by decide) (by decide)
  · exact exec_registerReadClear_of_clearRc c (clearRc_schedStat h) (by decide) (by decide) (by decide)
  · exact exec_registerReadClear_of_clearRc c (clearRc_mmuStat h) (by decide) (by decide) (by decide)
  · exact exec_registerReadClear_of_clearRc c (clearRc_borErr h b) (by omega) (by decide) (by decide)
  · exact exec_registerReadClear_of_clearRc c (clearRc_pcieStat h) (by decide) (by decide) (by decide)
  · exact exec_registerReadClear_of_clearRc c (clearRc_thermGrp h g) (by decide) (by omega) (by omega)
  · exact exec_registerReadClear_of_clearRc c (clearRc_maintStat h) (by decide) (by decide) (by decide)
  · exact exec_registerReadClear_of_clearRc c (clearRc_pwrInput h) (by decide) (by decide) (by decide)

/-! ## Writes of registers that have rows of their own (00 R14, Table 0.4) -/

/-- The power block answers in every power state (15 Table 15.2). -/
theorem writeReg_pwrCfg (s : State) (c : CoreId) (v : W64) :
    .next (writeReg s c 0xB0 8 v) = exec (.pwrCfgWrite v) s := by
  rw [writeReg, show blockOff s 0xB0 = false by simp [blockOff]]
  rfl

/-- The meter answers in every power state (15 Table 15.2). -/
theorem writeReg_meterSign (s : State) (c : CoreId) (v : W64) :
    .next (writeReg s c 0xB8 0x40 v) = exec (.meterSign v) s := by
  rw [writeReg, show blockOff s 0xB8 = false by simp [blockOff]]
  rfl

theorem writeReg_allocSidefill (s : State) (c : CoreId) (v : W64) :
    .next (writeReg s c 0x04 0x40 v) = exec (.allocSidefillWrite v) s := rfl

theorem writeReg_reelCtl (s : State) (c : CoreId) (v : W64) :
    .next (writeReg s c 0x02 0 v) = exec (.reelCtlWrite v) s := rfl

theorem writeReg_fcdCfg (s : State) (c : CoreId) (v : W64) :
    .next (writeReg s c 0x70 8 v) = exec (.fcdCfgWrite v) s := rfl

theorem writeReg_schedCfg (s : State) (c : CoreId) (v : W64) :
    .next (writeReg s c 0x62 0 v) = exec (.schedCfgWrite v) s := rfl

theorem writeReg_mmuCfg (s : State) (c : CoreId) (v : W64) :
    .next (writeReg s c 0x60 0 v) = exec (.mmuCfgWrite v) s := rfl

theorem writeReg_pcieCfg (s : State) (c : CoreId) (v : W64) :
    .next (writeReg s c 0xA1 0 v) = exec (.pcieCfgWrite v) s := rfl

theorem writeReg_qau {s : State} (h : awake s) (c : CoreId) (off : Nat) (v : W64) :
    writeReg s c 0x01 off v = writeQau s off v := by
  rw [writeReg, blockOff_of_awake h, if_neg Bool.false_ne_true]
  repeat rw [if_neg (by omega)]
  rw [if_pos rfl]

/-- The registers of queue `q` stand 0x40 apart (12). -/
theorem writeQau_queue (s : State) (q : QueueId) {r : Nat} (hr : r < 0x40) (v : W64) :
    writeQau s (0x10000 + 0x40 * q.val + r) v = writeQueue s q r v := by
  have hq : (0x10000 + 0x40 * q.val + r - 0x10000) / 0x40 = q.val := by omega
  have ho : (0x10000 + 0x40 * q.val + r) % 0x40 = r := by omega
  rw [writeQau, if_neg (by omega), if_neg (by omega), if_pos (by omega), hq, ho, Fin.ofNat_val_eq_self]

theorem writeReg_qauAbort {s : State} (h : awake s) (c : CoreId) (v : W64) :
    .next (writeReg s c 0x01 0x10 v) = exec (.qauAbort v) s := by
  rw [writeReg_qau h]
  rfl

theorem writeReg_qauSqtail {s : State} (h : awake s) (c : CoreId) (q : QueueId) (v : W64) :
    .next (writeReg s c 0x01 (0x10000 + 0x40 * q.val + 0x18) v) = exec (.qauSqtail q v) s := by
  rw [writeReg_qau h, writeQau_queue s q (by decide)]
  rfl

theorem writeReg_qauCqhead {s : State} (h : awake s) (c : CoreId) (q : QueueId) (v : W64) :
    .next (writeReg s c 0x01 (0x10000 + 0x40 * q.val + 0x20) v) = exec (.qauCqhead q v) s := by
  rw [writeReg_qau h, writeQau_queue s q (by decide)]
  rfl

theorem writeReg_netPort {s : State} (h : awake s) (c : CoreId) (p : Fin 2) (v : W64) :
    .next (writeReg s c 0xA0 (0x100 + 8 * p.val) v) = exec (.netPortWrite p v) s := by
  have hp : (0x100 + 8 * p.val - 0x100) / 8 = p.val := by omega
  rw [writeReg, blockOff_of_awake h, if_neg Bool.false_ne_true]
  repeat rw [if_neg (by omega)]
  rw [if_pos (by omega), hp, Fin.ofNat_val_eq_self]
  rfl

theorem writeReg_hbmcSfence {s : State} (h : awake s) (c : CoreId) (n : StackId) (v : W64) :
    .next (writeReg s c (0x10 + n.val) 0x100 v) = exec (.hbmcSfence c n v) s := by
  rw [writeReg, blockOff_of_awake h, if_neg Bool.false_ne_true]
  repeat rw [if_neg (by omega)]
  rw [if_pos (by omega), Nat.add_sub_cancel_left, Fin.ofNat_val_eq_self]
  rfl

theorem exec_engCtlLapok {s : State} (h : awake s) (e : EngineId) (v : W64) :
    exec (.engCtlLapok e v) s = .next (putEngCtl e.val (softOpen s (csrDpa (0x30 + e.val) 8)) v.toNat s) := by
  rw [exec, execEngCtlLapok, blockOff_of_awake h, if_neg Bool.false_ne_true]

theorem exec_engCtlDrain {s : State} (h : awake s) (e : EngineId) (v : W64) :
    exec (.engCtlDrain e v) s = .next (putEngCtl e.val (softOpen s (csrDpa (0x30 + e.val) 8)) v.toNat s) := by
  rw [exec, execEngCtlDrain, blockOff_of_awake h, if_neg Bool.false_ne_true]

theorem writeReg_engCtl {s : State} (h : awake s) (c : CoreId) (e : EngineId) (v : W64) :
    .next (writeReg s c (0x30 + e.val) 8 v) = exec (.engCtlLapok e v) s := by
  rw [exec_engCtlLapok h, writeReg, blockOff_of_awake h, if_neg Bool.false_ne_true]
  repeat rw [if_neg (by omega)]
  rw [if_pos (by omega), Nat.add_sub_cancel_left]

/-- Settles O9: at each address `writeReg` comes to the branch that is the row's own meaning. -/
theorem csrWriteActsAsTheRow : Obligations.CsrWriteActsAsTheRow := by
  intro c v s
  refine ⟨?_, ?_, fun h => ⟨?_, ?_, ?_, ?_, ?_, ?_, ?_, fun p => ?_, fun e => ?_, fun n => ?_, fun q => ?_, fun q => ?_⟩⟩
  · exact exec_csrWrite_of_writeReg (writeReg_pwrCfg s c v) (by decide) (by decide) (by decide)
  · exact exec_csrWrite_of_writeReg (writeReg_meterSign s c v) (by decide) (by decide) (by decide)
  · exact exec_csrWrite_of_writeReg (writeReg_allocSidefill s c v) (by decide) (by decide) (by decide)
  · exact exec_csrWrite_of_writeReg (writeReg_reelCtl s c v) (by decide) (by decide) (by decide)
  · exact exec_csrWrite_of_writeReg (writeReg_fcdCfg s c v) (by decide) (by decide) (by decide)
  · exact exec_csrWrite_of_writeReg (writeReg_schedCfg s c v) (by decide) (by decide) (by decide)
  · exact exec_csrWrite_of_writeReg (writeReg_mmuCfg s c v) (by decide) (by decide) (by decide)
  · exact exec_csrWrite_of_writeReg (writeReg_pcieCfg s c v) (by decide) (by decide) (by decide)
  · exact exec_csrWrite_of_writeReg (writeReg_qauAbort h c v) (by decide) (by decide) (by decide)
  · exact exec_csrWrite_of_writeReg (writeReg_netPort h c p v) (by decide) (by omega) (by omega)
  · exact exec_csrWrite_of_writeReg (writeReg_engCtl h c e v) (by omega) (by decide) (by decide)
  · exact exec_csrWrite_of_writeReg (writeReg_hbmcSfence h c n v) (by omega) (by decide) (by decide)
  · exact exec_csrWrite_of_writeReg (writeReg_qauSqtail h c q v) (by decide) (by omega) (by omega)
  · exact exec_csrWrite_of_writeReg (writeReg_qauCqhead h c q v) (by decide) (by omega) (by omega)

/-! ## The settings registers under owner locks (00 R17) -/

section Settings

variable {s : State} (h : awake s) (v : W64)
include h

theorem exec_allocSidefillWrite :
    exec (.allocSidefillWrite v) s = .next (putSidefill (softOpen s (csrDpa 0x04 0x40)) v.toNat s) := by
  rw [exec, execAllocSidefillWrite, blockOff_of_awake h, if_neg Bool.false_ne_true]

theorem exec_reelCtlWrite : exec (.reelCtlWrite v) s = .next (putReelCtl (softOpen s (csrDpa 0x02 0)) v.toNat s) := by
  rw [exec, execReelCtlWrite, blockOff_of_awake h, if_neg Bool.false_ne_true]

theorem exec_fcdCfgWrite : exec (.fcdCfgWrite v) s = .next (putFcdCfg (softOpen s (csrDpa 0x70 8)) v.toNat s) := by
  rw [exec, execFcdCfgWrite, blockOff_of_awake h, if_neg Bool.false_ne_true]

theorem exec_schedCfgWrite : exec (.schedCfgWrite v) s = .next (putSchedCfg (softOpen s (csrDpa 0x62 0)) v.toNat s) := by
  rw [exec, execSchedCfgWrite, blockOff_of_awake h, if_neg Bool.false_ne_true]

theorem exec_mmuCfgWrite : exec (.mmuCfgWrite v) s = .next (putMmuCfg (softOpen s (csrDpa 0x60 0)) v.toNat s) := by
  rw [exec, execMmuCfgWrite, blockOff_of_awake h, if_neg Bool.false_ne_true]

theorem exec_pcieCfgWrite : exec (.pcieCfgWrite v) s = .next (putPcieCfg (softOpen s (csrDpa 0xA1 0)) v.toNat s) := by
  rw [exec, execPcieCfgWrite, blockOff_of_awake h, if_neg Bool.false_ne_true]

end Settings

/-- The power block answers in every power state (15 Table 15.2). -/
theorem exec_pwrCfgWrite (v : W64) (s : State) :
    exec (.pwrCfgWrite v) s = .next (putPwrCfg (softOpen s (csrDpa 0xB0 8)) v.toNat s) := rfl

/-- A row with one range check answers the one state where the check holds and the other where it does not. -/
theorem exec_of_range {i : Instr} {s taken kept : State} {P : Prop} [Decidable P]
    (h : exec i s = .next (if P then taken else kept)) :
    (P → exec i s = .next taken) ∧ (¬ P → exec i s = .next kept) :=
  ⟨fun hp => by rw [h, if_pos hp], fun hp => by rw [h, if_neg hp]⟩

/-- Settles O12: each row is one range check on the fields that the write makes. -/
theorem settingsWritesComplete : Obligations.SettingsWritesComplete := by
  intro v s h
  exact ⟨exec_of_range (exec_allocSidefillWrite h v), exec_of_range (exec_reelCtlWrite h v),
    exec_of_range (exec_fcdCfgWrite h v), exec_of_range (exec_schedCfgWrite h v), exec_of_range (exec_mmuCfgWrite h v),
    exec_of_range (exec_pwrCfgWrite v s), exec_of_range (exec_pcieCfgWrite h v)⟩

/-! ## LAPOK under an owner lock, and engine tables that are not canonical (00 R17) -/

/-- A write leaves a field that is not open at its old value (R17). -/
theorem takeBit_closed {o : Open} {lo : Nat} (h : o lo 1 = false) (v : Nat) (old : Bool) : takeBit o v lo old = old := by
  rw [takeBit, h, if_neg Bool.false_ne_true]

/-- An engine table in which engine 0 stands twice: the entry that is read drains, and the one behind it has LAPOK cleared. -/
def engineListedTwice : Tab Engine :=
  [(0, { Engine.initial with drain := true }), (0, { Engine.initial with lapok := false })]

/-- The state after reset with that table, and with LAPOK of engine 0 locked. -/
def lapokLocked : State := { State.reset with
  eng.engines := engineListedTwice
  warden.locks := [⟨csrDpa 0x30 8, 2#64, 2#64⟩] }

/-- Clearing DRAIN gives the entry that is read the value of an engine that is not listed, so it leaves the table, and the entry
behind it is read from then on. -/
theorem exec_engCtlDrain_lapokLocked :
    exec (.engCtlDrain 0 0) lapokLocked =
      .next { lapokLocked with eng.engines := [(0, { Engine.initial with lapok := false })] } := by
  have closed : softOpen lapokLocked (csrDpa (0x30 + (0 : EngineId).val) 8) 1 1 = false := by decide
  rw [exec_engCtlDrain (by decide), putEngCtl, takeBit_closed closed]
  simp [State.modEngine, State.engine, lapokLocked, engineListedTwice, Tab.mod, Tab.get, Tab.set, Engine.initial, bit]

/-- Refutes O14: the statement is about every state, and in one whose engine table lists an engine twice a write that clears DRAIN
turns its locked LAPOK from 1 to 0. `engCtlDrain_keeps_locked_lapok` has the clause for canonical tables. -/
theorem not_lockedFieldsKeepTheirValue : ¬ Obligations.LockedFieldsKeepTheirValue := by
  intro h
  obtain ⟨-, -, -, -, -, -, -, lapokKept⟩ := h 0 lapokLocked
    { lapokLocked with eng.engines := [(0, { Engine.initial with lapok := false })] }
  exact absurd (lapokKept 0 exec_engCtlDrain_lapokLocked (by decide)) (by decide)

/-- Where the engine table is canonical, a locked LAPOK keeps its value: the table reads back what was written. -/
theorem engCtlDrain_keeps_locked_lapok {s t : State} {e : EngineId} {v : W64}
    (wf : Tab.wf Engine.initial s.eng.engines = true) (ht : exec (.engCtlDrain e v) s = .next t)
    (closed : softOpen s (csrDpa (0x30 + e.val) 8) 1 1 = false) : (t.engine e.val).lapok = (s.engine e.val).lapok := by
  rw [exec, execEngCtlDrain, putEngCtl, takeBit_closed closed, Host.Outcome.next.injEq] at ht
  subst ht
  split
  · rfl
  · split
    · rfl
    · simp only [State.engine, State.modEngine, Tab.mod, Tab.get_set_same _ _ _ _ _ wf]

end Sys2Proof.Machine
end

section
/-! PROOFS. The commit of batches (02 R23, R24, R31-R36), and the journal that makes it durable (06 R209-R211): what one commit
action of a batch in staging does, what a journal program does where nothing waits for it, and when the end of a CSN range and a
checkpoint are journalled. -/

namespace Sys2Proof.Machine

/-! ## One commit action of a batch in staging (02 R23, R33, R34, R36) -/

section CommitAction

variable {s : State} {c : Cmd} {j : BatchJob}

theorem exec_batchCommit_of_staging {q : QueueId} {t : TagId} (hc : s.cmdAt q.val t.val = some c)
    (hp : c.phase = .staging) (hj : c.job = .batch j) (failed : Bool) :
    exec (.batchCommit q t failed) s = .next (commitBatch s c j failed) := by
  simp only [exec, execBatchCommit, hc, hp, hj]

theorem commitBatch_failed : commitBatch s c j true = fail (unstage s j) c stFault := rfl

theorem commitBatch_destroyed (dead : liveColl s j.cid.toNat = none) :
    commitBatch s c j false = fail (unstage s j) c stNoCollection := by
  simp [commitBatch, stillLive, dead]

/-- The collection is live and a CSN can issue: what every action of a batch that has not failed begins with. -/
def CanCommit (s : State) (j : BatchJob) : Prop :=
  (liveColl s j.cid.toNat).isSome = true ∧ canIssue s = true

/-- Nothing that a batch waits for is missing: room in the journal, before its staging no staged batch of one of its VIDs (R34),
and after it what its kind of ack asks for and the issue of every batch staged earlier (R23, R33). -/
def CommitReady (s : State) (j : BatchJob) : Prop :=
  journalRoom s (batchRoom j.count) = true ∧ (j.kind = none → clash s j = false) ∧
    ∀ k, j.kind = some k → journalled s j k = true ∧ stagedBefore s j.jsn = false

theorem commitBatch_noCsn (live : (liveColl s j.cid.toNat).isSome = true) (full : canIssue s = false) :
    commitBatch s c j false = s := by
  simp [commitBatch, stillLive, live, full]

theorem commitBatch_unstaged_waits (can : CanCommit s j) (first : j.kind = none)
    (waits : journalRoom s (batchRoom j.count) = false ∨ clash s j = true) : commitBatch s c j false = s := by
  obtain ⟨live, csn⟩ := can
  rcases waits with h | h <;> simp [commitBatch, stillLive, live, csn, first, h]

theorem commitBatch_staged_waits {k : Bool} (can : CanCommit s j) (staged : j.kind = some k)
    (waits : journalled s j k = false ∨ stagedBefore s j.jsn = true ∨ journalRoom s (batchRoom j.count) = false) :
    commitBatch s c j false = s := by
  obtain ⟨live, csn⟩ := can
  rcases waits with h | h | h <;> simp [commitBatch, stillLive, live, csn, staged, h]

theorem commitBatch_refused {st r1 : Nat} (can : CanCommit s j) (ready : CommitReady s j)
    (refused : refusal s c.opcode j = some (st, r1)) :
    commitBatch s c j false = finish (unstage s j) c st 0 r1 (delayedFlag c) 0 [] := by
  obtain ⟨live, csn⟩ := can
  obtain ⟨room, noClash, noWait⟩ := ready
  cases kind : j.kind with
  | none => simp [commitBatch, stillLive, live, csn, kind, room, noClash kind, refused]
  | some k =>
    obtain ⟨programmed, front⟩ := noWait k kind
    simp [commitBatch, stillLive, live, csn, kind, room, programmed, front, refused]

theorem commitBatch_stages (can : CanCommit s j) (ready : CommitReady s j) (first : j.kind = none)
    (accepted : refusal s c.opcode j = none) : commitBatch s c j false = stageBatch s c j := by
  obtain ⟨live, csn⟩ := can
  obtain ⟨room, noClash, -⟩ := ready
  simp [commitBatch, stillLive, live, csn, first, room, noClash first, accepted]

/-- The copies that a delete or an upsert takes away: of each VID the one that the writer finds (R34). -/
def replacedCopies (s : State) (c : Cmd) (j : BatchJob) : List CopyRef :=
  if c.opcode = opInsert then [] else j.vids.filterMap (fun v => (found s j.wclear v).map (·.at'))

theorem commitBatch_issues {k : Bool} (can : CanCommit s j) (ready : CommitReady s j) (staged : j.kind = some k)
    (accepted : refusal s c.opcode j = none) :
    commitBatch s c j false = issueBatch s c j (replacedCopies s c j) k := by
  obtain ⟨live, csn⟩ := can
  obtain ⟨room, -, noWait⟩ := ready
  obtain ⟨programmed, front⟩ := noWait k staged
  simp [commitBatch, stillLive, live, csn, staged, room, programmed, front, accepted, replacedCopies]

/-! ## The first action of a batch: staging (02 R24, R33, 06 R210) -/

/-- What a batch's records are staged as. -/
def staging (s : State) (c : Cmd) (j : BatchJob) : Option (State × List Nat) :=
  stage s j (j.recs.map (fun r => nextVersion s c.opcode j r.vid))

/-- The batch's journal entry, written behind the staged entries `ents` of state `u`. -/
def journalStaged (u : State) (c : Cmd) (j : BatchJob) (ds : List CopyRef) (ents : List Nat) : State :=
  journalAck u j.durable ((j.ref.map (·.toNat)).getD noRef) j.cid.toNat j.count 0 (batchBody c.opcode ds ents) none none

theorem stageBatch_noPlace (full : staging s c j = none) : stageBatch s c j = fail (unstage s j) c stFault := by
  rw [staging] at full
  simp only [stageBatch, full]

variable {u : State} {ents : List Nat}

theorem stageBatch_eq_ite (staged : staging s c j = some (u, ents)) :
    let v := journalStaged u c j (replacedCopies s c j) ents
    stageBatch s c j = if ackKind u j || stagedBefore v v.flash.jsn then
        v.setCmd { c with job := .batch { j with ents := ents, kind := some (ackKind u j), jsn := v.flash.jsn } }
      else issueBatch v c { j with ents := ents } (replacedCopies s c j) false := by
  rw [staging] at staged
  simp only [stageBatch, staged]
  rfl

theorem ackKind_eq_true_iff : ackKind u j = true ↔ j.durable = true ∨ u.hold.below = true := by
  simp only [ackKind, Bool.or_eq_true]

theorem stageBatch_waits (staged : staging s c j = some (u, ents)) :
    let v := journalStaged u c j (replacedCopies s c j) ents
    j.durable = true ∨ u.hold.below = true ∨ stagedBefore v v.flash.jsn = true →
    stageBatch s c j =
      v.setCmd { c with job := .batch { j with ents := ents, kind := some (ackKind u j), jsn := v.flash.jsn } } := by
  intro v waits
  rw [stageBatch_eq_ite staged, if_pos]
  rwa [Bool.or_eq_true, ackKind_eq_true_iff, or_assoc]

theorem stageBatch_issues (staged : staging s c j = some (u, ents)) :
    let v := journalStaged u c j (replacedCopies s c j) ents
    ¬ (j.durable = true ∨ u.hold.below = true ∨ stagedBefore v v.flash.jsn = true) →
    stageBatch s c j = issueBatch v c { j with ents := ents } (replacedCopies s c j) false := by
  intro v fast
  rw [stageBatch_eq_ite staged, if_neg]
  rwa [Bool.or_eq_true, ackKind_eq_true_iff, or_assoc]

end CommitAction

/-! ## A journal program (06 R209, R210) -/

/-- The whole tail is laid down in the ring and the map is taken; what waited for the tail has not yet followed. -/
def layTail (s : State) : State :=
  let n := ceilDiv (tailBytes s) 4096
  let u := (layRun s n).1
  let v : State := { u with flash.journalRuns := u.flash.journalRuns ++ [((layRun s n).2, n, u.flash.jsn)] }
  { v with
    flash.tail := [], flash.ring := v.flash.ring + tailBytes s, flash.sinceCkpt := v.flash.sinceCkpt + tailBytes s
    flash.programmed := v.flash.jsn, flash.map := snapshot v v.csn.current, flash.mapCsn := v.csn.current }

theorem programTail_eq (s : State) : programTail s = flushesDone (s.flash.tail.foldl entryDone (layTail s)) := rfl

/-- A run takes place in the flash alone: the parts other than it are equal. -/
theorem layRun_keeps (s : State) (n : Nat) : (layRun s n).1.qau = s.qau ∧ (layRun s n).1.csn = s.csn := by
  have frame := layRun_without s n [.flash] (List.Subset.refl _)
  exact ⟨by simpa [State.without] using congrArg State.qau frame, by simpa [State.without] using congrArg State.csn frame⟩

theorem layTail_qau (s : State) : (layTail s).qau = s.qau := (layRun_keeps s _).1

theorem layTail_csn (s : State) : (layTail s).csn = s.csn := (layRun_keeps s _).2

/-- An entry that no command, event or range waits for completes without effect. -/
theorem entryDone_of_unawaited {s : State} {e : JEnt} (range : s.csn.nextRange = none) (cmd : e.cmd = none)
    (ack : e.ack = none) : entryDone s e = s := by
  simp [entryDone, cmd, ack, range]

theorem foldl_entryDone_of_unawaited {s : State} (range : s.csn.nextRange = none) (es : List JEnt)
    (quiet : ∀ e ∈ es, e.cmd = none ∧ e.ack = none) : es.foldl entryDone s = s := by
  induction es with
  | nil => rfl
  | cons e es ih =>
    obtain ⟨⟨cmd, ack⟩, rest⟩ := List.forall_mem_cons.mp quiet
    rw [List.foldl_cons, entryDone_of_unawaited range cmd ack, ih rest]

theorem flushesDone_of_noCmds {s : State} (idle : s.qau.cmds = []) : flushesDone s = s := by
  simp [flushesDone, idle]

theorem programTail_of_unawaited {s : State} (quiet : ∀ e ∈ s.flash.tail, e.cmd = none ∧ e.ack = none)
    (range : s.csn.nextRange = none) (idle : s.qau.cmds = []) : programTail s = layTail s := by
  rw [programTail_eq, foldl_entryDone_of_unawaited (by rw [layTail_csn, range]) _ quiet,
    flushesDone_of_noCmds (by rw [layTail_qau, idle])]

theorem exec_journalProgramDone_held {s : State} (held : asleep s = true ∨ ringFull s = true) :
    exec .journalProgramDone s = .next s := by
  rw [exec, execJournalProgramDone, if_pos (by simpa using held)]

theorem exec_journalProgramDone_ready {s : State} (up : asleep s = false) (room : ringFull s = false) :
    exec .journalProgramDone s = .next (if s.flash.tail = [] then flushesDone s else programTail s) := by
  simp only [exec, execJournalProgramDone, up, room, Bool.or_self, Bool.false_eq_true, if_false, List.isEmpty_iff]

/-! ## CSN ranges and checkpoints (02 R37, 06 R211) -/

theorem exec_csnRange_due {s : State} (half : 524288 ≤ s.csn.next - 1 + 1048576 - s.csn.rangeEnd)
    (range : s.csn.nextRange = none) (room : journalRoom s 72 = true) :
    exec .csnRange s = .next (journal { s with csn.nextRange := some (s.csn.rangeEnd + 1048576, false) } noRef 0xFFFF 0
      (s.csn.rangeEnd + 1048576) (.csnRange (s.csn.rangeEnd + 1048576))) := by
  simp [exec, execCsnRange, rangeLen, half, range, room]

theorem exec_csnRange_notDue {s : State} (h : s.csn.next - 1 + 1048576 - s.csn.rangeEnd < 524288 ∨
    s.csn.nextRange ≠ none ∨ journalRoom s 72 = false) : exec .csnRange s = .next s := by
  rw [exec, execCsnRange, if_neg]
  simp only [Bool.and_eq_true, decide_eq_true_eq, Option.isNone_iff_eq_none]
  rintro ⟨⟨half, range⟩, room⟩
  rcases h with h | h | h
  · rw [rangeLen] at half
    omega
  · exact h range
  · exact Bool.false_ne_true (h.symm.trans room)

/-- The checkpoint that the allocator writes: its run, and its entry in the journal (R211). -/
def writeCheckpoint (s : State) : State :=
  let n := ceilDiv (ckptBytesOf s) 4096
  freeRing (journal { (layRun s n).1 with
    flash.ckptRun := some ((layRun s n).2, n), flash.sinceCkpt := 0, flash.ckptJsn := s.flash.programmed
    flash.ckptBytes := s.flash.ring } noRef 0xFFFF 0 0 (.checkpoint s.flash.programmed))

theorem exec_checkpoint_running {s : State} (running : unitStopped s 2 = false) :
    exec .checkpoint s =
      .next (if 1073741824 ≤ s.flash.sinceCkpt ∧ journalRoom s 72 = true then writeCheckpoint s else s) := by
  simp only [exec, execCheckpoint, running, Bool.false_eq_true, if_false, Bool.and_eq_true, decide_eq_true_eq]
  rfl

/-- Settles O37: a batch by the case that its commit action meets, the journal's rows by theirs. -/
theorem batchesCommitOnce : Obligations.BatchesCommitOnce := by
  refine ⟨fun q t failed c j s hc hp hj => ?_, fun s => ⟨exec_journalProgramDone_held, fun up room empty => ?_,
    fun up room full quiet range idle => ?_, ⟨exec_csnRange_due, exec_csnRange_notDue⟩, fun running => ⟨fun early => ?_,
    fun due room => ?_⟩⟩⟩
  · intro out go r0 ready ds
    have act : ∀ {t : State}, commitBatch s c j failed = t → out = .next t := fun h =>
      (exec_batchCommit_of_staging hc hp hj failed).trans (congrArg _ h)
    refine ⟨?failed, ?destroyed, ?noCsn, ?unstagedWaits, ?stagedWaits, ?refused, ?issues, ?noPlace, ?stages⟩
    case failed => rintro rfl; exact act commitBatch_failed
    case destroyed => rintro rfl dead; exact act (commitBatch_destroyed dead)
    case noCsn => rintro rfl live full; exact act (commitBatch_noCsn live full)
    case unstagedWaits => rintro ⟨rfl, can⟩ first waits; exact act (commitBatch_unstaged_waits can first waits)
    case stagedWaits => rintro k ⟨rfl, can⟩ staged waits; exact act (commitBatch_staged_waits can staged waits)
    case refused => rintro st r1 ⟨rfl, can⟩ ok refused; exact act (commitBatch_refused can ok refused)
    case issues => rintro k ⟨rfl, can⟩ ok staged accepted; exact act (commitBatch_issues can ok staged accepted)
    case noPlace =>
      rintro ⟨rfl, can⟩ ok first accepted full
      exact act ((commitBatch_stages can ok first accepted).trans (stageBatch_noPlace full))
    case stages =>
      rintro u ents ⟨rfl, can⟩ ok first accepted placed
      have stages := commitBatch_stages can ok first accepted
      exact ⟨fun fast => act (stages.trans (stageBatch_issues placed fast)),
        fun waits => act (stages.trans (stageBatch_waits placed waits))⟩
  · rw [exec_journalProgramDone_ready up room, if_pos empty]
  · rw [exec_journalProgramDone_ready up room, if_neg full, programTail_of_unawaited quiet range idle]
    rfl
  · rw [exec_checkpoint_running running, if_neg]
    rintro ⟨due, room⟩
    rcases early with early | full
    · omega
    · exact Bool.false_ne_true (full.symm.trans room)
  · rw [exec_checkpoint_running running, if_pos ⟨due, room⟩]
    rfl

end Sys2Proof.Machine
end

section
/-! PROOFS. The settings registers where no owner lock is in force (02 R45, 04 R112, 06 R185, 11 R399, R400, 15 R531, 16 R551):
every field is open, so a write takes effect just where the values written are in range. -/

namespace Sys2Proof.Machine

/-- With no lock on a register every field of it is open (00 R17). -/
theorem softOpen_of_unlocked {s : State} {dpa : Nat} (h : unlocked s dpa) (lo len : Nat) : softOpen s dpa lo len = true := by
  simp [softOpen, openField, bits, h]

theorem take_open {o : Open} {lo len : Nat} (h : o lo len = true) (v old : Nat) : take o v lo len old = bits v lo len := by
  rw [take, if_pos h]

/-- Settles O11: what O12 says of every write, with every field open. -/
theorem settingsTakeEffect : Obligations.SettingsTakeEffect := by
  intro v s h
  obtain ⟨⟨sidefill, -⟩, ⟨reel, -⟩, ⟨fcd, -⟩, ⟨sched, -⟩, ⟨mmu, -⟩, ⟨pwr, -⟩, ⟨pcie, -⟩⟩ := settingsWritesComplete v s h
  refine ⟨fun u h1 h2 h3 h4 => ?_, fun u h1 h2 h3 => ?_, fun u h1 h2 h3 => ?_, fun u h1 h2 h3 h4 h5 h6 => ?_,
    fun u h1 h2 h3 h4 => ?_, fun u h1 h2 h3 => ?_, fun u h1 h2 => ?_⟩
  · simp only [softOpen_of_unlocked u, if_true] at sidefill
    exact sidefill ⟨h1, h2, h3, h4⟩
  · simp only [softOpen_of_unlocked u, if_true] at reel
    exact reel ⟨h1, h2, h3⟩
  · simp only [softOpen_of_unlocked u, if_true] at fcd
    exact fcd ⟨h1, h2, h3⟩
  · simp only [softOpen_of_unlocked u, if_true] at sched
    exact sched ⟨h1, h2, h3, h4, h5, h6⟩
  · simp only [softOpen_of_unlocked u, if_true] at mmu
    exact mmu ⟨h1, h2, h3, h4⟩
  · simp only [softOpen_of_unlocked u, if_true] at pwr
    exact pwr ⟨h1, h2, h3⟩
  · simp only [softOpen_of_unlocked u, if_true] at pcie
    exact pcie ⟨h1, h2⟩

/-! ## Values out of range -/

section Refused

variable {s : State} {v : W64}

theorem exec_allocSidefillWrite_refused (u : unlocked s (csrDpa 0x04 0x40))
    (h : ¬ (50 ≤ bits v.toNat 0 8 ∧ bits v.toNat 0 8 ≤ 85 ∧ bits v.toNat 0 8 + 5 ≤ bits v.toNat 8 8 ∧ bits v.toNat 8 8 ≤ 95)) :
    exec (.allocSidefillWrite v) s = .next s := by
  simp only [exec, execAllocSidefillWrite, putSidefill, take_open (softOpen_of_unlocked u _ _), if_neg h, ite_self]

theorem exec_reelCtlWrite_refused (u : unlocked s (csrDpa 0x02 0))
    (h : ¬ (10 ≤ bits v.toNat 16 16 ∧ bits v.toNat 16 16 ≤ 500 ∧ bits v.toNat 8 8 ≤ 25)) :
    exec (.reelCtlWrite v) s = .next s := by
  simp only [exec, execReelCtlWrite, putReelCtl, take_open (softOpen_of_unlocked u _ _), if_neg h, ite_self]

theorem exec_mmuCfgWrite_refused (u : unlocked s (csrDpa 0x60 0))
    (h : ¬ (64 ≤ bits v.toNat 16 32 ∧ bits v.toNat 16 32 ≤ freeMinMax s ∧ 20 ≤ bits v.toNat 0 16 ∧ bits v.toNat 0 16 ≤ 5000)) :
    exec (.mmuCfgWrite v) s = .next s := by
  simp only [exec, execMmuCfgWrite, putMmuCfg, take_open (softOpen_of_unlocked u _ _), if_neg h, ite_self]

theorem exec_pwrCfgWrite_refused (u : unlocked s (csrDpa 0xB0 8))
    (h : ¬ (1600 ≤ bits v.toNat 16 12 ∧ bits v.toNat 16 12 ≤ 2400 ∧ bits v.toNat 0 2 ≠ 3)) :
    exec (.pwrCfgWrite v) s = .next s := by
  simp only [exec, execPwrCfgWrite, putPwrCfg, take_open (softOpen_of_unlocked u _ _), if_neg h]

end Refused

/-- Settles O10: each value named lies outside the register's one range check. -/
theorem outOfRangeSettingsStay : Obligations.OutOfRangeSettingsStay := by
  intro v s
  refine ⟨fun u h => ?_, fun u h => ?_, fun u h => ?_, fun u h => ?_⟩
  · exact exec_allocSidefillWrite_refused u (by omega)
  · exact exec_reelCtlWrite_refused u (by omega)
  · exact exec_mmuCfgWrite_refused u (by omega)
  · exact exec_pwrCfgWrite_refused u (by omega)

end Sys2Proof.Machine
end

section
/-! PROOFS. Pins, FLUSH and STATS (02 R55-R59, 12 R419, R420): what each row does for the command at the front of its queue, and what a
fetch makes of a FLUSH. O29 stays open in one case: a STATS command of an unsealed queue that holds the plaintext of a request envelope,
in a state that has a session 0xFFF, is answered for the collection that the plaintext names, in an envelope whose bytes Config.gcmSeal
gives. No fetch makes such a command, but the statement is about every state. `pinsFlushAndStats_iff` reduces it to that case;
the next section shows why it can be neither proved nor refuted. -/

namespace Sys2Proof.Machine

/-! ## The FLUSH that a fetch makes (12 R404, R419) -/

theorem read_keeps {s s' : State} {r a n : Nat} {f : Finding} {x : Option (List Byte)} (h : s.read r a n f = (s', x)) :
    s'.qau = s.qau ∧ s'.csn = s.csn := by
  have frame := State.read_without s r a n f [.hbm] (List.Subset.refl _)
  rw [h] at frame
  exact ⟨by simpa [State.without] using congrArg State.qau frame, by simpa [State.without] using congrArg State.csn frame⟩

/-- A command that a row names is left to its row. -/
theorem settleUnnamed_named {s : State} {c : Cmd} (named : c.unnamed = false) : settleUnnamed s c = s := by
  simp [settleUnnamed, named]

theorem newCmd_flush_named {s : State} {q : Nat} {bs : List Byte} (op : byteAt bs 0 = opFlush) :
    (newCmd s q bs).unnamed = false := by
  have known : knownOp opFlush = true := by decide
  have noMaint : ¬ opFlush = opMaint := by decide
  simp [Cmd.unnamed, Cmd.opcode, newCmd, op, known, noMaint]

theorem fetchOne_flush {s s' : State} {q : Nat} {bs : List Byte}
    (read : s.read 2 ((s.queue q).sqBase.toNat + 64 * (s.queue q).sqHead) 64 .clean = (s', some bs))
    (tagFree : (s.queue q).tags.getLsbD (byteAt bs 1 % 32) = false) (op : byteAt bs 0 = opFlush) :
    (fetchOne s q).1.qau.cmds = s.qau.cmds ++ [newCmd s' q bs] := by
  obtain ⟨qau, -⟩ := read_keeps read
  simp only [fetchOne, read, tagFree, settleUnnamed_named (newCmd_flush_named op), ite_self, Bool.false_eq_true, if_false]
  simp only [State.modQueue, qau]

/-! ## PIN and UNPIN (02 R55-R57, 12 R419) -/

section Rows

variable {s : State} {q : QueueId} {c : Cmd}

theorem exec_pin_refused {st : Nat} (front : Fetched s q opPin c) (bad : pinChecks s c = some st) :
    exec (.pin q) s = .next (fail s c st) := by
  obtain ⟨oldest, formed⟩ := front
  simp [exec, execPin, oldest, formed, bad]

theorem exec_pin_passed (front : Fetched s q opPin c) (passes : pinChecks s c = none) (admits : admissionStopped s = false) :
    let csn := if (s.pinAt c.pinNo).held then (s.pinAt c.pinNo).csn else if c.cflag 0 then c.pinCsn else s.csn.current
    exec (.pin q) s =
      .next (finishD (s.setPin c.pinNo ⟨true, csn, c.queue, c.session, c.leaseMs, s.secs⟩) c stOk csn c.leaseMs []) := by
  obtain ⟨oldest, formed⟩ := front
  simp [exec, execPin, oldest, formed, passes, admits, admitPin, takePin]

theorem exec_unpin_refused {st : Nat} (front : Fetched s q opUnpin c) (bad : unpinChecks s c = some st) :
    exec (.unpin q) s = .next (fail s c st) := by
  obtain ⟨oldest, formed⟩ := front
  simp [exec, execUnpin, oldest, formed, bad]

theorem exec_unpin_passed (front : Fetched s q opUnpin c) (passes : unpinChecks s c = none) (admits : admissionStopped s = false) :
    exec (.unpin q) s = .next (finishD (s.setPin c.pinNo Pin.free) c stOk (s.pinAt c.pinNo).csn 0 []) := by
  obtain ⟨oldest, formed⟩ := front
  simp [exec, execUnpin, oldest, formed, passes, admits, admitUnpin]

/-! ## STATS of an unsealed queue (12 R420) -/

theorem exec_stats_admitted {x : Coll} (front : Fetched s q opStats c) (unsealed : c.isSealed = false)
    (named : mayName s c c.hdrCid = true) (live : liveColl s c.hdrCid = some x) (room : 128 ≤ c.rlen)
    (buffer : reachable s c.raddr c.rlen = true) (admits : admissionStopped s = false) :
    exec (.stats q) s = .next (admitStats s c) := by
  obtain ⟨oldest, formed⟩ := front
  have large : ¬ c.rlen < 128 := by omega
  simp [exec, execStats, oldest, formed, unsealed, checkStats, named, grantNames, grantFlag, firstFail, live, large, buffer, admits]

/-- A command without a plaintext names its collection in its header. -/
theorem admitStats_header {x : Coll} (header : c.plain = none) (live : liveColl s c.hdrCid = some x) :
    admitStats s c = finishD s c stOk s.csn.current 128 (statsReport s c c.hdrCid s.csn.current x) := by
  simp only [admitStats, statsCid, header, live]

/-! ## FLUSH (12 R419) -/

theorem exec_flush_admitted {csn : Nat} (front : Fetched s q opFlush c) (admits : admissionStopped s = false)
    (job : c.job = .flush csn) : exec (.flush q) s = .next (flushesDone (s.setCmd { c with phase := .flushing })) := by
  obtain ⟨oldest, formed⟩ := front
  simp [exec, execFlush, oldest, formed, admits, job, admitFlush]

/-- Entries of the journal that a FLUSH at `csn` still waits for. -/
def flushWaits (s : State) (csn : Nat) : Bool := s.flash.tail.any (fun e => decide (e.csn ≠ 0 ∧ e.csn ≤ csn))

theorem flushesDone_one {w : Cmd} {csn : Nat} (only : s.qau.cmds = [w]) (phase : w.phase = .flushing) (job : w.job = .flush csn) :
    flushesDone s = if ringFull s = true ∨ flushWaits s csn = true then s else finishD s w stOk csn 0 [] := by
  by_cases full : ringFull s = true <;> simp [flushesDone, full, only, phase, job, flushWaits, finishD]

end Rows

/-! ## The end of a lease (02 R57) -/

theorem leaseOver_iff {s : State} {p : Pin} :
    leaseOver s p = true ↔ p.held = true ∧ 98 * p.leaseMs ≤ 100000 * (s.secs - p.takenAt + 1) := by
  simp [leaseOver]

/-! ## What is left of O29 -/

/-- A STATS of an unsealed queue that holds a plaintext is answered for the collection of its header, as one without is. -/
def PlaintextStatsNameHeader : Prop :=
  ∀ (q : QueueId) (c : Cmd) (s : State) (x : Coll), c.plain ≠ none →
    Fetched s q opStats c → c.isSealed = false → mayName s c c.hdrCid = true → liveColl s c.hdrCid = some x → 128 ≤ c.rlen →
    reachable s c.raddr c.rlen = true → admissionStopped s = false → exec (.stats q) s =
      .next (finishD s c stOk s.csn.current 128 (statsReport s c c.hdrCid s.csn.current x))

/-- All but that case of O29 holds: it stands or falls with the commands that no fetch makes. -/
theorem pinsFlushAndStats_iff : Obligations.PinsFlushAndStats ↔ PlaintextStatsNameHeader := by
  refine ⟨fun ⟨_, rows, _⟩ q c s x _ => ?named, fun plaintexts => ⟨fun q bs s s' read tagFree op => ?fetch,
    fun q c s => ⟨fun f => ⟨fun st => exec_pin_refused f, exec_pin_passed f⟩,
      fun f => ⟨fun st => exec_unpin_refused f, exec_unpin_passed f⟩, fun x front unsealed => ?stats,
      fun n front admits job only => ?flush⟩, fun n s => ⟨fun held ended => ?expired, fun stays => ?stays⟩⟩⟩
  case named =>
    obtain ⟨-, -, stats, -⟩ := rows q c s
    exact stats x
  case fetch =>
    obtain ⟨-, csn⟩ := read_keeps read
    exact ⟨newCmd s' q.val bs, fetchOne_flush read tagFree op, rfl, by simp [newCmd, op, csn]⟩
  case stats =>
    intro named live room buffer admits
    by_cases header : c.plain = none
    · rw [exec_stats_admitted front unsealed named live room buffer admits, admitStats_header header live]
    · exact plaintexts q c s x header front unsealed named live room buffer admits
  case flush =>
    intro w
    have one : (s.setCmd w).qau.cmds = [w] := by simp [State.setCmd, only, w]
    have row := exec_flush_admitted front admits job
    have ring : ringFull (s.setCmd w) = ringFull s := rfl
    have tail : flushWaits (s.setCmd w) n = flushWaits s n := rfl
    rw [flushesDone_one one rfl job, ring, tail] at row
    refine ⟨fun room done => ?_, fun waits => ?_⟩
    · rw [row, if_neg]
      simp only [room, flushWaits, List.any_eq_true, decide_eq_true_eq]
      rintro (h | ⟨e, mem, notZero, upTo⟩)
      · cases h
      · rcases done e mem with h | h <;> omega
    · rw [row, if_pos]
      simpa [flushWaits] using waits
  case expired => simp only [exec, execPinExpired, if_pos (leaseOver_iff.mpr ⟨held, ended⟩)]
  case stays =>
    have notOver : ¬ leaseOver s (s.pinAt n.val) = true := by
      rw [leaseOver_iff]
      rintro ⟨held, ended⟩
      rcases stays with free | early
      · exact Bool.false_ne_true (free.symm.trans held)
      · exact absurd ended (Nat.not_le.mpr early)
    simp only [exec, execPinExpired, if_neg notOver]

end Sys2Proof.Machine
end

section
/-! PROOFS. O29 turns on the cipher alone. What 13 R459 calls AES-256-GCM is Config.gcmSeal, which has no body (log 7): were its output
the same for every text, O29 would hold, and where O29 holds, two different texts seal to the same bytes. A proof that sees no value of
Config.gcmSeal reaches neither, so O29 is neither proved nor refuted. With `c.plain = none` the clause on STATS holds
(`exec_stats_admitted`, `admitStats_header`). -/

namespace Sys2Proof.Machine

/-! ## A cipher that ignores its text -/

/-- The output of the cipher does not depend on the text. -/
def SealIgnoresText : Prop := ∀ key nonce aad x y, Config.gcmSeal key nonce aad x = Config.gcmSeal key nonce aad y

theorem resultEnvelope_of_sealIgnoresText (same : SealIgnoresText) (s : State) (c : Cmd) (st st' r0 r0' r1 r1' fl fl' w w' : Nat)
    (b b' : List Byte) : resultEnvelope s c st r0 r1 fl w b = resultEnvelope s c st' r0' r1' fl' w' b' := by
  simp only [resultEnvelope]
  split
  · rfl
  · split
    · rfl
    · rw [same]

/-- The completion of a command with an envelope says nothing but that it is complete (13 R427, R461). -/
theorem finish_of_sealIgnoresText (same : SealIgnoresText) {c : Cmd} (enveloped : c.plain ≠ none) (s : State)
    (st st' r0 r0' r1 r1' fl fl' w w' : Nat) (b b' : List Byte) :
    finish s c st r0 r1 fl w b = finish s c st' r0' r1' fl' w' b' := by
  obtain ⟨p, plain⟩ := Option.ne_none_iff_exists'.mp enveloped
  simp only [finish, answer, plain]
  rw [resultEnvelope_of_sealIgnoresText same _ c st st' r0 r0' r1 r1' fl fl' w w' b b']

theorem plaintextStatsNameHeader_of_sealIgnoresText (same : SealIgnoresText) : PlaintextStatsNameHeader := by
  intro q c s x enveloped front unsealed named live room buffer admits
  rw [exec_stats_admitted front unsealed named live room buffer admits, admitStats]
  split <;> exact congrArg _ (finish_of_sealIgnoresText same enveloped s ..)

/-- So a refutation of O29 would show that two texts seal differently, which Config.gcmSeal, without a body, does not. -/
theorem pinsFlushAndStats_of_sealIgnoresText (same : SealIgnoresText) : Obligations.PinsFlushAndStats :=
  pinsFlushAndStats_iff.mpr (plaintextStatsNameHeader_of_sealIgnoresText same)

/-! ## The bytes that a write stores -/

theorem putAt_byte_other (ps : List (Nat × Option Byte × Bool)) (bs : List Byte) (s : State) (a : Nat)
    (away : a ∉ ps.map (·.1)) (wf : Memory.wf s = true) : (s.putAt ps bs).byte a = s.byte a := by
  induction ps generalizing s bs with
  | nil => rfl
  | cons p ps ih =>
    cases bs with
    | nil => rfl
    | cons b bs =>
      simp only [List.map_cons, List.mem_cons, not_or] at away
      rw [State.putAt, ih _ _ away.2 (setByte_wf s p.1 b wf), byte_setByte_other s p.1 a b away.1 wf]

/-- Bytes put at different places read back. -/
theorem putAt_bytes (ps : List (Nat × Option Byte × Bool)) (bs : List Byte) (s : State) (apart : (ps.map (·.1)).Nodup)
    (long : bs.length = ps.length) (wf : Memory.wf s = true) : ps.map (fun p => (s.putAt ps bs).byte p.1) = bs := by
  induction ps generalizing s bs with
  | nil => exact (List.eq_nil_of_length_eq_zero long).symm
  | cons p ps ih =>
    cases bs with
    | nil => simp at long
    | cons b bs =>
      simp only [List.map_cons, List.nodup_cons] at apart
      obtain ⟨away, apart⟩ := apart
      have wf' := setByte_wf s p.1 b wf
      rw [List.map_cons, State.putAt, ih bs _ apart (by simpa using long) wf', putAt_byte_other ps bs _ p.1 away wf',
        byte_setByte_same s p.1 b wf]

theorem foldl_buffered_mem (ls : List Nat) (s : State) : (ls.foldl buffered s).hbm.mem = s.hbm.mem := by
  induction ls generalizing s with
  | nil => rfl
  | cons l ls ih => rw [List.foldl_cons, ih, buffered_mem]

theorem putAt_mem_congr {s t : State} (same : s.hbm.mem = t.hbm.mem) (ps : List (Nat × Option Byte × Bool)) (bs : List Byte) :
    (s.putAt ps bs).hbm.mem = (t.putAt ps bs).hbm.mem := by
  induction ps generalizing s t bs with
  | nil => exact same
  | cons p ps ih =>
    cases bs with
    | nil => exact same
    | cons b bs => exact ih (by simp only [State.setByte, same]) bs

theorem write_mem {s : State} {r a : Nat} {bs : List Byte} (fits : firstError s r a bs.length = none) (f : Finding) :
    (s.write r a bs f).1.hbm.mem = (s.putAt (placesOf s r a bs.length) bs).hbm.mem := by
  simp only [State.write, fits]
  rw [foldl_buffered_mem, putAt_mem_congr (writeSectors_mem ..)]

/-- What a write stores can be told from the memory that it leaves. -/
theorem write_mem_inj {s : State} {r a : Nat} {bs bs' : List Byte} {f : Finding} (long : bs'.length = bs.length)
    (fits : firstError s r a bs.length = none) (all : (placesOf s r a bs.length).length = bs.length)
    (apart : ((placesOf s r a bs.length).map (·.1)).Nodup) (wf : Memory.wf s = true)
    (same : (s.write r a bs f).1.hbm.mem = (s.write r a bs' f).1.hbm.mem) : bs = bs' := by
  rw [write_mem fits, write_mem (long ▸ fits), long] at same
  have left := putAt_bytes _ bs s apart all.symm wf
  have right := putAt_bytes _ bs' s apart (long.trans all.symm) wf
  simp only [State.byte, same] at left right
  exact left.symm.trans right

/-! ## A completion for a queue that is not enabled -/

theorem flushRing_off {s : State} {q : Nat} (off : (s.queue q).enable = false) : flushRing s q = s := by
  simp [flushRing, writeAll, off]

theorem holdRec_mem_of_off {s : State} {q : Nat} (off : (s.queue q).enable = false)
    (wf : Tab.wf Queue.initial s.qau.queues = true) (rec : BitVec 256) (done : Option Nat) :
    (holdRec s q rec done).hbm.mem = s.hbm.mem := by
  rw [holdRec, flushRing_off]
  · rfl
  · rw [State.queue, State.modQueue, Tab.mod, Tab.get_set_same _ _ _ _ 0 wf]
    exact off

theorem fetch_of_not_accepting {s : State} (off : s.mod.accepting = false) (q : Nat) : fetch s q = s := by
  rw [fetch]
  cases (s.queue q).sqSize with
  | zero => rfl
  | succ n => simp [fetchAll, fetchable, off]

/-! ## A STATS with a plaintext, and a session that seals -/

/-- A STATS of queue 0 on collection 0, unsealed, whose plaintext names collection 1; its result buffer is 128 bytes at 0xC000000000. -/
def plaintextStats : Cmd :=
  ⟨0, 1, 5, [0x31] ++ zeros 39 ++ leBytes 8 0xC000000000 ++ zeros 4 ++ leBytes 4 128 ++ zeros 8, .fetched, false, false, none, 0xFFF#12,
    some [1], 0, [], .none⟩

/-- The session 0xFFF, and collection 0. -/
def sealer : Session := ⟨0, [], [], [], [], 0, [], 0, 0, 0, 0, 0, 0, 0, none⟩
def onlyColl : Coll := ⟨⟨0, 4, true, 8, 0, 0, [], 0, 0⟩, false, [⟨0, [], 0⟩], 0, true, false, 1, none, true, []⟩

/-- A reset module with that command fetched, that session and collection, and memory that every class reaches. -/
def plaintextState : State := { State.reset with
  qau.cmds := [plaintextStats], warden.keys := [(0xFFF, some sealer)], corpus.colls := [(0, some onlyColl)]
  hbm.regions := [(0, some ⟨0xC000000000, 12, 104, false, 0, false, false, 0, 0xF00#12, 1, 0xFFFF#16⟩)] }

/-- The text of the result envelope, and the envelope. -/
def sealedText (st r0 r1 fl w : Nat) (b : List Byte) : List Byte :=
  padTo 88 (leBytes 1 st ++ [0] ++ leBytes 2 fl ++ leBytes 4 r1 ++ leBytes 8 r0 ++ leBytes 4 w ++ zeros 12 ++ b)
def sealedHead : List Byte := envHead 0xFFF 1 1 88
def sealedWith (text : List Byte) : List Byte :=
  padTo 104 (Config.gcmSeal [] (envNonce 1 1) (sealedHead ++ leBytes 1 0x31 ++ leBytes 2 0 ++ leBytes 8 0) text)

theorem length_padTo (n : Nat) (bs : List Byte) : (padTo n bs).length = n := by
  simp only [padTo, zeros, List.length_append, List.length_take, List.length_replicate]
  omega

theorem length_sealedText (st r0 r1 fl w : Nat) (b : List Byte) : (sealedText st r0 r1 fl w b).length = 88 := length_padTo ..

/-- STATUS stands first in the text (13 R461). -/
theorem byteAt_sealedText (st r0 r1 fl w : Nat) (b : List Byte) : byteAt (sealedText st r0 r1 fl w b) 0 = st % 256 := by
  simp [byteAt, sealedText, padTo, leBytes]

theorem length_envelope (text : List Byte) : (sealedHead ++ sealedWith text).length = 128 := by
  have head : sealedHead.length = 24 := by decide
  rw [List.length_append, head, sealedWith, length_padTo]

/-- The state in which the envelope is written. -/
def sealingState : State := { plaintextState with
  qau.cmds := [], warden.keys := [(0xFFF, some { sealer with seqOut := 1 })] }

theorem plaintextStats_fields : plaintextStats.rlen = 128 ∧ plaintextStats.opcode = 0x31 ∧ plaintextStats.raddr = 0xC000000000 := by
  decide

theorem resultEnvelope_plaintextStats (st r0 r1 fl w : Nat) (b : List Byte) :
    resultEnvelope { plaintextState with qau.cmds := [] } plaintextStats st r0 r1 fl w b =
      (sealingState, some (sealedHead ++ sealedWith (sealedText st r0 r1 fl w b))) := by
  obtain ⟨rlen, opcode, -⟩ := plaintextStats_fields
  have session : ({ plaintextState with qau.cmds := [] } : State).session plaintextStats.session.toNat = some sealer := rfl
  rw [resultEnvelope, session]
  dsimp only
  rw [rlen, opcode, if_neg (by decide)]
  rfl

theorem answer_plaintextStats (st r0 r1 fl w : Nat) (b : List Byte) :
    answer plaintextState plaintextStats st r0 r1 fl w b =
      holdRec (sealingState.write 2 0xC000000000 (sealedHead ++ sealedWith (sealedText st r0 r1 fl w b)) .clean).1 0
        (completionBytes 0 1 0 0 0 0 0 plaintextStats.user) (some 5) := by
  obtain ⟨-, -, raddr⟩ := plaintextStats_fields
  have plain : plaintextStats.plain = some [1] := rfl
  have noCmds : plaintextState.qau.cmds.filter (·.seq ≠ plaintextStats.seq) = [] := rfl
  simp only [answer, plain, noCmds, resultEnvelope_plaintextStats, raddr]
  rfl

/-- The queue is not enabled and the module fetches nothing, so the envelope is all that memory takes. -/
theorem finish_plaintextStats_mem (st r0 r1 fl w : Nat) (b : List Byte) :
    (finish plaintextState plaintextStats st r0 r1 fl w b).hbm.mem =
      (sealingState.write 2 0xC000000000 (sealedHead ++ sealedWith (sealedText st r0 r1 fl w b)) .clean).1.hbm.mem := by
  have halted : (answer plaintextState plaintextStats st r0 r1 fl w b).mod = plaintextState.mod := by
    simpa [State.without] using congrArg State.mod
      (answer_without plaintextState plaintextStats st r0 r1 fl w b [.qau, .hbm, .warden, .links] (List.Subset.refl _))
  have queues : ∀ bs, (sealingState.write 2 0xC000000000 bs .clean).1.qau = sealingState.qau := fun bs => by
    simpa [State.without] using congrArg State.qau
      (State.write_without sealingState 2 0xC000000000 bs .clean [.hbm] (List.Subset.refl _))
  rw [finish, fetch_of_not_accepting (by rw [halted]; rfl), answer_plaintextStats]
  exact holdRec_mem_of_off (by rw [State.queue, queues]; rfl) (by rw [queues]; rfl) _ _

/-- Envelopes that leave the same memory have the same sealed bytes. -/
theorem sealedWith_eq_of_mem {x y : List Byte}
    (same : (sealingState.write 2 0xC000000000 (sealedHead ++ sealedWith x) .clean).1.hbm.mem =
      (sealingState.write 2 0xC000000000 (sealedHead ++ sealedWith y) .clean).1.hbm.mem) : sealedWith x = sealedWith y := by
  have fits : firstError sealingState 2 0xC000000000 128 = none := by decide +kernel
  have all : (placesOf sealingState 2 0xC000000000 128).length = 128 := by decide +kernel
  have apart : ((placesOf sealingState 2 0xC000000000 128).map (·.1)).Nodup := by decide +kernel
  refine List.append_cancel_left (write_mem_inj ?_ ?_ ?_ ?_ rfl same)
  · rw [length_envelope, length_envelope]
  · rw [length_envelope, fits]
  · rw [length_envelope, all]
  · rw [length_envelope]
    exact apart

/-- Where a STATS with a plaintext is answered by its header, two texts with different statuses seal to the same bytes. -/
theorem sealedWith_collides (h : PlaintextStatsNameHeader) :
    ∃ x y : List Byte, x ≠ y ∧ x.length = 88 ∧ y.length = 88 ∧ sealedWith x = sealedWith y := by
  have front : Fetched plaintextState 0 opStats plaintextStats := by decide
  have live : liveColl plaintextState plaintextStats.hdrCid = some onlyColl := by decide
  have buffer : reachable plaintextState plaintextStats.raddr plaintextStats.rlen = true := by decide
  have named : mayName plaintextState plaintextStats plaintextStats.hdrCid = true := by decide
  have admits : admissionStopped plaintextState = false := by decide
  have room : 128 ≤ plaintextStats.rlen := by decide
  have byHeader := h 0 plaintextStats plaintextState onlyColl (by decide) front rfl named live room buffer admits
  have dead : liveColl plaintextState (statsCid plaintextStats) = none := by decide
  rw [exec_stats_admitted front rfl named live room buffer admits, admitStats, dead, Host.Outcome.next.injEq] at byHeader
  have mem := congrArg (·.hbm.mem) byHeader
  dsimp only [fail, finishD] at mem
  rw [finish_plaintextStats_mem, finish_plaintextStats_mem] at mem
  refine ⟨_, _, fun same => ?_, length_sealedText .., length_sealedText .., sealedWith_eq_of_mem mem⟩
  have status := congrArg (byteAt · 0) same
  simp only [byteAt_sealedText] at status
  exact absurd status (by decide)

/-- So a proof of O29 would show that two texts seal alike, which AES-256-GCM excludes under one key and nonce. -/
theorem sealedWith_collides_of_pinsFlushAndStats (h : Obligations.PinsFlushAndStats) :
    ∃ x y : List Byte, x ≠ y ∧ x.length = 88 ∧ y.length = 88 ∧ sealedWith x = sealedWith y :=
  sealedWith_collides (pinsFlushAndStats_iff.mp h)

end Sys2Proof.Machine
end

section
/-! PROOFS. The MAINT commands of collections and pins (02 R27, R56, 03 R64, R87, 12 R422-R424): what a MAINT command comes to whose
body is read and whose checks pass, and what each subop then does. -/

namespace Sys2Proof.Machine

/-! ## Checks in order (12 Table 12.3) -/

theorem firstFail_cons_eq_none {bad : Bool} {st : Nat} {t : List (Bool × Nat)} :
    firstFail ((bad, st) :: t) = none ↔ bad = false ∧ firstFail t = none := by
  cases bad <;> simp [firstFail]

/-! ## A MAINT command whose body is read (12 R422, R424) -/

section Maint

variable {s s' : State} {q : QueueId} {sub : Nat} {c : Cmd} {bs : List Byte} {authAt : List Byte → Option Nat}
  {checks : State → Cmd → List Byte → Bool → Option Nat} {run : MaintRun}

/-- No subop but SAMPLE reads at the CSN of a pin (02 R58). -/
theorem pinnedCsn_of_ne (h : sub ≠ 0x0004) (s : State) (bs : List Byte) : pinnedCsn s sub bs = none := by
  simp [pinnedCsn, h]

/-- The command with its body kept, as its run finds it. -/
def Cmd.withBody (c : Cmd) (bs : List Byte) : Cmd := { c with body := bs, adm := none }

theorem runMaint_runs (read : MaintRead s s' q sub c bs) (noSample : sub ≠ 0x0004) (free : authAt bs = none)
    (passes : checks s' c bs true = none) :
    runMaint s q.val sub authAt checks run = (run s' (c.withBody bs) bs).getD s := by
  obtain ⟨front, formed, maint, body, buffer, admits⟩ := read
  simp [runMaint, front, formed, maint, body, buffer, admits, free, passes, pinnedCsn_of_ne noSample, Cmd.withBody]

theorem runMaint_unauthorised {n : Nat} (read : MaintRead s s' q sub c bs) (bound : authAt bs = some n)
    (unsigned : authBlock s' c bs n = none) : runMaint s q.val sub authAt checks run = fail s' c stDenied := by
  obtain ⟨front, formed, maint, body, buffer, admits⟩ := read
  simp [runMaint, front, formed, maint, body, bound, unsigned]

theorem runMaint_authorised {n : Nat} {ch : BitVec 256} (read : MaintRead s s' q sub c bs) (noSample : sub ≠ 0x0004)
    (bound : authAt bs = some n) (owner : authBlock s' c bs n = some ch)
    (passes : checks (dropChallenge s' ch) c (bs.take n) true = none) :
    runMaint s q.val sub authAt checks run =
      (run (dropChallenge s' ch) (c.withBody (bs.take n)) (bs.take n)).getD s := by
  obtain ⟨front, formed, maint, body, buffer, admits⟩ := read
  have stillAdmits : admissionStopped (dropChallenge s' ch) = false := admits
  simp [runMaint, front, formed, maint, body, buffer, stillAdmits, bound, owner, passes, pinnedCsn_of_ne noSample, Cmd.withBody]

end Maint

/-! ## Changes that issue a CSN (02 R31) -/

/-- A change takes the next CSN. -/
theorem commitChange_csn (s : State) (ref cid count : Nat) (b : JBody) :
    (commitChange (takeRef s ref) ref cid count b).1 = s.csn.next := rfl

theorem commitChange_keeps (s : State) (ref cid count : Nat) (b : JBody) :
    (commitChange (takeRef s ref) ref cid count b).2.without [.csn, .flash] = s.without [.csn, .flash] := by simp

theorem commitChange_coll (s : State) (ref cid count : Nat) (b : JBody) (n : Nat) :
    (commitChange (takeRef s ref) ref cid count b).2.coll n = s.coll n := by
  have corpus := congrArg State.corpus (commitChange_keeps s ref cid count b)
  simp only [State.without, List.mem_cons, reduceCtorEq, List.not_mem_nil, or_self, if_false] at corpus
  rw [State.coll, corpus, State.coll]

theorem commitChange_warden (s : State) (ref cid count : Nat) (b : JBody) :
    (commitChange (takeRef s ref) ref cid count b).2.warden = s.warden := by
  simpa [State.without] using congrArg State.warden (commitChange_keeps s ref cid count b)

/-! ## CREATE and DESTROY (02 R27) -/

section Create

variable {s : State} {c : Cmd} {bs : List Byte}

/-- A CREATE whose checks pass is not sealed while debug is open, and its CID is free. -/
theorem createChecks_passed {ok : Bool} (passes : createChecks s c bs ok = none) :
    (createSealed bs && s.warden.debugOpen) = false ∧ createLimits s c.hdrCid = none := by
  obtain ⟨first, room⟩ := (Option.orElse_eq_none _ _).mp passes
  exact ⟨(firstFail_cons_eq_none.mp first).1, room⟩

/-- What a CREATE leaves that takes its CSN under entry `ref`. -/
def createdColl (s : State) (c : Cmd) (bs : List Byte) (ref : Nat) (keyed : Bool) : State :=
  let w := (commitChange (takeRef s ref) ref c.hdrCid 0 (.collection false (bs.take 64))).2
  finishD (w.setColl c.hdrCid (some ⟨createParams bs, createSealed bs,
    [⟨0, bookOf (createParams bs) (bs.drop 64), Config.shake256 (bs.drop 64)⟩], 0, keyed, false, s.csn.next, none, keyed,
    if keyed then collKey w c.hdrCid s.csn.next (createSealed bs) else []⟩)) c stOk s.csn.next 0 []

theorem runCreate_passed (closed : (createSealed bs && s.warden.debugOpen) = false) (room : createLimits s c.hdrCid = none) :
    runCreate s c bs = (changeRef s).map (fun ref =>
      createdColl s c bs ref (!createSealed bs || !(s.warden.sealedOff || s.warden.erased))) := by
  simp only [runCreate, closed, room, Bool.false_eq_true, if_false]
  refine congrArg (fun f => (changeRef s).map f) (funext fun ref => ?_)
  simp only [commitChange_csn, commitChange_warden]
  rfl

end Create

section Changes

variable {s : State} {c : Cmd} {bs : List Byte} {k : Coll}

theorem collChecks_passed {ok shaped : Bool} (passes : firstFail (collChecks s c ok shaped) = none) :
    (liveColl s c.hdrCid).isNone = false := by
  obtain ⟨-, rest⟩ := firstFail_cons_eq_none.mp passes
  exact (firstFail_cons_eq_none.mp rest).1

/-- What a DESTROY leaves that takes its CSN under entry `ref`. -/
def destroyedColl (s : State) (c : Cmd) (ref : Nat) : State :=
  let params := ((s.coll c.hdrCid).map (fun k => paramBytes k.params k.sealed)).getD []
  finishD ((commitChange (takeRef s ref) ref c.hdrCid 0 (.collection true params)).2.setColl c.hdrCid
    ((s.coll c.hdrCid).map (fun k => { k with destroyed := some s.csn.next }))) c stOk s.csn.next 0 []

theorem runDestroy_passed (live : (liveColl s c.hdrCid).isNone = false) :
    runDestroy s c bs = (changeRef s).map (destroyedColl s c) := by
  simp only [runDestroy, live, Bool.false_eq_true, if_false]
  refine congrArg (fun f => (changeRef s).map f) (funext fun ref => ?_)
  simp only [destroyColl, commitChange_csn, commitChange_coll]
  rfl

/-! ## GEN_INSTALL and COLL_PRIORITY (03 R87, 12 R423) -/

theorem genChecks_passed {ok : Bool} (passes : genChecks s c bs ok = none) : genLimits s c.hdrCid = none :=
  ((Option.orElse_eq_none _ _).mp passes).2

theorem runGenInstall_passed (live : liveColl s c.hdrCid = some k) (few : genLimits s c.hdrCid = none)
    (room : journalRoom s 128 = true) :
    let tag : Byte := ((k.newest.map (·.tag)).getD 0) + 1
    let w := journal s noRef c.hdrCid 0 0 (.generation tag (Config.shake256 (bs.drop 64)))
    runGenInstall s c bs = some (finishD (w.setColl c.hdrCid (some { k with
      gens := liveGens w c.hdrCid k ++ [⟨tag, bookOf k.params (bs.drop 64), Config.shake256 (bs.drop 64)⟩] })) c stOk tag.toNat 0 []) := by
  simp only [runGenInstall, live, few, room]

theorem runPriority_passed (live : liveColl s c.hdrCid = some k) (room : journalRoom s 128 = true) :
    runPriority s c bs = some (finishD ((journal s noRef c.hdrCid 0 0 (.priority (byteAt bs 0))).setColl c.hdrCid
      (some { k with priority := byteAt bs 0 })) c stOk 0 0 []) := by
  simp only [runPriority, live, room, Bool.not_true, Bool.false_eq_true, if_false]

/-! ## PIN_RELEASE (02 R56) -/

theorem releaseChecks_passed (passes : releaseChecks s c bs true = none) : (s.pinAt (byteAt bs 0)).held = true := by
  obtain ⟨-, rest⟩ := firstFail_cons_eq_none.mp passes
  simpa using (firstFail_cons_eq_none.mp rest).1

theorem runPinRelease_held (held : (s.pinAt (byteAt bs 0)).held = true) :
    let n := byteAt bs 0
    let p := s.pinAt n
    let u := postQ (s.setPin n Pin.free) p.queue [eventBytes evPinReleased srcCsn p.queue p.csn n p.queue]
    runPinRelease s c bs =
      some (finishD (postM u evPinReleased srcCsn p.queue p.csn n p.queue) c stOk p.csn 0 []) := by
  simp only [runPinRelease, held, if_true, postReleased]

end Changes

/-! ## The rows -/

/-- A row that waits for a commit-table entry keeps the state while none is to be had, and goes on under the one that it gets. -/
theorem exec_of_change {i : Instr} {s : State} {entry : Option Nat} {f : Nat → State}
    (h : exec i s = .next ((entry.map f).getD s)) :
    (entry = none → exec i s = .next s) ∧ ∀ ref, entry = some ref → exec i s = .next (f ref) :=
  ⟨fun waits => by rw [h, waits]; rfl, fun ref free => by rw [h, free]; rfl⟩

section Rows

variable {s s' : State} {q : QueueId} {c : Cmd} {bs : List Byte}

theorem exec_create_unsealed (read : MaintRead s s' q 0x0001 c bs) (plain : createSealed bs = false)
    (passes : createChecks s' c bs true = none) :
    exec (.create q) s = .next (((changeRef s').map (fun ref =>
      createdColl s' (c.withBody bs) bs ref true)).getD s) := by
  obtain ⟨closed, room⟩ := createChecks_passed passes
  rw [exec, execCreate, runMaint_runs read (by decide) (by simp [createAuth, plain]) passes,
    runCreate_passed (c := c.withBody bs) closed room]
  simp only [plain, Bool.not_false, Bool.true_or]

theorem exec_create_unauthorised {n : Nat} (read : MaintRead s s' q 0x0001 c bs) (auth : createAuth bs = some n)
    (unsigned : authBlock s' c bs n = none) : exec (.create q) s = .next (fail s' c stDenied) := by
  rw [exec, execCreate, runMaint_unauthorised read auth unsigned]

theorem exec_create_sealed {n : Nat} {ch : BitVec 256} (read : MaintRead s s' q 0x0001 c bs) (auth : createAuth bs = some n)
    (owner : authBlock s' c bs n = some ch) (stillSealed : createSealed (bs.take n) = true)
    (passes : createChecks (dropChallenge s' ch) c (bs.take n) true = none) :
    exec (.create q) s = .next (((changeRef (dropChallenge s' ch)).map (fun ref =>
      createdColl (dropChallenge s' ch) (c.withBody (bs.take n)) (bs.take n) ref
        (!((dropChallenge s' ch).warden.sealedOff || (dropChallenge s' ch).warden.erased)))).getD s) := by
  obtain ⟨closed, room⟩ := createChecks_passed passes
  rw [exec, execCreate, runMaint_authorised read (by decide) auth owner passes,
    runCreate_passed (c := c.withBody (bs.take n)) closed room]
  simp only [stillSealed, Bool.not_true, Bool.false_or]

theorem exec_destroy_passed (read : MaintRead s s' q 0x0002 c bs) (passes : destroyChecks s' c bs true = none) :
    exec (.destroy q) s =
      .next (((changeRef s').map (destroyedColl s' (c.withBody bs))).getD s) := by
  rw [exec, execDestroy, runMaint_runs read (by decide) rfl passes,
    runDestroy_passed (c := c.withBody bs) (collChecks_passed passes)]

theorem exec_pinRelease_unauthorised (read : MaintRead s s' q 0x0020 c bs) (unsigned : authBlock s' c bs 64 = none) :
    exec (.pinRelease q) s = .next (fail s' c stDenied) := by
  rw [exec, execPinRelease, runMaint_unauthorised read rfl unsigned]

theorem byteAt_take {n i : Nat} (h : i < n) (bs : List Byte) : byteAt (bs.take n) i = byteAt bs i := by
  simp [byteAt, List.getElem?_take_of_lt h]

theorem exec_pinRelease_authorised {ch : BitVec 256} (read : MaintRead s s' q 0x0020 c bs)
    (owner : authBlock s' c bs 64 = some ch) (passes : releaseChecks s' c (bs.take 64) true = none) :
    let n := byteAt bs 0
    let p := s'.pinAt n
    let u := postQ ((dropChallenge s' ch).setPin n Pin.free) p.queue [eventBytes evPinReleased srcCsn p.queue p.csn n p.queue]
    exec (.pinRelease q) s = .next (finishD (postM u evPinReleased srcCsn p.queue p.csn n p.queue)
      (c.withBody (bs.take 64)) stOk p.csn 0 []) := by
  rw [exec, execPinRelease, runMaint_authorised read (by decide) rfl owner passes,
    runPinRelease_held (s := dropChallenge s' ch) (c := c.withBody (bs.take 64)) (releaseChecks_passed (c := c) passes),
    byteAt_take (by decide)]
  rfl

end Rows

/-- Settles O30: each subop by what its run does, a change with or without a commit-table entry. -/
theorem collectionsChange : Obligations.CollectionsChange := by
  intro q c s s' bs d cid commit created
  refine ⟨fun read plain passes => ?unsealed, fun n read isSealed auth => ?isSealed, fun read passes => ?destroy,
    fun k live => ⟨fun read passes room => ?install, fun read passes room => ?priority⟩, fun read passes => ?release⟩
  case unsealed => exact exec_of_change (exec_create_unsealed read plain passes)
  case isSealed =>
    refine ⟨exec_create_unauthorised read auth, fun ch owner => ?_⟩
    intro u stillSealed passes
    exact exec_of_change (exec_create_sealed read auth owner stillSealed passes)
  case destroy => exact exec_of_change (exec_destroy_passed read passes)
  case install =>
    rw [exec, execGenInstall, runMaint_runs read (by decide) rfl passes,
      runGenInstall_passed (c := c.withBody bs) live (genChecks_passed passes) room]
    rfl
  case priority =>
    rw [exec, execCollPriority, runMaint_runs read (by decide) rfl passes,
      runPriority_passed (c := c.withBody bs) live room]
    rfl
  case release =>
    intro n p
    cases owner : authBlock s' c bs 64 with
    | none => exact exec_pinRelease_unauthorised read owner
    | some ch => exact exec_pinRelease_authorised (c := c) read owner passes

end Sys2Proof.Machine
end

section
/-! PROOFS. The allocator's work on the corpus (02 R27, R31, R48-R54, 03 R87, 04 R139): back-fill, settlement, reclaim, merges,
the move of an empty block, and the reload of a quarantined one. -/

namespace Sys2Proof.Machine

/-! ## The rows while the allocator is not stopped -/

section Running

variable {s : State} (running : unitStopped s 2 = false)
include running

theorem exec_csnBackfill_unissued {ref : BitVec 16} (unissued : (Tab.get none s.csn.table ref.toNat).bind (·.csn) = none) :
    exec (.csnBackfill ref) s = .next s := by
  simp only [exec, execCsnBackfill, running, unissued, Bool.false_eq_true, if_false]

theorem exec_csnBackfill_issued {ref : BitVec 16} {c : Nat}
    (issued : (Tab.get none s.csn.table ref.toNat).bind (·.csn) = some c) :
    exec (.csnBackfill ref) s = .next (backfill s ref.toNat c) := by
  simp only [exec, execCsnBackfill, running, issued, Bool.false_eq_true, if_false]

theorem exec_exclusionSettle (w : WeevilId) (h : Nat) :
    exec (.exclusionSettle w h) s = .next (settleBlock s w.val h (horizon s)) :=
  if_neg (Bool.eq_false_iff.mp running)

theorem exec_reclaim_side (n : Nat) : exec (.reclaim (.side n)) s = .next (reclaimSide s n) :=
  if_neg (Bool.eq_false_iff.mp running)

theorem exec_reclaim_block (w : WeevilId) (h : Nat) : exec (.reclaim (.block w h)) s = .next (reclaimBlock s w.val h) :=
  if_neg (Bool.eq_false_iff.mp running)

theorem exec_reclaim_generation (cid : BitVec 16) (tag : Byte) :
    exec (.reclaim (.generation cid tag)) s = .next (dropGens s cid.toNat) :=
  if_neg (Bool.eq_false_iff.mp running)

theorem exec_reclaim_collection (cid : BitVec 16) :
    exec (.reclaim (.collection cid)) s = .next (reclaimColl s cid.toNat) :=
  if_neg (Bool.eq_false_iff.mp running)

end Running

/-! ## Settlement (02 R48) -/

section Settle

variable {s : State} {w h a : Nat} {b : Block} (held : s.block (blockKey w h) = some b)
include held

theorem settleBlock_none_due (none_due : (exclusions s w b.hdr).filter (fun x => decide (resolveEx s x ≤ a)) = []) :
    settleBlock s w h a = s := by
  simp only [settleBlock, held, none_due, List.isEmpty_nil, if_true]

theorem settleBlock_due :
    let due := (exclusions s w b.hdr).filter (fun x => decide (resolveEx s x ≤ a))
    let left := (exclusions s w b.hdr).filter (fun x => !decide (resolveEx s x ≤ a))
    let hd := hset ((due.map exIdx).foldl hSetTomb b.hdr) 34 1 left.length
    due ≠ [] → settleBlock s w h a = (setExcl s w (hExclList b.hdr) left).setBlock (blockKey w h)
      (some { b with hdr := hSign (if left = [] then hset hd 32 2 0xFFFF else hd) }) := by
  intro due left hd some_due
  simp only [settleBlock, held, List.isEmpty_iff]
  exact if_neg some_due

end Settle

/-! ## Reclaim (02 R27, R51, 03 R87) -/

theorem reclaimBlock_kept {s : State} {w h : Nat} {b : Block} (held : s.block (blockKey w h) = some b)
    (kept : ¬ (resolveRetire s (hRetire b.hdr) (hRetireRef b.hdr) ≤ horizon s ∨ goneColl s (hCid b.hdr) = true)) :
    reclaimBlock s w h = s := by
  simp only [reclaimBlock, held, Bool.or_eq_true, decide_eq_true_eq, if_neg kept]

/-- A block without an exclusion list leaves its extents, its image and its scan space. -/
theorem reclaimBlock_gone {s : State} {w h : Nat} {b : Block} (held : s.block (blockKey w h) = some b)
    (gone : resolveRetire s (hRetire b.hdr) (hRetireRef b.hdr) ≤ horizon s ∨ goneColl s (hCid b.hdr) = true)
    (unlisted : hExclList b.hdr = 0xFFFF) :
    reclaimBlock s w h = refitColls (dropGens
      (dropImage (freeExtent (s.setBlock (blockKey w h) none) b.extent (hCount b.hdr)) b) (hCid b.hdr)) := by
  simp only [reclaimBlock, held, Bool.or_eq_true, decide_eq_true_eq, if_pos gone, if_pos unlisted]

theorem reclaimSide_kept {s : State} {n : Nat} {e : SideEnt} (held : s.side n = some e)
    (kept : ¬ (resolveRetire s e.retire.toNat e.retireRef.toNat ≤ horizon s ∨ goneColl s e.cid.toNat = true)) :
    reclaimSide s n = s := by
  simp only [reclaimSide, held, Bool.or_eq_true, decide_eq_true_eq, if_neg kept]

theorem reclaimSide_gone {s : State} {n : Nat} {e : SideEnt} (held : s.side n = some e)
    (gone : resolveRetire s e.retire.toNat e.retireRef.toNat ≤ horizon s ∨ goneColl s e.cid.toNat = true) :
    reclaimSide s n = dropGens (freeRing (noteFill (releaseChunks ((putSlot s e.slot none).setSide n none)))) e.cid.toNat := by
  simp only [reclaimSide, held, Bool.or_eq_true, decide_eq_true_eq, if_pos gone]

theorem dropGens_of_coll {s : State} {cid : Nat} {c : Coll} (held : s.coll cid = some c) :
    dropGens s cid = s.setColl cid (some { c with gens := liveGens s cid c }) := by
  simp only [dropGens, held]

theorem reclaimColl_gone {s : State} {cid : Nat} (gone : goneColl s cid = true) (empty : emptyColl s cid = true) :
    reclaimColl s cid = { s.setColl cid none with
      flash.slots := s.flash.slots.filter (fun e => !e.2.any (fun v => v.cid.toNat = cid)) } := by
  simp only [reclaimColl, gone, empty, Bool.and_self, if_true]

/-! ## Merges and moves (02 R50, R53, R54) -/

section Changes

variable {s : State} (running : unitStopped s 2 = false)
include running

/-- A merge whose read-back fails takes no CSN and leaves nothing (02 R54). -/
theorem exec_mergeHandover_badReadBack (cid : BitVec 16) (es : List Nat) (pl : Place) :
    exec (.mergeHandover cid es pl false) s = .next s := by
  simp only [exec, execMergeHandover, running, Bool.false_eq_true, if_false, Bool.and_false, Bool.false_and, Bool.not_false,
    if_true]
  split <;> rfl

theorem exec_mergeHandover_fits {cid : BitVec 16} {es : List Nat} {pl : Place} {x : Coll} {ref : Nat}
    (live : liveColl s cid.toNat = some x) (change : changeRef s = some ref) :
    let ents := es.filterMap (fun n => (s.side n).map (fun e => (n, e)))
    let dead := (ents.filter (fun e => !sideLive s e.2)).length
    ents.length = es.length → mergeable s cid.toNat ents = true → dead ≤ 32 →
    extentsFree s x.params pl (ents.map (fun e => e.2.slot)) = true →
    placeOk s pl cid.toNat (blockBytes x.params) (decide (dead ≠ 0)) [] = true →
    exec (.mergeHandover cid es pl true) s = .next (handOver s cid.toNat x ents pl ref) := by
  intro ents dead all together few extents place
  simp only [exec, execMergeHandover, running, live, change, Bool.false_eq_true, if_false]
  rw [if_neg, if_pos place]
  simp only [Bool.not_eq_true', Bool.not_eq_false, Bool.and_eq_true, decide_eq_true_eq, and_true]
  exact ⟨⟨⟨all, together⟩, few⟩, extents⟩

/-- An empty block needs no place: it retires by reference (02 R50). -/
theorem exec_blockMove_retireEmpty {w : WeevilId} {h : Nat} {b : Block} {x : Coll} {ref : Nat}
    (held : s.block (blockKey w.val h) = some b) (live : liveColl s (hCid b.hdr) = some x) (change : changeRef s = some ref)
    (issued : blockLive s b = true) (inService : hQuar b.hdr = false)
    (empty : liveRecs s (keyWeevil (blockKey w.val h)) b = [])
    (even : balanced s (hCid b.hdr) [keyWeevil (blockKey w.val h)] none = true) (pl : Option Place) (ok : Bool) :
    exec (.blockMove .retireEmpty [(w, h)] pl ok) s = .next (commitChange
      ((takeRef s ref).setBlock (blockKey w.val h) (some { b with hdr := hSign (hset b.hdr 26 2 ref) })) ref (hCid b.hdr) 0
      (.move none [blockKey w.val h])).2 := by
  have suits : moveOk s .retireEmpty x [(blockKey w.val h, b)] = true := by simp [moveOk, issued, inService, empty]
  simp [exec, execBlockMove, running, held, live, change, suits, even, noTwice, moveBlocks, retireBlocks]

end Changes

/-! ## Reload of a quarantined block (04 R139) -/

section Reload

variable {s : State} (running : unitStopped s 2 = false) {w : WeevilId} {h : Nat} {b : Block}
  (held : s.block (blockKey w.val h) = some b)
include running held

theorem exec_blockReload_inService (inService : hQuar b.hdr = false) (ok : Bool) :
    exec (.blockReload w h ok) s = .next s := by
  simp only [exec, execBlockReload, running, held, inService, Bool.false_eq_true, if_false, Bool.not_false, if_true]

theorem exec_blockReload_noImage (quarantined : hQuar b.hdr = true) (noImage : imageUnder (imageRead s b) b = none) (ok : Bool) :
    exec (.blockReload w h ok) s = .next (imageRead s b) := by
  simp only [exec, execBlockReload, running, held, quarantined, noImage, Bool.false_eq_true, if_false, Bool.not_true]

theorem exec_blockReload_inPlace {i : ScanImage} (quarantined : hQuar b.hdr = true)
    (image : imageUnder (imageRead s b) b = some i) : exec (.blockReload w h true) s =
      .next ((imageRead s b).setBlock (blockKey w.val h) (some (signBlock { b with recs := i.recs }))) := by
  simp only [exec, execBlockReload, running, held, quarantined, image, Bool.false_eq_true, if_false, Bool.not_true, if_true,
    reloaded]

theorem exec_blockReload_inReserve {i : ScanImage} {r : Nat} (quarantined : hQuar b.hdr = true)
    (image : imageUnder (imageRead s b) b = some i) (row : reserveRow (imageRead s b) w.val (rowSpan b.hdr) = some r) :
    exec (.blockReload w h false) s = .next ((imageRead s b).setBlock (blockKey w.val h)
      (some (signBlock { b with hdr := hset b.hdr 28 4 r, recs := i.recs }))) := by
  simp only [exec, execBlockReload, running, held, quarantined, image, row, Bool.false_eq_true, if_false, Bool.not_true, reloaded]

end Reload

/-- Settles O38: each row by the case that its unit's record meets. -/
theorem theAllocatorWorks : Obligations.TheAllocatorWorks := by
  intro s running
  refine ⟨fun ref => ⟨exec_csnBackfill_unissued running, fun c => exec_csnBackfill_issued running⟩,
    fun w h b held => ?block, fun n e held => ?side, fun cid tag c held => ?coll,
    fun cid es pl x ref => ⟨exec_mergeHandover_badReadBack running cid es pl, exec_mergeHandover_fits running⟩,
    fun w h b pl ok x ref held live change issued inService empty even =>
      exec_blockMove_retireEmpty running held live change issued inService empty even pl ok⟩
  case block =>
    refine ⟨fun noneDue => ?_, fun due => ?_, ⟨fun kept => ?_, fun gone unlisted => ?_⟩, fun ok inService => ?_, fun quar => ?_⟩
    · rw [exec_exclusionSettle running, settleBlock_none_due held noneDue]
    · rw [exec_exclusionSettle running, settleBlock_due held due]
    · rw [exec_reclaim_block running, reclaimBlock_kept held kept]
    · rw [exec_reclaim_block running, reclaimBlock_gone held gone unlisted]
    · exact exec_blockReload_inService running held inService ok
    · exact ⟨fun ok noImage => exec_blockReload_noImage running held quar noImage ok,
        fun i image => ⟨exec_blockReload_inPlace running held quar image,
          fun r row => exec_blockReload_inReserve running held quar image row⟩⟩
  case side =>
    refine ⟨fun kept => ?_, fun gone => ?_⟩
    · rw [exec_reclaim_side running, reclaimSide_kept held kept]
    · rw [exec_reclaim_side running, reclaimSide_gone held gone]
  case coll =>
    refine ⟨?_, fun gone empty => ?_⟩
    · rw [exec_reclaim_generation running, dropGens_of_coll held]
      rfl
    · rw [exec_reclaim_collection running, reclaimColl_gone gone empty]

end Sys2Proof.Machine
end

section
/-! PROOFS. The commands of a Weevil's window (04 R133-R142): which entry at the front runs, and what each row of Table 4.10
answers. -/

namespace Sys2Proof.Machine

/-! ## The entry at the front (04 R134, R136) -/

section Front

variable {s : State} {w op : Nat} {rs : List Nat} {r : Nat} {bs : List Byte} {run : State → List Byte → WinAnswer}

theorem runWindow_asleep (h : asleep s = true) : runWindow s w op rs run = s := by
  rw [runWindow, if_pos h]

theorem runWindow_other (h : winFront s w op = none) : runWindow s w op rs run = s := by
  simp [runWindow, h]

theorem runWindow_denied (up : asleep s = false) (front : winFront s w op = some (r, bs)) (out : rs.contains r = false) :
    runWindow s w op rs run = respond s w winDenied 0 [] := by
  simp only [runWindow, up, front, out, Bool.false_eq_true, if_false]

/-- The entry at the front is the row's, and comes from one of its requesters (04 Table 4.10). -/
def WinRuns (s : State) (w op : Nat) (rs : List Nat) (r : Nat) (bs : List Byte) : Prop :=
  asleep s = false ∧ winFront s w op = some (r, bs) ∧ rs.contains r = true

theorem runWindow_answers (h : WinRuns s w op rs r bs) :
    runWindow s w op rs run = respond (run s bs).s w (run s bs).status (run s bs).result (run s bs).body := by
  obtain ⟨up, front, named⟩ := h
  simp only [runWindow, up, front, named, Bool.false_eq_true, if_false, if_true]

theorem runWindow_says {t : State} {st : Nat} (h : WinRuns s w op rs r bs) (answer : run s bs = winSay t st) :
    runWindow s w op rs run = respond t w st 0 [] := by
  rw [runWindow_answers h, answer]
  rfl

end Front

/-- A row of Table 4.10 is one window command of an opcode and its requesters. -/
def IsWindowRow (w : Nat) (e : Nat × List Nat × Instr) : Prop :=
  ∃ run, ∀ s, exec e.2.2 s = .next (runWindow s w e.1 e.2.1 run)

theorem isWindowRow_of_mem {w : WeevilId} {res : W32} {e : Nat × List Nat × Instr}
    (h : e ∈ [((0x01 : Nat), ([3] : List Nat), Instr.hdrWrite w), (0x02, [3], .exclWrite w), (0x03, [3], .settle w),
      (0x04, [3], .repairReady w), (0x08, [9], .pause w), (0x09, [9], .weevilResume w), (0x0A, [9], .ucodeStage w),
      (0x0B, [9], .ucodeSwap w), (0x10, [0, 1, 3, 9], .stateRead w), (0x18, [9], .weevilSelftest w res)]) :
    IsWindowRow w.val e := by
  simp only [List.mem_cons, List.not_mem_nil, or_false] at h
  rcases h with rfl | rfl | rfl | rfl | rfl | rfl | rfl | rfl | rfl | rfl <;> exact ⟨_, fun _ => rfl⟩

/-! ## What the commands with operands answer (04 R136, log 12, log 26) -/

section Commands

variable {s : State} {w : Nat} {bs : List Byte}

theorem runHdrWrite_ok {new : List Byte} (index : arg0 bs < 327680) (data : dataBytes s w (le bs 16 4) 128 = some new) :
    runHdrWrite w s bs = winSay (putHeader s w (arg0 bs) (BitVec.ofNat 1024
      (ofLe (maskBytes (leBytes 128 (headerAt s w (arg0 bs)).toNat) new (le bs 8 8))))) winOk := by
  simp only [runHdrWrite, index, data, decide_true]

theorem runExclWrite_ok {b : Block} (block : s.block (blockKey w (le bs 8 4)) = some b) (list : arg0 bs < 8192)
    (inUse : byteAt bs 12 ≤ 32) (written : byteAt bs 13 ≤ 3) (place : byteAt bs 14 + byteAt bs 13 ≤ 32) :
    runExclWrite w s bs = winSay (putHeader (setExcl s w (arg0 bs) (putEntries (Tab.get [] s.corpus.excl (exKey w (arg0 bs)))
      (byteAt bs 14) ((List.range (byteAt bs 13)).map (fun j => BitVec.ofNat 128 (le bs (16 + 16 * j) 16))))) w (le bs 8 4)
      (hset (hset b.hdr 32 2 (arg0 bs)) 34 1 (byteAt bs 12))) winOk := by
  simp only [runExclWrite, block]
  rw [if_pos ⟨list, inUse, written, place⟩]

theorem runUcodeStage_image {image : List Byte} (nonempty : le bs 12 4 ≠ 0) (fits : le bs 12 4 ≤ 65536)
    (data : dataBytes s w (le bs 8 4) (le bs 12 4) = some image) :
    runUcodeStage w s bs = if imageOk s 2 image then winSay (s.modWeevil w (fun v => { v with staged := some image })) winOk
      else winSay s winDenied := by
  rw [runUcodeStage, if_neg (by omega)]
  simp only [data]

end Commands

/-! ## The rows -/

section Rows

variable {w : WeevilId} {s : State} {r : Nat} {bs : List Byte}

theorem exec_ucodeStage_image {image : List Byte} (front : WinRuns s w.val 0x0A [9] r bs) (nonempty : le bs 12 4 ≠ 0)
    (fits : le bs 12 4 ≤ 65536) (data : dataBytes s w.val (le bs 8 4) (le bs 12 4) = some image) :
    exec (.ucodeStage w) s = if imageOk s 2 image
      then .next (respond (s.modWeevil w.val (fun v => { v with staged := some image })) w.val winOk 0 [])
      else .next (respond s w.val winDenied 0 []) := by
  have run := runUcodeStage_image nonempty fits data
  split
  case isTrue ok => exact congrArg _ (runWindow_says front (run.trans (if_pos ok)))
  case isFalse bad => exact congrArg _ (runWindow_says front (run.trans (if_neg bad)))

theorem exec_ucodeSwap_empty (front : WinRuns s w.val 0x0B [9] r bs) (empty : (s.weevil w.val).staged = none) :
    exec (.ucodeSwap w) s = .next (respond s w.val winBadCmd 0 []) :=
  congrArg _ (runWindow_says front (by simp only [empty]))

theorem exec_ucodeSwap_image {image : List Byte} (front : WinRuns s w.val 0x0B [9] r bs)
    (staged : (s.weevil w.val).staged = some image) :
    exec (.ucodeSwap w) s = .next (respond (measureUnit (s.modWeevil w.val (fun v => { v with
      staged := none, image := some image, ucode := (Config.imageVersion image).truncate 16 })) 2 w.val image) w.val winOk 0 []) :=
  congrArg _ (runWindow_says front (by simp only [staged]))

theorem exec_settle_absent (front : WinRuns s w.val 0x03 [3] r bs) (absent : s.block (blockKey w.val (arg0 bs)) = none) :
    exec (.settle w) s = .next (respond s w.val winBadCmd 0 []) :=
  congrArg _ (runWindow_says front (if_neg (by simp [absent])))

theorem exec_settle_block (front : WinRuns s w.val 0x03 [3] r bs) (held : (s.block (blockKey w.val (arg0 bs))).isSome = true) :
    exec (.settle w) s = .next (respond (settleBlock s w.val (arg0 bs) (le bs 8 8)) w.val winOk 0 []) :=
  congrArg _ (runWindow_says front (if_pos held))

theorem exec_repairReady_inService {b : Block} (front : WinRuns s w.val 0x04 [3] r bs)
    (block : s.block (blockKey w.val (arg0 bs)) = some b) (inService : hQuar b.hdr = false) :
    exec (.repairReady w) s = .next (respond s w.val winBadCmd 0 []) :=
  congrArg _ (runWindow_says front (by simp only [block, inService, Bool.false_eq_true, if_false]))

theorem exec_repairReady_quarantined {b : Block} (front : WinRuns s w.val 0x04 [3] r bs)
    (block : s.block (blockKey w.val (arg0 bs)) = some b) (quarantined : hQuar b.hdr = true) :
    exec (.repairReady w) s = .next (respond
      ((putHeader s w.val (arg0 bs) (hSetFlag (hSetFlag b.hdr 2 false) 3 true)).modWeevil w.val (fun v => { v with
        repair := v.repair ++ [arg0 bs] })) w.val winOk 0 []) :=
  congrArg _ (runWindow_says front (by simp only [block, quarantined, if_true]))

end Rows

/-- Settles O40: a row is its command at the front, run for the requesters of Table 4.10, and each command by its cases. -/
theorem windowCommandsRun : Obligations.WindowCommandsRun := by
  intro w s r bs v front say h
  refine ⟨fun res e he => ?row, fun f => ?pause, fun f => ?resume, fun f => ?stateRead, fun res f => ?selftest,
    fun f => ⟨exec_ucodeSwap_empty f, fun image => exec_ucodeSwap_image f⟩,
    fun image f nonempty fits data => exec_ucodeStage_image f nonempty fits data,
    fun new f index data => congrArg _ (runWindow_says f (runHdrWrite_ok index data)),
    fun b f block list inUse written place => congrArg _ (runWindow_says f (runExclWrite_ok block list inUse written place)),
    fun f => ⟨exec_settle_absent f, exec_settle_block f⟩,
    fun b f block => ⟨exec_repairReady_inService f block, exec_repairReady_quarantined f block⟩⟩
  case pause => exact congrArg _ (runWindow_says f rfl)
  case resume => exact congrArg _ (runWindow_says f rfl)
  case stateRead => exact congrArg _ (runWindow_answers f)
  case selftest => exact congrArg _ (runWindow_answers f)
  case row =>
    obtain ⟨run, row⟩ := isWindowRow_of_mem he
    refine ⟨fun idle => ?_, fun up front out => ?_⟩
    · rw [row]
      rcases idle with down | other
      · rw [runWindow_asleep down]
      · rw [runWindow_other other]
    · rw [row, runWindow_denied up front out]

end Sys2Proof.Machine
end

section
/-! PROOFS. Direct scans (04 R132, R136, R137) and the end of a pause (04 R141): when a DSCAN or a V1 scan has its time, which operands
it refuses, and what it writes where they are in range. -/

namespace Sys2Proof.Machine

/-! ## The end of a pause (04 R141) -/

theorem exec_pauseTimeout_running {w : WeevilId} {s : State} (running : (s.weevil w.val).paused = false) :
    exec (.pauseTimeout w) s = .next s :=
  congrArg _ (if_neg (Bool.eq_false_iff.mp running))

theorem exec_pauseTimeout_paused {w : WeevilId} {s : State} (paused : (s.weevil w.val).paused = true) :
    exec (.pauseTimeout w) s =
      .next (postM (setPaused s w.val false) evPauseTimeout (0x20 + w.val / 32) noQueue w.val 0 0) :=
  congrArg _ (if_pos paused)

/-! ## What a result area holds (log 5) -/

theorem resultBytes_eq (s : State) (k size : Nat) (f : Int × Nat → List Byte) (xs : List (Int × Nat)) :
    resultBytes s k size f xs =
      (xs.flatMap f ++ (drawBytes (size * (k - xs.length)) s).1, (drawBytes (size * (k - xs.length)) s).2) := rfl

/-! ## The operands of DSCAN (04 R136, log 25, log 26) -/

/-- A LAYOUT byte of FORMAT 0 whose CODE is PQ8 (04 Table 4.2). -/
def BasicPq8 (layout : Nat) : Prop := layout % 8 = 4

theorem BasicPq8.format {x : Nat} (h : BasicPq8 x) : x % 4 = 0 := by
  unfold BasicPq8 at h
  omega

theorem BasicPq8.code {x : Nat} (h : BasicPq8 x) : bit x 2 = true := by
  unfold BasicPq8 at h
  simp only [bit, Nat.shiftRight_eq_div_pow, decide_eq_true_eq]
  omega

/-- An operand of a DSCAN is out of range: k, the record count, the FORMAT, or M for PQ8. -/
def DscanOutOfRange (bs : List Byte) : Prop :=
  byteAt bs 10 = 0 ∨ 64 < byteAt bs 10 ∨ le bs 12 4 = 0 ∨ 16777216 < le bs 12 4 ∨ 1 < byteAt bs 8 % 4 ∨
    (BasicPq8 (byteAt bs 8) ∧ byteAt bs 9 ≠ 8 ∧ byteAt bs 9 ≠ 16)

section Dscan

variable {s : State} {w : Nat} {bs : List Byte}

theorem runDscan_outOfRange (bad : DscanOutOfRange bs) : runDscan w s bs = winSay s winBadCmd := by
  simp only [runDscan]
  split
  case h_2 => rfl
  case h_1 =>
    refine if_neg fun ok => ?_
    simp only [Bool.and_eq_true, decide_eq_true_eq] at ok
    obtain ⟨⟨⟨⟨format, kLow, kHigh⟩, nLow, nHigh⟩, code⟩, -⟩ := ok
    rcases bad with k | k | n | n | f | ⟨layout, m8, m16⟩
    case inr.inr.inr.inr.inr => simp [layout.code, m8, m16] at code
    all_goals omega

/-- The k best of the BASIC PQ8 records of a DSCAN: the score of each with its index (04 R136). -/
def dscanBest (s : State) (w : Nat) (bs lut set : List Byte) : List (Int × Nat) :=
  let m := byteAt bs 9
  firstK (byteAt bs 10) ((List.range (le bs 12 4)).map (fun i => ((scoreOf 0 0 0 m true ⟨setOfBytes set, lut, []⟩
    (ScanRec.ofBytes m 0 (s.bytes (placeOf (w / 32) (w % 32) (le bs 16 8) + i * (m + 8)) (m + 8)))).1, i)))

theorem runDscan_pq8 {lut set out : List Byte} (layout : BasicPq8 (byteAt bs 8))
    (kLow : 1 ≤ byteAt bs 10) (kHigh : byteAt bs 10 ≤ 64) (nLow : 1 ≤ le bs 12 4) (nHigh : le bs 12 4 ≤ 16777216)
    (code : byteAt bs 9 = 8 ∨ byteAt bs 9 = 16) (rows : dscanRegion s w (le bs 16 8) (le bs 12 4 * (byteAt bs 9 + 8)) = true)
    (lutData : dataBytes s w (le bs 24 4) (byteAt bs 9 * 256) = some lut) (setData : dataBytes s w (le bs 28 4) 32 = some set)
    (outData : dataBytes s w (le bs 32 4) (8 * byteAt bs 10) = some out) :
    let result := resultBytes s (byteAt bs 10) 8 (fun x => leBytes 4 x.2 ++ leBytes 4 (ofSigned 32 x.1)) (dscanBest s w bs lut set)
    runDscan w s bs = winSay (result.2.setBytes (windowBase w + winData + le bs 32 4) result.1) winOk := by
  simp only [runDscan, layout.format, layout.code, if_true, lutData, setData, outData]
  exact if_pos (by simp [kLow, kHigh, nLow, nHigh, code, rows])

end Dscan

/-! ## The time of a direct scan (04 R132, R136, R137) -/

section Time

variable {w : WeevilId} {s : State} {r : Nat} {bs : List Byte}

theorem exec_dscan_waits (waits : s.pwr.state ≠ 0 ∨ dscanTime s w.val = false) : exec (.dscan w) s = .next s :=
  congrArg _ (if_neg (by rcases waits with h | h <;> simp [h]))

section InTime

variable (run : s.pwr.state = 0) (time : dscanTime s w.val = true) (front : winFront s w.val 0x11 = some (r, bs))
include run time

theorem exec_dscan_inTime : exec (.dscan w) s = .next (runWindow s w.val 0x11 [0, 1] (runDscan w.val)) :=
  congrArg _ (if_pos (by simp [run, time]))

include front

theorem exec_dscan_denied (notZero : r ≠ 0) (notOne : r ≠ 1) : exec (.dscan w) s = .next (respond s w.val winDenied 0 []) := by
  rw [exec_dscan_inTime run time, runWindow_denied (by simp [asleep, run]) front (by simp [notZero, notOne])]

theorem exec_dscan_says (requester : r < 2) {t : State} {st : Nat} (answer : runDscan w.val s bs = winSay t st) :
    exec (.dscan w) s = .next (respond t w.val st 0 []) := by
  have named : [0, 1].contains r = true := by
    simpa using (by omega : r = 0 ∨ r = 1)
  rw [exec_dscan_inTime run time, runWindow_says ⟨by simp [asleep, run], front, named⟩ answer]

end InTime

end Time

/-! ## The V1 area (04 R137) -/

section V1

variable {w : WeevilId} {s : State}

theorem exec_v1_idle (idle : (s.weevil w.val).v1Run = false) :
    exec (.v1Go w) s = .next s ∧ exec (.v1Abort w) s = .next s :=
  ⟨congrArg _ (if_neg (by simp [idle])), congrArg _ (if_neg (by simp [idle]))⟩

theorem exec_v1Abort_unset (unset : (s.byte (windowBase w.val + winV1)).getLsbD 1 = false) : exec (.v1Abort w) s = .next s :=
  congrArg _ (if_neg (by simp only [unset, Bool.and_false, Bool.false_eq_true, not_false_eq_true]))

theorem exec_v1Go_waits (waits : dscanTime s w.val = false) : exec (.v1Go w) s = .next s :=
  congrArg _ (if_neg (by simp [waits]))

theorem exec_v1Abort_set (running : (s.weevil w.val).v1Run = true)
    (abort : (s.byte (windowBase w.val + winV1)).getLsbD 1 = true) : exec (.v1Abort w) s = .next (v1Say s w.val 4) :=
  congrArg _ (if_pos (by simp only [running, abort, Bool.and_self]))

theorem exec_v1Go_inTime (running : (s.weevil w.val).v1Run = true) (time : dscanTime s w.val = true) :
    exec (.v1Go w) s = .next (runV1 s w.val) := by
  simp only [exec, execV1Go, running, time, Bool.and_self, if_true]

end V1

section V1Operands

variable {s : State} {w : Nat}

theorem runV1_outOfRange (bad : v1Word s w 0x08 % 16 ≠ 0 ∨ v1Word s w 0x10 = 0 ∨ 16777216 < v1Word s w 0x10 ∨
    v1Word s w 0x18 = 0 ∨ 64 < v1Word s w 0x18) : runV1 s w = v1Say s w 2 := by
  rw [runV1, if_neg]
  intro ok
  simp only [Bool.and_eq_true, decide_eq_true_eq] at ok
  obtain ⟨⟨⟨aligned, nLow, nHigh⟩, kLow, kHigh⟩, -⟩ := ok
  omega

/-- The k best of the rows of a V1 scan: the score of each with its identity (04 R137). -/
def v1Best (s : State) (w : Nat) : List (Int × Nat) :=
  let p := placeOf (w / 32) (w % 32) (v1Word s w 0x08)
  firstK (v1Word s w 0x18) ((List.range (v1Word s w 0x10)).map (fun i =>
    (v1Score (s.bytes (windowBase w + winV1 + 0x1000) 256) ((s.bytes (p + 16 * i) 16).take 8), le (s.bytes (p + 16 * i) 16) 8 8)))

theorem runV1_inRange (aligned : v1Word s w 0x08 % 16 = 0) (nLow : 1 ≤ v1Word s w 0x10) (nHigh : v1Word s w 0x10 ≤ 16777216)
    (kLow : 1 ≤ v1Word s w 0x18) (kHigh : v1Word s w 0x18 ≤ 64)
    (rows : dscanRegion s w (v1Word s w 0x08) (16 * v1Word s w 0x10) = true) :
    let result := resultBytes s (v1Word s w 0x18) 16 (fun x => leBytes 8 x.2 ++ leBytes 4 (ofSigned 32 x.1) ++ zeros 4) (v1Best s w)
    runV1 s w = v1Say (result.2.setBytes (windowBase w + v1Result) result.1) w 1 := by
  simp only [runV1, v1Best, aligned, nLow, nHigh, kLow, kHigh, rows, and_self, decide_true, Bool.and_self, if_true]

end V1Operands

/-- Settles O41: each row by whether it has its time, and a scan by whether its operands are in range. -/
theorem directScansAnswer : Obligations.DirectScansAnswer := by
  intro w s v said
  refine ⟨exec_pauseTimeout_running, exec_pauseTimeout_paused, exec_dscan_waits, fun r bs run time front => ?dscan,
    exec_v1_idle, fun running => ⟨exec_v1Abort_set running, exec_v1Abort_unset, exec_v1Go_waits, fun time => ?v1⟩⟩
  case dscan =>
    exact ⟨exec_dscan_denied run time front,
      fun requester bad => exec_dscan_says run time front requester (runDscan_outOfRange bad),
      fun lut set out requester kLow kHigh nLow nHigh layout code rows lutData setData outData =>
        exec_dscan_says run time front requester
          (runDscan_pq8 layout kLow kHigh nLow nHigh code rows lutData setData outData)⟩
  case v1 =>
    rw [exec_v1Go_inTime running time]
    refine ⟨fun bad => ?_, fun aligned nLow nHigh kLow kHigh rows => ?_⟩
    · rw [runV1_outOfRange bad]
      rfl
    · rw [runV1_inRange aligned nLow nHigh kLow kHigh rows]
      simp only [said, resultBytes_eq, v1Say, v1Best, v1Score]

end Sys2Proof.Machine
end

section
/-! PROOFS. Scans (04 R104-R140, 05 R151-R155, 07 R245-R251, 11 R398): who takes a Reel slot, what a Weevil does at a block boundary
and a lap member at a chunk boundary, and where a threshold that was sent arrives. -/

namespace Sys2Proof.Machine

/-! ## A Reel slot is given (11 R398, 04 R110) -/

section Slots

variable {s : State} {n : Nat} {c : Cmd} {j : SearchJob}

/-- A collection without a side-list entry needs no lap group (07 R246). -/
theorem giveSlot_noSides (noSides : issuedSides s j.ctx.cid.toNat = 0) :
    let k : SearchJob := { j with slot := some n, sideSources := [] }
    let t := s.modSlot n (fun _ => { ReelSlot.free with
      busy := true, cmd := c.seq, queue := c.queue, tag := c.tag, ctx := some j.ctx })
    giveSlot s n c j = some (if j.lutDone then loadSlot t n c k else t.setCmd { c with job := .search k }) := by
  simp only [giveSlot, noSides, if_true, Option.map_some]

theorem admitTo_first {rest : List (Cmd × SearchJob)} {t : State} (admits : (classMask s n).getLsbD j.rclass = true)
    (given : giveSlot s n c j = some t) : admitTo s n ((c, j) :: rest) = t := by
  simp only [admitTo, admits, given, if_true]

end Slots

/-- The waiting commands that no free slot below `n` admits, in order of class and then of admission. -/
def waitersFor (s : State) (n : Nat) : List (Cmd × SearchJob) :=
  (slotWaiters s).filter (fun k => !(List.range n).any (fun m => !(s.slot m).busy && (classMask s m).getLsbD k.2.rclass))

section SlotRow

variable {n : SlotId} {s : State} (running : unitStopped s 3 = false)
include running

theorem exec_slotAdmit_stays (kept : (s.slot n.val).busy = true ∨ s.pwr.withheld = true ∨ s.pwr.state ≠ 0) :
    exec (.slotAdmit n) s = .next s := by
  have stays : ((s.slot n.val).busy || s.pwr.withheld || decide (s.pwr.state ≠ 0)) = true := by
    simpa only [Bool.or_eq_true, decide_eq_true_eq, or_assoc] using kept
  simp only [exec, execSlotAdmit, running, stays, Bool.false_eq_true, if_false, if_true]

theorem exec_slotAdmit_free (free : (s.slot n.val).busy = false) (given : s.pwr.withheld = false) (run : s.pwr.state = 0) :
    exec (.slotAdmit n) s = .next (admitTo s n.val (waitersFor s n.val)) := by
  simp only [exec, execSlotAdmit, running, free, given, run, ne_eq, not_true_eq_false, decide_false, Bool.or_self,
    Bool.false_eq_true, if_false, waitersFor]

end SlotRow

/-! ## A block boundary of a Weevil (04 R104-R108, R121, R138-R140) -/

/-- A Weevil goes on at its boundary: the module is in Run, the Weevil is neither paused nor stalled nor passed through, and its stack
answers. -/
def Walks (s : State) (w : Nat) : Prop :=
  s.pwr.state = 0 ∧ (s.weevil w).paused = false ∧ (s.weevil w).stalled = false ∧ (s.weevil w).passThrough = false ∧
    (s.ctl (w / 32)).answering = true

theorem exec_scanBlock_of_ne_slotWord {f : ScanFail} (signature : ∀ n, f ≠ .slotWord n) (w : WeevilId) (s : State) :
    exec (.scanBlock w f) s = .next (scanStep s w.val f) := by
  cases f with
  | slotWord n => exact absurd rfl (signature n)
  | none | header | attr | group => rfl

section Boundary

variable {s : State} {w : Nat} {f : ScanFail}

theorem scanStep_held (held : s.pwr.state ≠ 0 ∨ (s.weevil w).paused = true ∨ (s.weevil w).stalled = true ∨
    (s.weevil w).passThrough = true ∨ (s.ctl (w / 32)).answering = false) : scanStep s w f = s := by
  refine if_pos ?_
  simpa only [Bool.or_eq_true, decide_eq_true_eq, Bool.not_eq_true', or_assoc] using held

theorem Walks.not_held (walks : Walks s w) : (decide (s.pwr.state ≠ 0) || (s.weevil w).paused || (s.weevil w).stalled ||
    (s.weevil w).passThrough || !(s.ctl (w / 32)).answering) = false := by
  obtain ⟨run, unpaused, unstalled, taking, answering⟩ := walks
  simp only [run, unpaused, unstalled, taking, answering, ne_eq, not_true_eq_false, decide_false, Bool.not_true, Bool.or_self]

variable (walks : Walks s w)
include walks

theorem scanStep_full (full : 512 ≤ (s.weevil w).out.length) : scanStep s w f = holdIfFull s w := by
  simp only [scanStep, walks.not_held, outLimit, full, Bool.false_eq_true, if_false, if_true]

variable (room : (s.weevil w).out.length < 512)
include room

theorem scanStep_repairs {h : Nat} {rest : List Nat} (repairs : (s.weevil w).repair = h :: rest) :
    scanStep s w f = holdIfFull (catchUp (s.modWeevil w (fun v => { v with repair := rest })) w h f) w := by
  simp only [scanStep, walks.not_held, outLimit, Nat.not_le.mpr room, repairs, Bool.false_eq_true, if_false]

variable (repaired : (s.weevil w).repair = [])
include repaired

theorem scanStep_emptyRing (empty : ring s w = []) :
    scanStep s w f = (slotsIn (s.weevil w).wslots 1 ++ slotsIn (s.weevil w).wslots 2).foldl (fun s n => leaveWeevil s w n)
      (s.modWeevil w (fun v => { v with paced := reelPaced s, level := (s.ctl (w / 32)).level })) := by
  have nowhere : walkAt (ring s w) (s.weevil w).pos = none := by rw [empty]; rfl
  simp only [scanStep, walks.not_held, outLimit, Nat.not_le.mpr room, repaired, nowhere, Bool.false_eq_true, if_false]

theorem scanStep_sweeps {h : Nat} {b : Block} (here : walkAt (ring s w) (s.weevil w).pos = some (h, b)) :
    scanStep s w f = holdIfFull (advance (notePaced (sweep (beginSlots (resumeAt s w h) w h (reelPaced s)) w h b f) w) w h) w := by
  simp only [scanStep, walks.not_held, outLimit, Nat.not_le.mpr room, repaired, here, Bool.false_eq_true, if_false]

end Boundary

/-- A double-bit error in a slot's words ends its command (04 R95). -/
theorem exec_scanBlock_slotWord {w : WeevilId} {n : SlotId} {s : State} {c : Cmd} (busy : (s.slot n.val).busy = true)
    (loaded : (s.slot n.val).loaded = true) (command : s.cmd (s.slot n.val).cmd = some c) :
    exec (.scanBlock w (.slotWord n)) s = .next (fail (clearSlot (noteRelease s c) n.val) c stFault) := by
  simp only [exec, execScanBlock, slotFault, busy, loaded, command, Bool.and_self, if_true]

/-! ## A held walk goes on (05 R151) -/

section Release

variable {w : WeevilId} {s : State}

theorem exec_backPressureRelease_stays (kept : (s.weevil w.val).stalled = false ∨ 512 ≤ (s.weevil w.val).out.length) :
    exec (.backPressureRelease w) s = .next s := by
  refine congrArg _ (if_neg ?_)
  rw [Bool.and_eq_true, decide_eq_true_eq, outLimit]
  rintro ⟨stalled, room⟩
  rcases kept with running | full
  · rw [running] at stalled
    contradiction
  · omega

theorem exec_backPressureRelease_resumes (stalled : (s.weevil w.val).stalled = true)
    (room : (s.weevil w.val).out.length < 512) :
    let t := s.modWeevil w.val (fun v => { v with stalled := false })
    exec (.backPressureRelease w) s = .next (if sealedPaced t then t else { t.draw.2 with
      sel.stallUs := Tab.mod 0 t.sel.stallUs (w.val / 32) (fun x => satAdd 32 x t.draw.1) }) := by
  simp only [exec, execBackPressureRelease, stalled, outLimit, room, decide_true, Bool.and_self, if_true]
  rfl

end Release

/-! ## A chunk boundary of a lap member (07 R245-R251) -/

/-- Place `k` of a list of `n` chunks, or the first place where the list has no place `k`. -/
def lapPos (k n : Nat) : Nat := if k < n then k else 0

/-- The slots that wait begin at chunk `k` (07 R248). -/
def beginLap (s : State) (e k : Nat) : State :=
  s.modEngine e (fun g => { g with
    lapSlots := (slotsIn g.lapSlots 1).foldl (fun a n =>
      Tab.mod WSlot.free a n (fun ws => { ws with phase := 2, start := k })) g.lapSlots })

/-- What a member has done with chunk `ch` at position `k` before it goes on. -/
def lapTaken (s : State) (g : LapGroup) (e k ch : Nat) (failed : Bool) : State :=
  lapChunkFor (if failed then noteChunk (beginLap s e k) ch g.cid else beginLap s e k) e ch failed

/-- The slots on a member that its way from chunk `k` to `k'` takes past their start leave, and it goes on. -/
def lapGoOn (s : State) (e k k' : Nat) : State :=
  let gone := (slotsIn (s.engine e).lapSlots 2).filter (fun n => passes k k' (Tab.get WSlot.free (s.engine e).lapSlots n).start)
  (gone.foldl (fun s n => leaveMember s e n) (if gone.isEmpty then s else lapCatchUp s e)).modEngine e (fun g => { g with
    chunkPos := k' })

theorem lapGoOn_none_passed {s : State} {e k k' : Nat}
    (staying : ∀ n ∈ slotsIn (s.engine e).lapSlots 2, passes k k' (Tab.get WSlot.free (s.engine e).lapSlots n).start = false) :
    lapGoOn s e k k' = s.modEngine e (fun g => { g with chunkPos := k' }) := by
  have none_gone : (slotsIn (s.engine e).lapSlots 2).filter
      (fun n => passes k k' (Tab.get WSlot.free (s.engine e).lapSlots n).start) = [] :=
    List.filter_eq_nil_iff.mpr fun n hn => Bool.eq_false_iff.mp (staying n hn)
  simp only [lapGoOn, none_gone, List.foldl_nil, List.isEmpty_nil, if_true]

section Lap

variable {s : State} {e : Nat} {failed : Bool}

theorem lapStep_stays (kept : groupOf s e = none ∨ s.pwr.state ≠ 0) : lapStep s e failed = s := by
  by_cases run : s.pwr.state = 0
  · have ungrouped : groupOf s e = none := kept.resolve_right (not_not_intro run)
    simp only [lapStep, run, ungrouped, ne_eq, not_true_eq_false, if_false]
  · exact if_pos run

variable {g : LapGroup} {i : Nat} (grouped : groupOf s e = some (g, i)) (run : s.pwr.state = 0)
include grouped run

theorem lapStep_noChunk (none_left : memberChunks s g i = []) :
    let t := lapCatchUp s e
    lapStep s e failed = (slotsIn (t.engine e).lapSlots 1 ++ slotsIn (t.engine e).lapSlots 2).foldl
      (fun s n => leaveMember s e n) t := by
  simp only [lapStep, grouped, run, none_left, ne_eq, not_true_eq_false, if_false, List.getElem?_nil]

/-- At chunk `ch` a member takes it for the slots on it and goes on. -/
theorem lapStep_chunk {ch : Nat} :
    let n := (memberChunks s g i).length
    let t := lapCatchUp s e
    let k := lapPos (t.engine e).chunkPos n
    (memberChunks s g i)[k]? = some ch → lapStep s e failed = lapGoOn (lapTaken t g e k ch failed) e k (lapPos (k + 1) n) := by
  intro n t k here
  simp only [k, t, n, lapPos] at here
  simp only [lapStep, grouped, run, here, ne_eq, not_true_eq_false, if_false]
  rfl

end Lap

/-! ## A threshold arrives (05 R154, R155) -/

section Threshold

variable {n : SlotId} {s : State} (running : unitStopped s 1 = false)
include running

theorem exec_thresholdReceive_unsent (p : Port) (unsent : Tab.get none s.sel.sent n.val = none) :
    exec (.thresholdReceive p n) s = .next s := by
  simp only [exec, execThresholdReceive, running, unsent, Bool.false_eq_true, if_false]

variable {th : Int} {x : SlotCtx} (sent : Tab.get none s.sel.sent n.val = some th) (ctx : (s.slot n.val).ctx = some x)
include sent ctx

theorem exec_thresholdReceive_weevil (w : WeevilId) : exec (.thresholdReceive (.weevil w) n) s =
    .next (s.modWeevil w.val (fun v => { v with wslots := Tab.mod WSlot.free v.wslots n.val (raise x th) })) := by
  simp only [exec, execThresholdReceive, running, sent, ctx, Bool.false_eq_true, if_false]

theorem exec_thresholdReceive_side (e : EngineId) : exec (.thresholdReceive (.side e) n) s =
    .next (s.modEngine e.val (fun g => { g with lapSlots := Tab.mod WSlot.free g.lapSlots n.val (raise x th) })) := by
  simp only [exec, execThresholdReceive, running, sent, ctx, Bool.false_eq_true, if_false]

end Threshold

/-- Settles O34: each row by the case that its slot, Weevil, lap member or port meets. -/
theorem scansWalk : Obligations.ScansWalk := by
  refine ⟨fun n s running => ⟨exec_slotAdmit_stays running, ?admitted⟩, fun w f s signature => ?boundary,
    fun w n c s => exec_scanBlock_slotWord,
    fun w s => ⟨exec_backPressureRelease_stays, exec_backPressureRelease_resumes⟩,
    fun e failed s => ⟨fun kept => congrArg _ (lapStep_stays kept),
      fun g i grouped run none_left => congrArg _ (lapStep_noChunk grouped run none_left)⟩,
    fun e failed s g i ch grouped run => ?chunk,
    fun n s running => ⟨exec_thresholdReceive_unsent running, fun th x sent ctx =>
      ⟨exec_thresholdReceive_weevil running sent ctx, exec_thresholdReceive_side running sent ctx⟩⟩⟩
  case admitted =>
    intro c j rest free given run waiters admits noSides
    have first : waitersFor s n.val = (c, j) :: rest := waiters
    rw [exec_slotAdmit_free running free given run, first, admitTo_first admits (giveSlot_noSides noSides)]
  case boundary =>
    rw [exec_scanBlock_of_ne_slotWord signature]
    exact ⟨fun held => congrArg _ (scanStep_held held), fun walks full => congrArg _ (scanStep_full walks full),
      fun walks room repaired empty => congrArg _ (scanStep_emptyRing walks room repaired empty),
      fun h rest walks room repairs => congrArg _ (scanStep_repairs walks room repairs),
      fun h b walks room repaired here => congrArg _ (scanStep_sweeps walks room repaired here)⟩
  case chunk =>
    intro cs t k k' begun u here staying
    exact congrArg _ ((lapStep_chunk grouped run here).trans (lapGoOn_none_passed staying))

end Sys2Proof.Machine
end

section
/-! PROOFS. The selector's ports (05 R147-R171) and what refine and payload return bring back (05 R161, 06 R195, 12 R417): what a
CAND, STATS or LEAVE entry does to the half that takes it, what a Borer's read comes to, and how a search takes a score or a payload. -/

namespace Sys2Proof.Machine

/-! ## A candidate in a half (05 R159, R160) -/

section Half

variable {s : State} {i n : Nat} {x : SlotCtx} {e : Cand}

theorem onCand_inserts (fresh : (halfAt s i).held.find? (fun d => d.vid = e.vid) = none)
    (room : (halfAt s i).held.length < x.n) :
    onCand s i n x e = setHalf s i { halfAt s i with
      total := (halfAt s i).total + b2n x.range, held := insertCand e (halfAt s i).held } := by
  simp only [onCand, fresh, room, if_true]

/-- A copy that does not win leaves the selection: TOTAL counted it on entry and gives it back. -/
theorem onCand_keeps {d : Cand} (held : (halfAt s i).held.find? (fun d => d.vid = e.vid) = some d)
    (wins : (resolveDup d e).1 = d) :
    onCand s i n x e = noteDup (setHalf s i { halfAt s i with dupInc := (halfAt s i).dupInc || (resolveDup d e).2 }) x
      (resolveDup d e).2 (decide (d.version = e.version)) := by
  simp only [onCand, held, wins, ne_eq, not_true_eq_false, decide_false, Bool.false_and, Bool.or_false, if_true,
    Nat.add_sub_cancel]

end Half

/-! ## The entry first at a port (05 R147, R149, R152, R171) -/

section Ports

variable {p : Port} {s : State} (running : unitStopped s 1 = false)
include running

theorem exec_chain_empty (empty : portOut s p = []) :
    exec (.chainCand p) s = .next s ∧ exec (.chainStats p) s = .next s ∧ exec (.chainLeave p) s = .next s := by
  refine ⟨?_, ?_, ?_⟩
  · simp only [exec, execChainCand, running, empty, Bool.false_eq_true, if_false]
  · simp only [exec, execChainStats, running, empty, Bool.false_eq_true, if_false]
  · simp only [exec, execChainLeave, running, empty, Bool.false_eq_true, if_false]

section Candidate

variable {n : Nat} {c : Cand} {rest : List Entry} (first : portOut s p = .cand n c :: rest)
include first

variable {x : SlotCtx} (ctx : ((popPort s p).slot n).ctx = some x)
include ctx

theorem exec_chainCand_noBlock (noBlock : resolveCand (popPort s p) p c = none) :
    exec (.chainCand p) s = .next (popPort s p) := by
  simp only [exec, execChainCand, running, first, ctx, noBlock, Bool.false_eq_true, if_false]

variable {e : Cand} (resolved : resolveCand (popPort s p) p c = some e)
include resolved

theorem exec_chainCand_poisoned {a : Nat} {hide : Bool} (poisoned : poisonedEntry (popPort s p) p c = some (a, hide)) :
    exec (.chainCand p) s = .next (lineFault (popPort s p) n a hide) := by
  simp only [exec, execChainCand, running, first, ctx, resolved, poisoned, Bool.false_eq_true, if_false]

theorem exec_chainCand_clean (clean : poisonedEntry (popPort s p) p c = none) :
    exec (.chainCand p) s = .next (onCand (countEntry (popPort s p) p n x) (portHalf p * 32 + n) n x e) := by
  simp only [exec, execChainCand, running, first, ctx, resolved, clean, Bool.false_eq_true, if_false]

end Candidate

theorem exec_chainStats_adds {n k : Nat} {u : Tally} {rest : List Entry} (first : portOut s p = .stats n k u :: rest) :
    let h := halfAt s (portHalf p * 32 + n)
    exec (.chainStats p) s = .next (setHalf (countPassed (popPort s p) p n) (portHalf p * 32 + n)
      { h with tally := h.tally.addStats u }) := by
  simp only [exec, execChainStats, running, first, Bool.false_eq_true, if_false]

end Ports

/-- A LEAVE has left its port: its counts and its source's marks (log 76) are in the half, with one source left more. -/
def leaveTaken (s : State) (p : Port) (n : Nat) (u : Tally) : State :=
  let h := halfAt s (portHalf p * 32 + n)
  setHalf (countPassed (popPort s p) p n) (portHalf p * 32 + n) { h with
    tally := h.tally.addLeave { u with clip := (portMarks s p n).1, integ := (portMarks s p n).2 }, left := h.left + 1 }

section Leave

variable {p : Port} {s : State} {n : Nat} {u : Tally} {rest : List Entry} (running : unitStopped s 1 = false)
  (first : portOut s p = .leave n u :: rest)
include running first

theorem exec_chainLeave_noCmd (gone : (leaveTaken s p n u).cmd ((leaveTaken s p n u).slot n).cmd = none) :
    exec (.chainLeave p) s = .next (leaveTaken s p n u) := by
  unfold leaveTaken at gone ⊢
  simp only [exec, execChainLeave, running, first, gone, Bool.false_eq_true, if_false]

theorem exec_chainLeave_search {c : Cmd} {j : SearchJob}
    (command : (leaveTaken s p n u).cmd ((leaveTaken s p n u).slot n).cmd = some c) (search : c.job = .search j)
    (busy : ((leaveTaken s p n u).slot n).busy = true) :
    exec (.chainLeave p) s = .next (if scanComplete (leaveTaken s p n u) n j.sideSources
      then scanDone (leaveTaken s p n u) n c j else leaveTaken s p n u) := by
  unfold leaveTaken at command busy ⊢
  simp only [exec, execChainLeave, running, first, command, search, busy, Bool.true_and, Bool.false_eq_true, if_false]

end Leave

/-- Settles O35: each row by the entry that stands first at its port, a candidate by what the exit port and the half make of it. -/
theorem selectorsTakeEntries : Obligations.SelectorsTakeEntries := by
  intro p s running
  refine ⟨exec_chain_empty running, ?candidate, fun n k u rest first => exec_chainStats_adds running first,
    fun n u rest first => ⟨exec_chainLeave_noCmd running first, fun c j => exec_chainLeave_search running first⟩⟩
  case candidate =>
    intro n c x rest first ctx
    refine ⟨exec_chainCand_noBlock running first ctx,
      fun e a hide resolved => exec_chainCand_poisoned running first ctx resolved, ?clean⟩
    intro e resolved clean t i h
    have taken := exec_chainCand_clean running first ctx resolved clean
    exact ⟨fun fresh room => taken.trans (congrArg _ (onCand_inserts fresh room)),
      fun d held wins => taken.trans (congrArg _ (onCand_keeps held wins))⟩

/-! ## A Borer's read and its result (05 R161, 06 R195, R201, R205) -/

section Refine

variable {b : ChannelId} {s : State}

theorem exec_refineReadDone_noJob (o : FlashRead) (idle : (s.channel b.val).jobs = []) :
    exec (.refineReadDone b o) s = .next s := by
  simp only [exec, execRefineReadDone, idle, ite_self]

theorem exec_refineResult_noResult (idle : (s.channel b.val).results = []) : exec (.refineResult b) s = .next s := by
  simp only [exec, execRefineResult, idle, ite_self]

variable (run : s.pwr.state = 0) {c : Cmd} {j : SearchJob} (search : c.job = .search j)
include run search

theorem exec_refineReadDone_scores (o : FlashRead) {r : RefineJob} {rest : List RefineJob}
    (first : (s.channel b.val).jobs = r :: rest) :
    let t := s.modChannel b.val (fun k => settleKeys s { k with jobs := rest })
    let u := endRead t (slotFlas t r.slot) j.ctx.sealed (readOutcome t (slotFlas t r.slot) o)
    let v := refineOne j.ctx (if (s.channel b.val).keys then slotUnder u j.ctx.cid.toNat r.vid r.version.toNat r.slot else none)
      r.vid r.version
    t.cmd r.cmd = some c → r.surplus = false →
    exec (.refineReadDone b o) s = .next (u.modChannel b.val (fun k => { k with
      results := k.results ++ [⟨r.cmd, r.vid, r.version, v⟩]
      excl := if v.isNone && !j.ctx.sealed then satAdd 16 k.excl 1 else k.excl })) := by
  intro t u v command wanted
  simp only [exec, execRefineReadDone, run, first, ne_eq, not_true_eq_false, if_false]
  simp only [t] at command
  simp only [command, search, wanted, Option.bind_some, Bool.false_eq_true, if_false, t, u, v]

theorem exec_refineResult_takes {r : RefineRes} {rest : List RefineRes} {e : Cand}
    (first : (s.channel b.val).results = r :: rest) :
    let t := s.modChannel b.val (fun k => { k with results := rest })
    let w := r.score.map (fun v => if j.ctx.params.metric = 2 then v ^^^ 0x80000000#32 else v)
    let k : SearchJob := { j with scored := j.scored ++ [⟨e, w⟩], integ := j.integ || w.isNone, awaiting := j.awaiting - 1 }
    t.cmd r.cmd = some c → j.result.find? (fun e => e.vid = r.vid && e.version = r.version) = some e →
    exec (.refineResult b) s = .next (if j.awaiting ≤ 1 then refineDone t c k else t.setCmd { c with job := .search k }) := by
  intro t w k command held
  have last : j.awaiting - 1 = 0 ↔ j.awaiting ≤ 1 := Nat.sub_eq_zero_iff_le
  simp only [exec, execRefineResult, run, first, ne_eq, not_true_eq_false, if_false]
  simp only [t] at command
  simp only [readBack, command, search, held, last, t, k, w]

end Refine

/-! ## Payload return (12 R417, 06 R188, R197, R206) -/

/-- The slot at an address has a payload: its PAYLOAD_LEN is not 0. -/
@[reducible] def HasPayload (s : State) (a : W64) : Prop := ((slotHeld s a).map (·.payLen)).getD 0 ≠ 0

/-- The units of the read that is due for a slot's payload: those of its record once the offset table is read, the table's first. -/
def dueUnits (s : State) (j : SearchJob) (a : W64) : List Nat :=
  if j.offsetRead then payloadFlas s a else [offsetUnit s a]

section Payload

variable {s : State} {c : Cmd} {j : SearchJob} {o : FlashRead}

/-- The payload joins those at hand, and the last one that the search has to make completes it. -/
theorem payloadIn_eq (p : List Byte) (bad : Bool) :
    let k : SearchJob := { j with payloads := j.payloads ++ [p], offsetRead := false, integ := j.integ || bad }
    payloadIn s c j p bad = if j.payloads.length + 1 = payloadReads c j.final.length j.ctx.k then
        endSearch s c k ⟨k.final, k.tiesN, nonfiniteCount k, (refinedOrder k).length⟩
      else s.setCmd { c with job := .search k } := by
  simp only [payloadIn, List.length_append, List.length_singleton]

section Table

variable {a : W64}

theorem offsetIn_lost : offsetIn s c j (some a) .lost = payloadIn s c j [] true := by
  simp only [offsetIn, decide_true, Option.isSome_some, Bool.and_self, if_true]

variable (kept : o ≠ .lost)
include kept

theorem offsetIn_record (payload : HasPayload s a) :
    offsetIn s c j (some a) o = s.setCmd { c with job := .search { j with offsetRead := true } } := by
  simp only [offsetIn, kept, payload, Option.any_some, ne_eq, not_false_eq_true, decide_false, decide_true, Bool.false_and,
    Bool.true_or, Bool.false_eq_true, if_false, if_true]

theorem offsetIn_noRecord (empty : ¬ HasPayload s a) (bare : c.isSealed = false) :
    offsetIn s c j (some a) o = payloadIn s c j [] false := by
  simp only [offsetIn, kept, empty, bare, Option.any_some, decide_false, Bool.false_and, Bool.or_self,
    Bool.false_eq_true, if_false]

end Table

section Record

variable {e : Cand × W32}

theorem recordIn_noRecord (empty : ¬ HasPayload s e.1.slot) : recordIn s c j (some e) o = payloadIn s c j [] false := by
  simp only [recordIn, empty, decide_false, Bool.not_false, if_true]

variable (payload : HasPayload s e.1.slot)
include payload

theorem recordIn_lost : recordIn s c j (some e) .lost = payloadIn s c j [] true := by
  simp only [recordIn, payload, ne_eq, not_false_eq_true, decide_true, Bool.not_true, Bool.false_eq_true, if_false, if_true]

variable (kept : o ≠ .lost)
include kept

theorem recordIn_checked {p : PayRec} (checked : payloadUnder s j.ctx.cid.toNat e.1.vid e.1.version e.1.slot = some p) :
    recordIn s c j (some e) o = payloadIn s c j p.bytes false := by
  simp only [recordIn, payload, kept, checked, ne_eq, not_false_eq_true, decide_true, Bool.not_true, Bool.false_eq_true, if_false]

theorem recordIn_fails (fails : payloadUnder s j.ctx.cid.toNat e.1.vid e.1.version e.1.slot = none) :
    recordIn s c j (some e) o = payloadIn s c j [] true := by
  simp only [recordIn, payload, kept, fails, ne_eq, not_false_eq_true, decide_true, Bool.not_true, Bool.false_eq_true, if_false]

end Record

/-- An unsealed search, or an entry with a payload, reads for the entry's own slot (13 R472). -/
theorem payloadAim_own {e : Cand × W32} (own : c.isSealed = false ∨ HasPayload s e.1.slot) :
    payloadAim s c j (some e) = (s, some e.1.slot) := by
  rcases own with bare | payload
  · simp only [payloadAim, bare, Bool.false_and, Bool.false_eq_true, if_false, Option.map_some]
  · simp only [payloadAim, payload, Option.map_some, Option.any_some, ne_eq, not_false_eq_true, decide_true, Bool.not_true,
      Bool.and_false, Bool.false_eq_true, if_false]

end Payload

section PayloadRow

variable {q : QueueId} {t : TagId} {o : FlashRead} {s : State}

theorem exec_payloadReadDone_noCmd (free : s.cmdAt q.val t.val = none) : exec (.payloadReadDone q t o) s = .next s := by
  simp only [exec, execPayloadReadDone, free, ite_self]

variable (run : s.pwr.state = 0) {c : Cmd} {j : SearchJob} (command : s.cmdAt q.val t.val = some c)
  (returning : c.phase = .payload) (search : c.job = .search j)
include run command returning search

theorem exec_payloadReadDone_aborted (aborted : j.aborted = true) :
    exec (.payloadReadDone q t o) s = .next (fail (noteRelease s c) c stAborted) := by
  simp only [exec, execPayloadReadDone, run, command, returning, search, aborted, ne_eq, not_true_eq_false, if_false, if_true]

/-- The read that is due is over: of the record's units once the table is read, of the table's else. -/
theorem exec_payloadReadDone_reads {e : Cand × W32} (going : j.aborted = false) (due : j.final[j.payloads.length]? = some e)
    (own : c.isSealed = false ∨ HasPayload s e.1.slot) :
    let fs := dueUnits s j e.1.slot
    let o' := readOutcome s fs o
    let u := endRead s fs c.isSealed o'
    exec (.payloadReadDone q t o) s =
      .next (settleAll (if j.offsetRead then recordIn u c j (some e) o' else offsetIn u c j (some e.1.slot) o')) := by
  simp only [exec, execPayloadReadDone, run, command, returning, search, going, due, payloadAim_own own, dueUnits, ne_eq,
    not_true_eq_false, Bool.false_eq_true, if_false, Option.map_some, Option.getD_some]

end PayloadRow

/-- Settles O36: a Borer's rows by what stands first at it, payload return by which read is over and what it brought. -/
theorem refineReturns : Obligations.RefineReturns := by
  refine ⟨fun b o s => ⟨exec_refineReadDone_noJob o, exec_refineResult_noResult,
      fun r rest c j run first command search wanted =>
        exec_refineReadDone_scores run search o first command wanted,
      fun r rest c j e run first command search held => exec_refineResult_takes run search first command held⟩,
    fun q t o s => ⟨exec_payloadReadDone_noCmd, fun c j run command returning search =>
      ⟨exec_payloadReadDone_aborted run command returning search, ?payload⟩⟩⟩
  case payload =>
    intro e going due has own fs o' u returned
    have reads := exec_payloadReadDone_reads (o := o) run command returning search going due own
    have comesIn (p : List Byte) (bad : Bool) : settleAll (payloadIn u c j p bad) = returned p bad :=
      congrArg settleAll (payloadIn_eq p bad)
    have tableRead {v : State} (first : j.offsetRead = false) (comes : offsetIn u c j (some e.1.slot) o' = v) :
        exec (.payloadReadDone q t o) s = .next (settleAll v) :=
      reads.trans (congrArg (fun v => Host.Outcome.next (settleAll v)) ((if_neg (Bool.eq_false_iff.mp first)).trans comes))
    have recordRead {v : State} (second : j.offsetRead = true) (comes : recordIn u c j (some e) o' = v) :
        exec (.payloadReadDone q t o) s = .next (settleAll v) :=
      reads.trans (congrArg (fun v => Host.Outcome.next (settleAll v)) ((if_pos second).trans comes))
    refine ⟨fun first lost => ?_, fun first kept payload => tableRead first (offsetIn_record kept payload),
      fun first kept empty bare => ?_, fun second empty => ?_, fun second payload lost => ?_,
      fun second payload kept => ?_⟩
    · rw [tableRead first (lost ▸ offsetIn_lost), comesIn]
    · rw [tableRead first (offsetIn_noRecord kept empty bare), comesIn]
    · rw [recordRead second (recordIn_noRecord empty), comesIn]
    · rw [recordRead second (lost ▸ recordIn_lost payload), comesIn]
    · cases record : payloadUnder u j.ctx.cid.toNat e.1.vid e.1.version e.1.slot with
      | some p => exact (recordRead second (recordIn_checked payload kept record)).trans (congrArg _ (comesIn p.bytes false))
      | none => exact (recordRead second (recordIn_fails payload kept record)).trans (congrArg _ (comesIn [] true))

end Sys2Proof.Machine
end

section
/-! PROOFS. The settings whose bounds depend on what is in use (06 R185, 07 R257, 11 R399, 16 R551): with every field open, a write
outside them answers the same state. A write of ENG_CTL is refused by a count of LAPOK over the engine table as the write would leave
it, so the table must read back what was written. -/

namespace Sys2Proof.Machine

/-! ## A table reads back a value that it lists -/

/-- A value other than the default is listed where it is written, so it is read back, and every other number reads as before,
whether or not the table was canonical. -/
theorem Tab.get_set_of_ne_default {α : Type} [DecidableEq α] {d v : α} (listed : v ≠ d) (n m : Nat) :
    (t : Tab α) → Tab.get d (Tab.set d t n v) m = if m = n then v else Tab.get d t m
  | [] => by grind [Tab.set, Tab.get]
  | (k, w) :: t => by
    have behind := Tab.get_set_of_ne_default listed n m t
    rcases lt_trichotomy n k with before | here | after
    · simp only [Tab.set, if_pos before, if_neg listed, Tab.get]
      grind
    · simp only [Tab.set, if_neg here.not_lt, if_pos here, if_neg listed, Tab.get]
      grind
    · simp only [Tab.set, if_neg after.not_gt, if_neg after.ne', Tab.get, behind]
      grind

/-- An engine with LAPOK cleared is not what an unlisted engine reads as, so it is listed and reads back. -/
theorem lapok_modEngine {s : State} {e : Nat} {f : Engine → Engine} (cleared : (f (s.engine e)).lapok = false) (m : Nat) :
    ((s.modEngine e f).engine m).lapok = (decide (m ≠ e) && (s.engine m).lapok) := by
  have listed : f (s.engine e) ≠ Engine.initial := fun h => Bool.noConfusion (cleared.symm.trans (congrArg Engine.lapok h))
  have reads : (s.modEngine e f).engine m = if m = e then f (s.engine e) else s.engine m :=
    Tab.get_set_of_ne_default listed e m s.eng.engines
  by_cases h : m = e
  · rw [reads, if_pos h, cleared, h, decide_eq_false (not_not_intro rfl), Bool.false_and]
  · rw [reads, if_neg h, decide_eq_true h, Bool.true_and]

/-- The engines of a half that count once one of them has LAPOK cleared are the others with LAPOK set. -/
theorem lapokIn_modEngine {s : State} {e : Nat} {f : Engine → Engine} (cleared : (f (s.engine e)).lapok = false) (h : Nat) :
    lapokIn (s.modEngine e f) h =
      ((List.range 24).filter (fun i => decide (24 * h + i ≠ e) && (s.engine (24 * h + i)).lapok)).length := by
  simp only [lapokIn, lapok_modEngine cleared]

/-! ## Values out of bounds -/

section Refused

variable {s : State} {v : W64}

theorem exec_fcdCfgWrite_refused (u : unlocked s (csrDpa 0x70 8))
    (h : ¬ (1 ≤ bits v.toNat 0 8 ∧ bits v.toNat 0 8 ≤ engbackMax ∧ backUnits s ≤ bits v.toNat 0 8)) :
    exec (.fcdCfgWrite v) s = .next s := by
  simp only [exec, execFcdCfgWrite, putFcdCfg, take_open (softOpen_of_unlocked u _ _), if_neg h, ite_self]

theorem exec_schedCfgWrite_refused (u : unlocked s (csrDpa 0x62 0))
    (h : ¬ (1 ≤ bits v.toNat 0 4 ∧ bits v.toNat 0 4 ≤ 8 ∧ 1 ≤ bits v.toNat 4 4 ∧ bits v.toNat 4 4 ≤ 8 ∧
      8 + bits v.toNat 0 4 ≤ lapokIn s 0 ∧ 8 + bits v.toNat 4 4 ≤ lapokIn s 1)) :
    exec (.schedCfgWrite v) s = .next s := by
  simp only [exec, execSchedCfgWrite, putSchedCfg, take_open (softOpen_of_unlocked u _ _), if_neg h, ite_self]

theorem exec_pcieCfgWrite_refused (u : unlocked s (csrDpa 0xA1 0))
    (h : ¬ (bits v.toNat 16 10 + bits v.toNat 32 11 ≤ 1024 ∧ bits v.toNat 2 2 ≠ 3)) :
    exec (.pcieCfgWrite v) s = .next s := by
  simp only [exec, execPcieCfgWrite, putPcieCfg, take_open (softOpen_of_unlocked u _ _), if_neg h, ite_self]

/-- LAPOK stays set where fewer than 8 other engines of the half have it (R257). -/
theorem putEngCtl_refused {e : Nat} {o : Open} {v : Nat} (opened : o 1 1 = true) (lapok : (s.engine e).lapok = true)
    (clears : bit v 1 = false)
    (few : ((List.range 24).filter (fun i => decide (24 * (e / 24) + i ≠ e) && (s.engine (24 * (e / 24) + i)).lapok)).length < 8) :
    putEngCtl e o v s = s := by
  have written : takeBit o v 1 true = false := by rw [takeBit, if_pos opened, clears]
  rw [putEngCtl, lapok, written, lapokIn_modEngine (by rfl)]
  exact if_pos (decide_eq_true few)

end Refused

/-- Settles O13: each value named lies outside the register's one check; that of ENG_CTL counts the other engines of the half. -/
theorem boundedSettingsStay : Obligations.BoundedSettingsStay := by
  intro v s
  refine ⟨fun u h => ?_, fun u h => ?_, fun u h => ?_, fun e u lapok clears few => ?_⟩
  · exact exec_fcdCfgWrite_refused u (by omega)
  · exact exec_schedCfgWrite_refused u (by omega)
  · exact exec_pcieCfgWrite_refused u (by omega)
  · have kept := putEngCtl_refused (softOpen_of_unlocked u 1 1) lapok clears few
    exact ⟨by rw [exec, execEngCtlLapok, kept, ite_self], by rw [exec, execEngCtlDrain, kept, ite_self]⟩

end Sys2Proof.Machine
end

section
/-! PROOFS. The page store's own work (06 R181-R183, R190, R200, R205-R208): when an open row is programmed, what a patrol scrub
reads and moves, and when garbage collection and wear relocation move objects and erase. -/

namespace Sys2Proof.Machine

/-! ## Open rows (06 R182, R183) -/

/-- The channel that a row skips once it is programmed: the one it skipped before, else the first that is out (log 34). -/
def programSkip (s : State) (row : Nat) : Option Nat := if (rowSkip s row).isSome then rowSkip s row else skipNow s

/-- The objects that move out before the row is programmed: those on its column 29, where the skipped channel is first skipped now. -/
def programOut (s : State) (row : Nat) : List (Nat × Nat) :=
  if programSkip s row = rowSkip s row then [] else lastColumn s row

/-- The row holds what is placed in it for good, and skips that channel. -/
def programRow (t : State) (row : Nat) (skip : Option Nat) : State := { t with
  flash.rows := Tab.mod Row.initial t.flash.rows row (fun r => { r with openRow := false, begun := true, skip := skip }) }

section OpenRow

variable {s : State} {row : Nat}

theorem exec_openRowProgram_waits
    (h : asleep s = true ∨ (rowAt s row).openRow = false ∨ (programOut s row ≠ [] ∧ addressHeld s = true)) :
    exec (.openRowProgram row) s = .next s := by
  unfold programOut programSkip at h
  refine congrArg Host.Outcome.next (if_pos ?_)
  simpa only [Bool.or_eq_true, Bool.and_eq_true, Bool.not_eq_true', List.isEmpty_eq_false_iff, or_assoc] using h

theorem exec_openRowProgram_programs (up : asleep s = false) (opened : (rowAt s row).openRow = true)
    (clear : programOut s row = [] ∨ addressHeld s = false) :
    exec (.openRowProgram row) s =
      .next (programRow ((programOut s row).foldl moveOut s) row (programSkip s row)) := by
  unfold programOut programSkip at clear ⊢
  refine congrArg Host.Outcome.next (if_neg ?_)
  simpa only [up, opened, Bool.not_true, Bool.false_or, Bool.and_eq_true, Bool.not_eq_true', List.isEmpty_eq_false_iff,
    not_and_or, ne_eq, not_not, Bool.not_eq_true] using clear

end OpenRow

/-! ## The patrol scrub (06 R205, R206, R208) -/

section Scrub

variable {s : State} {fla fresh : BitVec 40} {o : FlashRead} {high : Bool}

theorem exec_flashScrub_skipped (h : asleep s = true ∨ (rowAt s (flaRow fla.toNat)).openRow = true) :
    exec (.flashScrub fla o high fresh) s = .next s :=
  congrArg Host.Outcome.next (if_pos (Bool.or_eq_true _ _ ▸ h))

variable (up : asleep s = false) (programmed : (rowAt s (flaRow fla.toNat)).openRow = false)
include up programmed

theorem exec_flashScrub_lost (lost : readOutcome s [fla.toNat] o = .lost) :
    exec (.flashScrub fla o high fresh) s = .next (endRead s [fla.toNat] false (readOutcome s [fla.toNat] o)) := by
  simp only [exec, execFlashScrub, up, programmed, lost, Bool.or_self, Bool.false_eq_true, if_false, if_true]

variable (kept : readOutcome s [fla.toNat] o ≠ .lost)
include kept

/-- A scrub that need not or may not move an object has only read the unit. -/
theorem exec_flashScrub_reads (stays : high = false ∨ objectAt s fla.toNat = none ∨ addressHeld s = true) :
    exec (.flashScrub fla o high fresh) s = .next (endRead s [fla.toNat] false (readOutcome s [fla.toNat] o)) := by
  simp only [exec, execFlashScrub, up, programmed, Bool.or_self, Bool.false_eq_true, if_false, if_neg kept]
  cases object : objectAt s fla.toNat with
  | none => rfl
  | some run =>
    rcases stays with low | absent | held
    · simp only [low, Bool.false_and, Bool.false_eq_true, if_false]
    · exact absurd (object.symm.trans absent) (Option.some_ne_none run)
    · simp only [held, Bool.not_true, Bool.and_false, Bool.false_eq_true, if_false]

theorem exec_flashScrub_moves {lo n : Nat} (worn : high = true) (object : objectAt s fla.toNat = some (lo, n))
    (free : freeRun s fresh.toNat n = true) (unheld : addressHeld s = false) :
    exec (.flashScrub fla o high fresh) s =
      .next ((moveRun (endRead s [fla.toNat] false (readOutcome s [fla.toNat] o)) lo n fresh.toNat).modChannel
        (homeChannel s fla.toNat) (fun c => { c with corrHi := satAdd 16 c.corrHi 1 })) := by
  simp only [exec, execFlashScrub, up, programmed, object, worn, free, unheld, Bool.or_self, Bool.not_false, Bool.and_self,
    Bool.false_eq_true, if_false, if_neg kept, if_true]

end Scrub

/-! ## Garbage collection and wear levelling (06 R181, R200, R207) -/

section Collection

variable {s : State} (running : unitStopped s 2 = false)
include running

theorem exec_garbageCollection_stays {fla : BitVec 40} (fresh : BitVec 40)
    (stays : objectAt s fla.toNat = none ∨ addressHeld s = true) : exec (.garbageCollection fla fresh) s = .next s := by
  simp only [exec, execGarbageCollection, running, Bool.false_eq_true, if_false]
  cases object : objectAt s fla.toNat with
  | none => rfl
  | some run =>
    have held := stays.resolve_left (object ▸ Option.some_ne_none run)
    simp only [held, Bool.not_true, Bool.and_false, Bool.false_eq_true, if_false]

theorem exec_garbageCollection_moves {fla fresh : BitVec 40} {lo n : Nat} (object : objectAt s fla.toNat = some (lo, n))
    (free : freeRun s fresh.toNat n = true) (unheld : addressHeld s = false) :
    let t := moveRun s lo n fresh.toNat
    exec (.garbageCollection fla fresh) s =
      .next (if superEmpty t (superOf lo) then retireWorn (eraseSuper t (superOf lo)) (superOf lo) else t) := by
  simp only [exec, execGarbageCollection, running, object, free, unheld, Bool.not_false, Bool.and_self, Bool.false_eq_true,
    if_false, if_true]

variable {sb fresh : Nat}

theorem exec_wearRelocation_stays
    (stays : addressHeld s = true ∨ wearLags s sb = false ∨ superEmpty s fresh = false ∨ packSuper s sb fresh = none) :
    exec (.wearRelocation sb fresh) s = .next s := by
  simp only [exec, execWearRelocation, running, Bool.false_eq_true, if_false]
  rcases stays with held | level | used | full
  · simp only [held, Bool.not_true, Bool.and_false, Bool.false_eq_true, if_false]
  · simp only [level, Bool.false_and, Bool.false_eq_true, if_false]
  · simp only [used, Bool.and_false, Bool.false_and, Bool.false_eq_true, if_false]
  · simp only [full, ite_self]

theorem exec_wearRelocation_packs {t : State} (unheld : addressHeld s = false) (lags : wearLags s sb = true)
    (empty : superEmpty s fresh = true) (packed : packSuper s sb fresh = some t) :
    exec (.wearRelocation sb fresh) s = .next (retireWorn (eraseSuper t sb) sb) := by
  simp only [exec, execWearRelocation, running, unheld, lags, empty, packed, Bool.not_false, Bool.and_self,
    Bool.false_eq_true, if_false, if_true]

end Collection

/-- Settles O39: each row by what holds it back, and else by what it moves. -/
theorem pageStoreWorks : Obligations.PageStoreWorks := by
  refine ⟨fun row s => ⟨exec_openRowProgram_waits, exec_openRowProgram_programs⟩,
    fun fla fresh o high s => ⟨exec_flashScrub_skipped, fun up programmed =>
      ⟨exec_flashScrub_lost up programmed, exec_flashScrub_reads up programmed,
        fun lo n kept => exec_flashScrub_moves up programmed kept⟩⟩,
    fun s running => ⟨fun fla fresh => ⟨exec_garbageCollection_stays running fresh, fun lo n =>
      exec_garbageCollection_moves running⟩, fun sb fresh =>
      ⟨exec_wearRelocation_stays running, fun t => exec_wearRelocation_packs running⟩⟩⟩

end Sys2Proof.Machine
end

section
/-! PROOFS. ENG_CTL and DRAINED (07 R256, R257): what a write that leaves LAPOK set makes of its engine, and which engine becomes
DRAINED. -/

namespace Sys2Proof.Machine

/-- The count of R257 is taken only where a write clears LAPOK: one that leaves it set is never refused. -/
theorem putEngCtl_lapok_set {s : State} {e : Nat} {o : Open} {v : Nat} (opened : o 1 1 = true) (leavesSet : bit v 1 = true) :
    putEngCtl e o v s = s.modEngine e (fun g => { g with
      lapok := true, drain := bit v 0 || (s.engine e).updating || (s.engine e).permanent,
      isDrained := g.isDrained && (bit v 0 || (s.engine e).updating || (s.engine e).permanent) }) := by
  have written : takeBit o v 1 (s.engine e).lapok = true := by rw [takeBit, if_pos opened, leavesSet]
  simp only [putEngCtl, written, Bool.not_true, Bool.and_false, Bool.false_and, Bool.false_eq_true, if_false]

section Drained

variable {s : State} {e : EngineId}

theorem exec_drained_done (drains : (s.engine e.val).drain = true) (done : (s.engine e.val).work = .idle) :
    exec (.drained e) s = .next (s.modEngine e.val (fun g => { g with isDrained := true, updating := updatesEngine s e.val })) := by
  simp only [exec, execDrained, drains, done, decide_true, Bool.and_self, if_true]

theorem exec_drained_stays (stays : (s.engine e.val).drain = false ∨ (s.engine e.val).work ≠ .idle) :
    exec (.drained e) s = .next s := by
  rcases stays with available | works
  · simp only [exec, execDrained, available, Bool.false_and, Bool.false_eq_true, if_false]
  · simp only [exec, execDrained, works, decide_false, Bool.and_false, Bool.false_eq_true, if_false]

end Drained

/-- Settles O15: the two rows of ENG_CTL are one write, and DRAINED turns on its one condition. -/
theorem engineDrainEffects : Obligations.EngineDrainEffects := by
  refine ⟨fun e v s up unheld leavesSet => ?_, fun e s => ⟨exec_drained_done, exec_drained_stays⟩⟩
  have effect := putEngCtl_lapok_set (s := s) (e := e.val) (softOpen_of_unlocked unheld 1 1) leavesSet
  exact ⟨by rw [exec_engCtlDrain up, effect], by rw [exec_engCtlLapok up, effect]⟩

end Sys2Proof.Machine
end

section
/-! PROOFS. The front end of an engine (07 R223-R239, 08 R262-R272, R309-R311): what one turn does with an instruction that nothing holds
back and that passes its checks, for the instructions that it executes itself and for those that it sends to a unit. -/

namespace Sys2Proof.Machine

/-! ## An instruction that issues (08 R262, R263) -/

section Issue

variable {s : State} {e : EngineId} {op : Nat} {u : OcUnit} {plan : State → Ctx → Iw → Plan} {c : Nat} {x : Ctx} {b : W64}

/-- Nothing ends the turn before the instruction goes: no fence is due, and its plan names no trap. -/
theorem turn_of_issues (h : Issues s e op u plan c x b) (known : opKnown op = true) :
    turn s e.val op u plan = .go c x b.toNat := by
  obtain ⟨runs, inBudget, fetched, isOp, moves, noFence, passes⟩ := h
  simp only [turn, runs, inBudget, fetched, isOp, known, moves, noFence, passes, Bool.not_true, ne_eq, not_true_eq_false,
    Bool.false_eq_true, if_false]

/-- An instruction that the front end executes itself leaves its effect on the context, counted, at the next PC. -/
theorem frontStep_of_issues {eff : State → Ctx → Iw → State × Ctx × Nat} {y : Ctx} {pc : Nat}
    (h : Issues s e op .front plan c x b) (does : eff s x b.toNat = (s, y, pc)) (known : opKnown op = true := by decide) :
    .next (frontStep s e.val op plan eff) = issuedTo s c y b pc := by
  simp only [frontStep, turn_of_issues h known, does, issuedTo]

theorem frontPure_of_issues {plan : Ctx → Iw → Plan} {eff : Ctx → Iw → Ctx} (h : Issues s e op .front (fun _ => plan) c x b)
    (known : opKnown op = true := by decide) :
    .next (frontPure s e.val op plan eff) = issuedTo s c (eff x b.toNat) b (x.pc + 8) :=
  frontStep_of_issues h rfl known

/-- An instruction of another unit stands last in its queue, with what the front end itself changes at issue. -/
theorem issueUnit_of_issues {front : Ctx → Iw → Ctx} (h : Issues s e op u plan c x b) (known : opKnown op = true := by decide) :
    .next (issueUnit s e.val op u plan front) =
      (.next (s.setCtx c (some (front (x.queued u b (plan s x b.toNat)) b.toNat))) : Host.Outcome State Fault Refusal) := by
  simp only [issueUnit, turn_of_issues h known, Ctx.queued]

end Issue

/-! ## Branches (08 R270) -/

/-- Two's complement of 64 bits is the signed value of a word. -/
theorem toSigned_toNat (v : W64) : toSigned 64 v.toNat = v.toInt := by
  have below := v.isLt
  rw [BitVec.toInt_eq_toNat_cond, toSigned]
  simp only [Nat.mod_eq_of_lt below]
  split <;> split <;> omega

/-- The condition of BR, by the number of Table 8.3. -/
theorem brTaken_eq (x : Ctx) (w : Iw) :
    let a := x.sreg (iBa w)
    let b := x.sreg (iBb w)
    (iCnd w = 0 → brTaken x w = decide (a = b)) ∧ (iCnd w = 1 → brTaken x w = decide (a ≠ b)) ∧
    (iCnd w = 2 → brTaken x w = decide (a.toInt < b.toInt)) ∧ (iCnd w = 3 → brTaken x w = decide (b.toInt ≤ a.toInt)) ∧
    (iCnd w = 4 → brTaken x w = decide (a.toNat < b.toNat)) ∧ (iCnd w = 5 → brTaken x w = decide (b.toNat ≤ a.toNat)) ∧
    (iCnd w = 6 → brTaken x w = true) := by
  refine ⟨?_, ?_, ?_, ?_, ?_, ?_, ?_⟩ <;> intro k <;>
    simp only [brTaken, k, condHolds, BitVec.toNat_inj, toSigned_toNat, ne_eq]

section Control

variable {s : State} {e : EngineId} {c : Nat} {x : Ctx} {b : W64}

theorem exec_br {taken : Bool} (cond : brTaken x b.toNat = taken) (h : Issues s e 0x40 .front (fun _ x w =>
      { Plan.front (iCnd w ≤ 6) (useS (iBa w) false ++ useS (iBb w) false) with addrOk := branchOk x w (brTaken x w) }) c x b) :
    exec (.br e) s = issuedTo s c x b (if taken then x.rel (iOff22 b.toNat) else x.pc + 8) := by
  subst cond
  exact frontStep_of_issues h rfl

section Loop

variable (h : Issues s e 0x43 .front (fun _ x w => { Plan.front (zeroF [iCnd w, iBb w]) (useS (iBa w) true) with
  addrOk := branchOk x w (x.sreg (iBa w) != 0) }) c x b)
include h

theorem exec_loop_ends (zero : x.sreg (iBa b.toNat) = 0) : exec (.loop e) s = issuedTo s c x b (x.pc + 8) :=
  frontStep_of_issues h (if_pos zero)

theorem exec_loop_branches (left : x.sreg (iBa b.toNat) ≠ 0) : exec (.loop e) s =
    issuedTo s c (x.setS (iBa b.toNat) (x.sreg (iBa b.toNat) - 1)) b (x.rel (iOff22 b.toNat)) :=
  frontStep_of_issues h (if_neg left)

end Loop

/-! ## Counters, fences and traps (07 R239, 08 R271, R309, R310) -/

section Rdcnt

variable (h : Issues s e 0x05 .front (fun _ => planSd (fun w => zeroF [iFa w, iFb w, iFc w] && iFn w ≤ 1)) c x b)
include h

theorem exec_rdcnt_counted (counted : iFn b.toNat = 0) :
    exec (.rdcnt e) s = issuedTo s c (x.setS (iFd b.toNat) (BitVec.ofNat 64 x.count)) b (x.pc + 8) :=
  frontStep_of_issues h (by simp only [counted, if_true])

theorem exec_rdcnt_left (left : iFn b.toNat = 1) (budget : x.budget ≠ 0) : exec (.rdcnt e) s =
    issuedTo s c (x.setS (iFd b.toNat) (BitVec.ofNat 64 (x.budget * 2 ^ 20 - x.count))) b (x.pc + 8) :=
  frontStep_of_issues h (by simp only [left, budget, one_ne_zero, if_false, Ctx.limit])

end Rdcnt

theorem exec_fence_empties (h : Issues s e 0xF1 .front (fun _ => planNone) c x b) (noneLeft : x.ops = []) :
    exec (.fence e) s = issuedTo s c { x with regHaz := [], sramHaz := [] } b (x.pc + 8) := by
  have runs : runningOn s e.val = some (c, x) := h.1
  simp only [exec, execFence, runs, List.isEmpty_iff.2 noneLeft, if_true]
  exact frontPure_of_issues h

theorem exec_fence_waits (runs : runningOn s e.val = some (c, x)) (left : x.ops ≠ []) : exec (.fence e) s = .next s := by
  simp only [exec, execFence, runs, List.isEmpty_eq_false_iff.2 left, Bool.false_eq_true, if_false]

theorem exec_trap_software (h : Issues s e 0x02 .front (fun _ _ w => Plan.front (zeroF [iFd w, iFa w]) []) c x b) :
    exec (.trap e) s = .next (trapCtx s c x ⟨x.pc, 0x09, .front, bits b.toNat 0 25, 0, 0⟩) := by
  simp only [exec, execTrap, turn_of_issues h (by decide), issueTrap, tcSoftware]

theorem exec_budgetReached_stops (runs : runningOn s e.val = some (c, x)) (budget : x.budget ≠ 0)
    (reached : x.budget * 2 ^ 20 ≤ x.count) :
    exec (.budgetReached e) s = .next (trapCtx s c x ⟨x.pc, 0x20, .front, 0, 0, 0⟩) := by
  have spent : x.spent = true := decide_eq_true ⟨budget, reached⟩
  simp only [exec, execBudgetReached, runs, spent, if_true, fcBudget]

end Control

/-- Settles O44: each row is one turn of the front end, whose effect the row names. -/
theorem controlFlow : Obligations.ControlFlow := by
  intro e s c x b w next fa bra va vb
  obtain ⟨eq, ne, lt, ge, ltu, geu, always⟩ := brTaken_eq x w
  refine ⟨frontPure_of_issues, frontPure_of_issues, exec_fence_empties, exec_fence_waits, frontPure_of_issues,
    frontPure_of_issues, frontPure_of_issues, fun h => ⟨exec_rdcnt_counted h, exec_rdcnt_left h⟩, ?_,
    fun h => frontStep_of_issues h rfl, fun h => frontStep_of_issues h rfl,
    fun h => ⟨exec_loop_ends h, exec_loop_branches h⟩, exec_trap_software, exec_budgetReached_stops⟩
  rintro plan rfl
  exact ⟨fun k => exec_br (eq k), fun k => exec_br (ne k), fun k => exec_br (lt k), fun k => exec_br (ge k),
    fun k => exec_br (ltu k), fun k => exec_br (geu k), fun k => exec_br (always k)⟩

end Sys2Proof.Machine
end

section
/-! PROOFS. The queues of the units (07 R223, R227, R228, 08 R273-R308, R311): an instruction that issues stands last in its queue, and what
the front end itself changes for the open tile, for a copy of nothing, for an AADDT's tile and for declared windows. -/

namespace Sys2Proof.Machine

variable {s : State} {e : EngineId} {c : Nat} {x : Ctx} {b : W64}

/-! ## What a queued instruction leaves (07 R227, R228) -/

section Queued

variable (x) (u : OcUnit) (b : W64) (p : Plan)

@[simp] theorem Ctx.ops_queued : (x.queued u b p).ops = x.ops ++ [capture x u b.toNat] := rfl
@[simp] theorem Ctx.sreg_queued (n : Nat) : (x.queued u b p).sreg n = x.sreg n := rfl
@[simp] theorem Ctx.treg_queued (n : Nat) : (x.queued u b p).treg n = x.treg n := rfl
@[simp] theorem Ctx.live_queued : (x.queued u b p).live = x.live := rfl

end Queued

/-! ## LDIST (08 R291, R293) -/

/-- The bytes that LDIST checks stand once its own wait set is met. -/
theorem exec_ldist_settled (h : Issues s e 0x90 .lut planLdist c x b) (met : waitMet x.ops b.toNat = true) :
    exec (.ldist e) s = .next (s.setCtx c (some (x.queued .lut b (planLdist s x b.toNat)))) := by
  have settled : lutSettled s e.val = true := by
    obtain ⟨runs, -, fetched, -⟩ := h
    simp only [lutSettled, runs, fetched, Option.all_some, met]
  simp only [exec, execLdist, settled, if_true]
  exact issueUnit_of_issues h

/-! ## DCPY (08 R302) -/

section Dcpy

variable (h : Issues s e 0xC2 .dma planDcpy c x b)
include h

theorem exec_dcpy_queues (nonempty : x.sreg (iFb b.toNat) ≠ 0) :
    exec (.dcpy e) s = .next (s.setCtx c (some (x.queued .dma b (planDcpy s x b.toNat)))) := by
  refine (issueUnit_of_issues h).trans ?_
  simp only [atOnce, Ctx.sreg_queued, nonempty, decide_false, Bool.false_and, Bool.false_eq_true, if_false, same]

/-- Nothing is outstanding that it could wait for, so a copy of no bytes leaves its queue as it issues. -/
theorem exec_dcpy_of_nothing (empty : x.sreg (iFb b.toNat) = 0) (idle : x.ops = []) :
    exec (.dcpy e) s = .next (s.setCtx c (some { x.queued .dma b (planDcpy s x b.toNat) with ops := [] })) := by
  refine (issueUnit_of_issues h).trans ?_
  have met : waitMet [] b.toNat = true := rfl
  simp only [atOnce, Ctx.sreg_queued, empty, decide_true, Ctx.ops_queued, idle, List.nil_append, List.dropLast_singleton, met,
    Bool.and_self, if_true, same]

end Dcpy

/-! ## AADDT (08 R305) -/

theorem exec_aaddt_queues (h : Issues s e 0xD1 .dma planAaddt c x b) : exec (.aaddt e) s =
    .next (s.setCtx c (some { x.queued .dma b (planAaddt s x b.toNat) with
      ops := x.ops ++ [{ capture x .dma b.toNat with td := x.treg (iFc b.toNat) }] })) := by
  refine (issueUnit_of_issues h).trans ?_
  simp only [Ctx.ops_queued, Ctx.treg_queued, List.dropLast_concat, List.getLast?_concat, Option.map_some, Option.toList_some]

/-! ## WINDEC (08 R311) -/

/-- The windows that a declaration selects. -/
def declaredWindows (v : W64) : List Nat := (List.range 48).filter (windowMask v).getLsbD

/-- The record of a declared window, and whether it stands for a write. -/
def windowRecord (w : Iw) (written : Bool) (i : Nat) : SramHaz :=
  ⟨.dma, i * windowSize, i * windowSize + windowSize, written, iTok w⟩

/-- The last records, as many as there are declared windows, turn into records of writes. -/
theorem markWindows_eq (y : Ctx) (w : Iw) :
    let ws := declaredWindows (y.sreg (iFa w))
    markWindows y w = { y with
      sramHaz := y.sramHaz.take (y.sramHaz.length - ws.length) ++
        (y.sramHaz.drop (y.sramHaz.length - ws.length)).map (fun h => { h with write := true })
      live := if windecLive w then y.live ||| windowMask (y.sreg (iFa w)) else y.live &&& ~~~windowMask (y.sreg (iFa w)) } := rfl

/-- A window is not empty, so each that is declared has its record. -/
theorem sramHaz_queued_planWindec : (x.queued .dma b (planWindec s x b.toNat)).sramHaz =
    (x.clearWaited b.toNat).sramHaz ++ (declaredWindows (x.sreg (iFa b.toNat))).map (windowRecord b.toNat false) := by
  have notEmpty : ∀ r ∈ (planWindec s x b.toNat).srams, decide (0 < r.2.1) = true := by
    intro r declared
    obtain ⟨i, -, rfl⟩ := List.mem_map.1 declared
    rfl
  refine congrArg ((x.clearWaited b.toNat).sramHaz ++ ·) ?_
  rw [List.filter_eq_self.2 notEmpty]
  exact List.map_map

theorem markWindows_queued : markWindows (x.queued .dma b (planWindec s x b.toNat)) b.toNat =
    { x.queued .dma b (planWindec s x b.toNat) with
      sramHaz := (x.clearWaited b.toNat).sramHaz ++
        (declaredWindows (x.sreg (iFa b.toNat))).map (windowRecord b.toNat true)
      live := if windecLive b.toNat then x.live ||| windowMask (x.sreg (iFa b.toNat))
        else x.live &&& ~~~windowMask (x.sreg (iFa b.toNat)) } := by
  rw [markWindows_eq, Ctx.sreg_queued, sramHaz_queued_planWindec, List.length_append, List.length_map, Nat.add_sub_cancel,
    List.take_left, List.drop_left, List.map_map, Ctx.live_queued]
  rfl

theorem exec_windec_dead (h : Issues s e 0xF2 .dma planWindec c x b) (dead : bit b.toNat 0 = false) : exec (.windec e) s =
    .next (s.setCtx c (some { x.queued .dma b (planWindec s x b.toNat) with
      live := x.live &&& ~~~windowMask (x.sreg (iFa b.toNat))
      sramHaz := (x.clearWaited b.toNat).sramHaz ++
        (declaredWindows (x.sreg (iFa b.toNat))).map (windowRecord b.toNat true) })) := by
  refine (issueUnit_of_issues h).trans ?_
  simp only [atOnce, windecLive, dead, Bool.false_and, Bool.false_eq_true, if_false, markWindows_queued]

/-- Settles O45: each row sends its instruction to its unit, and what the front end adds is the row's own. -/
theorem unitInstructionsQueue : Obligations.UnitInstructionsQueue := by
  intro e s c x b put queue
  exact ⟨issueUnit_of_issues, issueUnit_of_issues, issueUnit_of_issues, issueUnit_of_issues, issueUnit_of_issues,
    issueUnit_of_issues, issueUnit_of_issues, issueUnit_of_issues, issueUnit_of_issues, issueUnit_of_issues,
    issueUnit_of_issues, issueUnit_of_issues, issueUnit_of_issues, issueUnit_of_issues, issueUnit_of_issues,
    issueUnit_of_issues, issueUnit_of_issues, issueUnit_of_issues, issueUnit_of_issues, issueUnit_of_issues,
    issueUnit_of_issues, issueUnit_of_issues, issueUnit_of_issues, issueUnit_of_issues, issueUnit_of_issues,
    issueUnit_of_issues, exec_ldist_settled, issueUnit_of_issues, issueUnit_of_issues, issueUnit_of_issues,
    issueUnit_of_issues, fun h => ⟨exec_dcpy_queues h, exec_dcpy_of_nothing h⟩,
    fun h => ⟨_, exec_aaddt_queues h, rfl⟩, exec_windec_dead⟩

end Sys2Proof.Machine
end

section
/-! PROOFS. Operations complete and fault (07 R226, 08 R264, 11 R380, R383): what the first operation of a unit leaves, how far one of the DMA
unit gets, and which trap a fault makes. -/

namespace Sys2Proof.Machine

section Completion

variable {s : State} {e : EngineId} {u : OcUnit} {c : Nat} {x : Ctx} {o : Op}

/-! ## The first operation of a unit (07 R226) -/

theorem exec_opComplete (active : activeOn s e.val = some (c, x)) (front : frontOp x u = some o) :
    exec (.opComplete e u) s = .next (completeOp s c x o) := by
  simp only [exec, execOpComplete, active, front]

theorem completeOp_unit (unit : o.unit ≠ .dma) : completeOp s c x o = s.setCtx c (some ((doOp x o).done o)) := by
  rw [completeOp, if_neg unit]

section Dma

variable (dma : o.unit = .dma)
include dma

theorem completeOp_dma_done (done : (dmaRun s x o).stop = none) :
    completeOp s c x o = (dmaRun s x o).s.setCtx c (some ((dmaRun s x o).x.done o)) := by
  simp only [completeOp, dma, if_true, done]

theorem completeOp_dma_waits (waits : (dmaRun s x o).stop = some .wait) :
    completeOp s c x o = (dmaRun s x o).s.setCtx c (some ((dmaRun s x o).x.progress o (dmaRun s x o).off)) := by
  simp only [completeOp, dma, if_true, waits]

/-- A page is brought in by PAGE_IN, and a fault is taken by EXECUTION_FAULT. -/
theorem completeOp_dma_held {va code : Nat} {w : Bool}
    (held : (dmaRun s x o).stop = some (.page va w) ∨ (dmaRun s x o).stop = some (.fault code va)) : completeOp s c x o = s := by
  rcases held with page | fault
  · simp only [completeOp, dma, if_true, page]
  · simp only [completeOp, dma, if_true, fault]

end Dma

/-! ## Execution faults (11 R383, Tables 11.7, 11.8) -/

theorem exec_executionFault_transfer {code va : Nat} (active : activeOn s e.val = some (c, x)) (front : frontDma x = some o)
    (fault : (dmaRun s x o).stop = some (.fault code va)) :
    exec (.executionFault e .transfer) s = .next (faultAt (dmaRun s x o).s c (dmaRun s x o).x o (dmaRun s x o).off code va) := by
  simp only [exec, execExecutionFault, active, front, fault]

/-- The record's descriptor number is the state's next free value (log 5), and codes 0x10 to 0x13 show an address. -/
theorem faultAt_traps (off code va : Nat) : faultAt s c x o off code va =
    trapCtx { s with freeCtr := s.freeCtr + 1 } c (x.progress o off)
      ⟨o.pc, code, o.unit, (descriptor s).1, if 0x10 ≤ code ∧ code ≤ 0x13 then va else 0, off⟩ := by
  simp only [faultAt, ← Bool.decide_and, decide_eq_true_eq]
  rfl

theorem exec_executionFault_front (active : activeOn s e.val = some (c, x)) (goesOn : x.ended = false) :
    exec (.executionFault e (.uncorrectable .front)) s = .next (trapCtx s c x ⟨x.pc, 0x0A, .front, 0, 0, 0⟩) := by
  simp only [exec, execExecutionFault, active, goesOn, if_true, Bool.false_eq_true, if_false, fcUncorrectable]

end Completion

/-- Settles O47: OP_COMPLETE by the unit and by how the run of a DMA operation stops, EXECUTION_FAULT by its cause. -/
theorem operationsComplete : Obligations.OperationsComplete := by
  refine ⟨fun e u s c x o active front => ?_,
    fun e s c x o code va active front fault => ⟨_, (exec_executionFault_transfer active front fault).trans
      (congrArg Host.Outcome.next (faultAt_traps _ code va))⟩, fun e s c x => exec_executionFault_front⟩
  rw [exec_opComplete active front]
  exact ⟨fun unit => congrArg _ (completeOp_unit unit), fun dma => ⟨fun done => congrArg _ (completeOp_dma_done dma done),
    fun waits => congrArg _ (completeOp_dma_waits dma waits), fun va w code held => congrArg _ (completeOp_dma_held dma held)⟩⟩

end Sys2Proof.Machine
end

section
/-! PROOFS. Engine work (07 R236-R240, 11 R385-R397): which work starts on an engine, which context gives its engine up or ends, and
what the end of a stage makes of its command. -/

namespace Sys2Proof.Machine

/-! ## Work starts (11 R392, R397) -/

section Start

variable {s : State} (running : unitStopped s 3 = false) {e : EngineId}
include running

section WorkStart

variable {k : Fin 4}

theorem exec_workStart_none (noWork : nextWork s k.val = none) : exec (.workStart k e) s = .next s := by
  simp only [exec, execWorkStart, running, noWork, Bool.false_eq_true, if_false]

variable {w : Work} (isNext : nextWork s k.val = some w)
include isNext

theorem exec_workStart_waits (waits : mayStart s w e.val = false ∨ urgentFirst s w e.val = false) :
    exec (.workStart k e) s = .next s := by
  have held : (mayStart s w e.val && urgentFirst s w e.val) = false := Bool.and_eq_false_iff.2 waits
  simp only [exec, execWorkStart, running, isNext, held, Bool.false_eq_true, if_false]

theorem exec_workStart_starts (may : mayStart s w e.val = true) (first : urgentFirst s w e.val = true) :
    exec (.workStart k e) s = .next (startWork s w e.val) := by
  simp only [exec, execWorkStart, running, isNext, may, first, Bool.and_self, Bool.false_eq_true, if_false, if_true]

end WorkStart

section Restore

variable {c : ContextId}

theorem exec_contextRestore_none (noWork : s.eng.work.find? (fun w => w.work = .context c.val) = none) :
    exec (.contextRestore c e) s = .next s := by
  simp only [exec, execContextRestore, running, noWork, Bool.false_eq_true, if_false]

theorem exec_contextRestore_starts {w : Work} (listed : s.eng.work.find? (fun w => w.work = .context c.val) = some w)
    (isNext : nextWork s w.cls = some w) (may : mayStart s w e.val = true) (first : urgentFirst s w e.val = true) :
    exec (.contextRestore c e) s = .next (startWork s w e.val) := by
  simp only [exec, execContextRestore, running, listed, isNext, may, first, decide_true, Bool.and_self, Bool.false_eq_true,
    if_false, if_true]

end Restore

/-! ## Pre-emption and the end of a trapped context (11 R386, R387, R396) -/

theorem exec_preempt_none (noneStarved : starved s = none) : exec (.preempt e) s = .next s := by
  simp only [exec, execPreempt, running, noneStarved, Bool.false_eq_true, if_false]

theorem exec_preempt_starved {w : Work} (waits : starved s = some w) : exec (.preempt e) s =
    .next (if (victims s ((List.range 48).filter (preemptible s w))).head? = some e.val then saveEncode (waitSave s) e.val else s) := by
  simp only [exec, execPreempt, running, waits, Bool.false_eq_true, if_false]

/-- R386: 10 s after its trap a MAINT context ends. -/
theorem exec_contextTimeout_trapped {c : ContextId} {x : Ctx} {q since : Nat} (held : s.ctx c.val = some x)
    (trapped : x.st = .trapped since) (maint : x.owner = .maint q) :
    exec (.contextTimeout c) s = .next (if since + 10 ≤ s.secs then endMaint s c.val q 2 else s) := by
  simp only [exec, execContextTimeout, running, held, trapped, maint, Bool.false_eq_true, if_false]

end Start

/-- An insert encoding starts on its engine, and its batch is encoding (03 R72). -/
theorem startWork_encode {s : State} {w : Work} {e n : Nat} {c : Cmd} {rest : List Work} (encode : w.work = .encode n)
    (taken : takeFirst (· = w) s.eng.work = some (w, rest)) (cmd : s.cmd n = some c) :
    startWork s w e = ((({ s with eng.work := rest }).modEngine e (fun g => { g with
      work := .encode n, fault := 0, req := w.req })).setCmd { c with phase := .encoding }) := by
  have listed : ({ s with eng.work := rest } : State).cmd n = some c := cmd
  simp only [startWork, taken, beginWork, encode, listed, Option.getD_some, onEngine]

/-! ## The end of a stage (07 R238, R240, 03 R72) -/

section StageEnd

variable {s : State} {e : EngineId}

theorem exec_stageEnd_idle (idle : (s.engine e.val).work = .idle) : exec (.stageEnd e) s = .next s := by
  simp only [exec, execStageEnd, idle]

theorem exec_stageEnd_encode {k : Nat} {c : Cmd} {j : BatchJob} (encode : (s.engine e.val).work = .encode k)
    (cmd : s.cmd k = some c) (job : c.job = .batch j) :
    exec (.stageEnd e) s = .next (endInsertEncode (s.modEngine e.val (fun g => { g with work := .idle })) c j) := by
  simp only [exec, execStageEnd, encode, cmd, job]

theorem exec_stageEnd_lutStd {k : Nat} {c : Cmd} {j : SearchJob} (lut : (s.engine e.val).work = .lutStd k)
    (cmd : s.cmd k = some c) (job : c.job = .search j) (refused : prepareQuery j.ctx.params.metric j.queryF = none) :
    exec (.stageEnd e) s = .next (dropCmd (s.modEngine e.val (fun g => { g with work := .idle })) c stBadCmd) := by
  simp only [exec, execStageEnd, lut, cmd, job, endStdLut, refused]

/-! ### Programs (07 R238, 08 R272) -/

section Program

variable {n : Nat} {x : Ctx} (program : (s.engine e.val).work = .context n) (held : s.ctx n = some x)
include program held

/-- A program that has ended is not over before its last operation (R272). -/
theorem exec_stageEnd_outstanding (left : x.ops ≠ []) : exec (.stageEnd e) s = .next s := by
  simp only [exec, execStageEnd, program, held, List.isEmpty_eq_false_iff.2 left, Bool.and_false, Bool.false_eq_true, if_false]

variable (runs : x.st = .running e.val) (ended : x.ended = true) (complete : x.ops = [])
include runs ended complete

theorem exec_stageEnd_program : exec (.stageEnd e) s = .next (endProgram s n x) := by
  simp only [exec, execStageEnd, program, held, runs, ended, complete, decide_true, List.isEmpty_nil, Bool.and_self, if_true]

theorem exec_stageEnd_maint {q : Nat} (maint : x.owner = .maint q) : exec (.stageEnd e) s = .next (endContext s n) := by
  rw [exec_stageEnd_program program held runs ended complete, endProgram, maint]

/-- s1 of a stage's program decides how its command ends (R238). -/
theorem exec_stageEnd_status {k : Nat} {st : Stage} {c : Cmd} {j : SearchJob} (stage : x.owner = .stage k st)
    (cmd : s.cmd k = some c) (job : c.job = .search j) (status : x.sreg 1 ≠ 0) :
    exec (.stageEnd e) s = .next (dropCmd (endContext s n) c (if x.sreg 1 = 1 then stBadCmd else stFault)) := by
  rw [exec_stageEnd_program program held runs ended complete]
  simp only [endProgram, stage, cmd, job, status, ne_eq, not_false_eq_true, if_true]
  split <;> rfl

end Program

end StageEnd

/-- Settles O48: each row by what stands first for it, and the end of a stage by what was on the engine. -/
theorem engineWorkGoesOn : Obligations.EngineWorkGoesOn := by
  refine ⟨fun s running => ⟨fun k e => ⟨exec_workStart_none running, fun w isNext =>
      ⟨exec_workStart_waits running isNext, fun may first => ?_⟩⟩,
    fun c e w => exec_contextRestore_starts running, fun c e => exec_contextRestore_none running,
    fun e => ⟨exec_preempt_none running, fun w => exec_preempt_starved running⟩, fun c x q since held trapped maint => ?_⟩,
    fun e s => ⟨exec_stageEnd_idle, fun k c j => exec_stageEnd_encode, fun k c j => exec_stageEnd_lutStd,
      fun n x program held runs ended => ⟨exec_stageEnd_outstanding program held,
        fun q complete => exec_stageEnd_maint program held runs ended complete,
        fun k st c j complete => exec_stageEnd_status program held runs ended complete⟩⟩⟩
  · have starts := exec_workStart_starts running isNext may first
    exact ⟨starts, fun c n rest encode taken cmd => by rw [starts, startWork_encode encode taken cmd]⟩
  · rw [exec_contextTimeout_trapped running held trapped maint]
    exact ⟨fun late => congrArg _ (if_pos late), fun young => congrArg _ (if_neg young.not_ge)⟩

end Sys2Proof.Machine
end

section
/-! PROOFS. The front end's own instructions on scalars, addresses and tile descriptors (08 R267-R269), and JR to an address that is not
aligned (08 R260): the word that each writes, whether it saturates, and the turn that puts it into its register. -/

namespace Sys2Proof.Machine

/-! ## Words that results spell (08 R266, R267) -/

/-- A result has the bits of a word, says whether it saturated, and raises nothing else. -/
structure Res.Spells (r : Res) (v : W64) (sat : Bool) : Prop where
  bits : BitVec.ofNat 64 r.bits = v
  sat : r.sat = sat
  noNan : r.inv = false

theorem ofNat_toNat_word (v : W64) : BitVec.ofNat 64 v.toNat = v := (BitVec.ofNat_toNat 64 v).trans (BitVec.setWidth_eq v)

theorem plain_spells (v : W64) : (Res.plain v.toNat).Spells v false := ⟨ofNat_toNat_word v, rfl, rfl⟩

theorem ofNat_ofSigned (v : Int) : BitVec.ofNat 64 (ofSigned 64 v) = BitVec.ofInt 64 v := by
  apply BitVec.eq_of_toNat_eq
  simp only [ofSigned, BitVec.toNat_ofNat, BitVec.toNat_ofInt]
  omega

theorem satTo_spells (v : Int) : (satTo tyI64 v).Spells (narrow64 v) (outside64 v) := ⟨ofNat_ofSigned _, rfl, rfl⟩

theorem satSigned_spells (f : Int → Int → Int) (a b : W64) :
    (satSigned f a.toNat b.toNat).Spells (narrow64 (f a.toInt b.toInt)) (outside64 (f a.toInt b.toInt)) := by
  rw [satSigned, toSigned_toNat, toSigned_toNat]
  exact satTo_spells _

/-- A shift by 63 leaves the sign alone, and no longer shift changes that. -/
theorem toInt_div_two_pow (a : W64) (n : Nat) : a.toInt / ((2 ^ min n 63 : Nat) : Int) = a.toInt / ((2 ^ n : Nat) : Int) := by
  rcases Nat.le_total n 63 with short | long
  · rw [Nat.min_eq_left short]
  · have lower := BitVec.le_toInt a
    have upper := BitVec.toInt_lt (x := a)
    have covers : ((2 ^ 63 : Nat) : Int) ≤ ((2 ^ n : Nat) : Int) := Int.ofNat_le.2 (Nat.pow_le_pow_right (by decide) long)
    rw [Nat.min_eq_right long]
    rcases lt_or_ge a.toInt 0 with negative | positive
    · rw [Int.ediv_eq_neg_one_of_neg_of_le negative (by omega), Int.ediv_eq_neg_one_of_neg_of_le negative (by omega)]
    · rw [Int.ediv_eq_zero_of_lt positive (by omega), Int.ediv_eq_zero_of_lt positive (by omega)]

/-- The word that a shift of kind 0, 1 or 2 gives. -/
def shifted (kind : Nat) (a : W64) (n : Nat) : W64 :=
  if kind = 0 then a <<< n else if kind = 1 then a >>> n else a.sshiftRight n

theorem ofNat_shiftBits_left (a : W64) (n : Nat) : BitVec.ofNat 64 (shiftBits 64 0 a.toNat n) = a <<< n := by
  simp only [shiftBits]
  split
  · next beyond => exact (BitVec.shiftLeft_eq_zero beyond).symm
  · exact BitVec.eq_of_toNat_eq (by simp)

theorem ofNat_shiftBits_right (a : W64) (n : Nat) : BitVec.ofNat 64 (shiftBits 64 1 a.toNat n) = a >>> n := by
  simp only [shiftBits]
  split
  · next beyond => exact (BitVec.ushiftRight_eq_zero beyond).symm
  · rw [Nat.mod_eq_of_lt a.isLt, ← BitVec.toNat_ushiftRight, ofNat_toNat_word]

theorem ofNat_shiftBits_sign (k : Nat) (a : W64) (n : Nat) :
    BitVec.ofNat 64 (shiftBits 64 (k + 2) a.toNat n) = a.sshiftRight n := by
  simp only [shiftBits, toSigned_toNat, ofNat_ofSigned, BitVec.sshiftRight_eq, Int.shiftRight_eq_div_pow]
  exact congrArg _ (toInt_div_two_pow a n)

theorem shiftBits_spells (kind : Nat) (a : W64) (n : Nat) :
    (Res.plain (shiftBits 64 kind a.toNat n)).Spells (shifted kind a n) false := by
  refine ⟨?_, rfl, rfl⟩
  match kind with
  | 0 => exact ofNat_shiftBits_left a n
  | 1 => exact ofNat_shiftBits_right a n
  | k + 2 => exact ofNat_shiftBits_sign k a n

/-! ### DIV (R267) -/

theorem toInt_eq_zero {a : W64} : a.toInt = 0 ↔ a = 0 := by
  rw [← BitVec.toInt_inj]
  rfl

section Divide

variable {isSigned rem : Bool} {a b : W64}

theorem divide_signed_zero_spells (signed : isSigned = true) (zero : b = 0) : (divide isSigned rem a.toNat b.toNat).Spells
    (if rem then a else if a.toInt < 0 then narrow64 (-9223372036854775808) else narrow64 9223372036854775807) true := by
  subst signed zero
  have isZero : toSigned 64 (0 : W64).toNat = 0 := rfl
  simp only [divide, if_true, isZero, toSigned_toNat]
  refine ⟨?_, rfl, rfl⟩
  split
  · exact ofNat_toNat_word a
  · split <;> rfl

theorem divide_unsigned_zero_spells (unsigned : isSigned = false) (zero : b = 0) :
    (divide isSigned rem a.toNat b.toNat).Spells (if rem then a else BitVec.allOnes 64) true := by
  subst unsigned zero
  cases rem
  · exact ⟨rfl, rfl, rfl⟩
  · exact ⟨ofNat_toNat_word a, rfl, rfl⟩

theorem divide_overflow_spells (signed : isSigned = true) (overflows : a.toInt = -9223372036854775808 ∧ b.toInt = -1) :
    (divide isSigned rem a.toNat b.toNat).Spells (if rem then 0 else narrow64 9223372036854775807) true := by
  subst signed
  obtain ⟨least, minusOne⟩ := overflows
  have isLeast : tyMin tyI64 = -9223372036854775808 := rfl
  simp only [divide, if_true, toSigned_toNat, least, minusOne, isLeast, and_self, reduceCtorEq, if_false]
  cases rem <;> exact ⟨rfl, rfl, rfl⟩

/-- A signed quotient in range is rounded toward zero, and the remainder has the dividend's sign (log 114). -/
theorem divide_signed_spells (signed : isSigned = true) (nonzero : b ≠ 0)
    (inRange : ¬ (a.toInt = -9223372036854775808 ∧ b.toInt = -1)) :
    (divide isSigned rem a.toNat b.toNat).Spells
      (BitVec.ofInt 64 (if rem then a.toInt.tmod b.toInt else a.toInt.tdiv b.toInt)) false := by
  subst signed
  have divisor : b.toInt ≠ 0 := fun zero => nonzero (toInt_eq_zero.1 zero)
  have isLeast : tyMin tyI64 = -9223372036854775808 := rfl
  simp only [divide, if_true, toSigned_toNat, divisor, isLeast, inRange, if_false]
  exact ⟨ofNat_ofSigned _, rfl, rfl⟩

theorem divide_unsigned_spells (unsigned : isSigned = false) (nonzero : b ≠ 0) :
    (divide isSigned rem a.toNat b.toNat).Spells
      (BitVec.ofNat 64 (if rem then a.toNat % b.toNat else a.toNat / b.toNat)) false := by
  subst unsigned
  have divisor : b.toNat ≠ 0 := fun zero => nonzero (BitVec.eq_of_toNat_eq zero)
  simp only [divide, Bool.false_eq_true, if_false, divisor]
  exact ⟨rfl, rfl, rfl⟩

end Divide

/-! ### MINMAX and CMP (R267) -/

theorem minMax_spells (isMax isUnsigned : Bool) (a b : W64) :
    (Res.plain (minMax isMax isUnsigned a.toNat b.toNat)).Spells
      (if (if isUnsigned then decide (a.toNat < b.toNat) else decide (a.toInt < b.toInt)) = isMax then b else a) false := by
  simp only [minMax, toSigned_toNat, ← apply_ite BitVec.toNat]
  exact plain_spells _

theorem b2n_spells (holds : Bool) : (Res.plain (b2n holds)).Spells (if holds then 1 else 0) false := by
  cases holds <;> exact ⟨rfl, rfl, rfl⟩

/-! ## Turns that write one register (08 R260, R267-R269) -/

/-- A result with its bits as the word that it spells is what s[FD] takes, and SAT is its only flag. -/
theorem putRes_of_spells {x : Ctx} {b v : W64} {r : Res} {sat : Bool} (spells : r.Spells v sat) :
    putRes x b.toNat r = x.scalar b v sat := by
  obtain ⟨rfl, rfl, noNan⟩ := spells
  simp only [putRes, Ctx.raise, Ctx.scalar, Ctx.flag, noNan, Bool.false_eq_true, if_false]
  rfl

section Turn

variable {s : State} {e : EngineId} {op : Nat} {c : Nat} {x : Ctx} {b v : W64}

theorem frontPure_of_spells {plan : Ctx → Iw → Plan} {f : Ctx → Iw → Res} {sat : Bool}
    (h : Issues s e op .front (fun _ => plan) c x b) (spells : (f x b.toNat).Spells v sat)
    (known : opKnown op = true := by decide) :
    .next (frontPure s e.val op plan (fun x w => putRes x w (f x w))) = issuedTo s c (x.scalar b v sat) b (x.pc + 8) := by
  rw [frontPure_of_issues h known, putRes_of_spells spells]

theorem frontPure_of_plain {plan : Ctx → Iw → Plan} {f : Ctx → Iw → Res}
    (h : Issues s e op .front (fun _ => plan) c x b) (spells : (f x b.toNat).Spells v false)
    (known : opKnown op = true := by decide) :
    .next (frontPure s e.val op plan (fun x w => putRes x w (f x w))) = issuedTo s c (x.setS (iFd b.toNat) v) b (x.pc + 8) :=
  frontPure_of_spells h spells known

/-- An instruction that issues has a legal word. -/
theorem legal_of_issues {u : OcUnit} {plan : State → Ctx → Iw → Plan} (h : Issues s e op u plan c x b) :
    (plan s x b.toNat).legal = true := by
  obtain ⟨-, -, -, -, -, -, passes⟩ := h
  by_contra illegal
  rw [Plan.trap, Bool.eq_false_of_not_eq_true illegal] at passes
  simp at passes

/-- Of the registers that it names, the front end records the use of the one tile register. -/
theorem frontTile_of_issues {plan : Ctx → Iw → Plan} {eff : Ctx → Iw → Ctx} {y : Ctx} {t : Nat} {written : Bool}
    (h : Issues s e op .front (fun _ => plan) c x b) (does : eff x b.toNat = y)
    (tiles : (plan x b.toNat).regs.filter (fun r => r.1 = .t) = [(.t, t, written)]) (noSram : (plan x b.toNat).srams = [])
    (known : opKnown op = true := by decide) :
    .next (frontTile s e.val op plan eff) = (.next (s.setCtx c (some ((y.issued' b.toNat (x.pc + 8)).recordUse .front b.toNat
      (Plan.front true [(.t, t, written)])))) : Host.Outcome State Fault Refusal) := by
  simp only [frontTile, turn_of_issues h known, Ctx.recordUse, does, tiles, noSram, Plan.front]

@[simp] theorem filter_tile_useS (n : Nat) (written : Bool) : (useS n written).filter (fun r => r.1 = .t) = [] := by
  unfold useS
  split <;> rfl

end Turn

/-! ## Scalar integers (08 R267) -/

section Scalar

variable {s : State} {e : EngineId} {c : Nat} {x : Ctx} {b : W64}

theorem exec_div {v : W64} {sat : Bool} (h : Issues s e 0x13 .front (fun _ => planSss [0, 1, 2, 3]) c x b)
    (spells : (divide (bit b.toNat 0) (bit b.toNat 1) (opA x b.toNat) (opB x b.toNat)).Spells v sat) :
    exec (.div e) s = issuedTo s c (x.scalar b v sat) b (x.pc + 8) :=
  frontPure_of_spells (f := fun x w => divide (bit w 0) (bit w 1) (opA x w) (opB x w)) h spells

theorem natAbs_tmod_lt {d : W64} (n : Int) (nonzero : d ≠ 0) : (n.tmod d.toInt).natAbs < d.toInt.natAbs := by
  rw [Int.natAbs_tmod]
  exact Nat.mod_lt _ (Int.natAbs_pos.2 (fun zero => nonzero (toInt_eq_zero.1 zero)))

theorem exec_addi (h : Issues s e 0x1A .front (fun _ => planSsi (fun _ => true)) c x b) :
    let v := (x.sreg (iFa b.toNat)).toInt + iImm25 b.toNat
    exec (.addi e) s = issuedTo s c (x.scalar b (narrow64 v) (outside64 v)) b (x.pc + 8) := by
  refine frontPure_of_spells h ?_
  rw [opA, toSigned_toNat]
  exact satTo_spells _

/-! ### JR to an unaligned address (08 R260, R270) -/

/-- No field in the low 25 bits holds anything where these are zero. -/
theorem bits_of_low_zero {w : Iw} {lo len : Nat} (low : bits w 0 25 = 0) (inside : lo + len ≤ 25) : bits w lo len = 0 := by
  apply Nat.eq_of_testBit_eq
  intro i
  have zero := congrArg (Nat.testBit · (lo + i)) low
  simp only [bits, Nat.testBit_mod_two_pow, Nat.testBit_shiftRight, Nat.zero_testBit, Nat.zero_add] at zero ⊢
  rcases Nat.lt_or_ge i len with inField | beyond
  · simpa [inField, show lo + i < 25 by omega] using zero
  · simp [beyond]

/-- With no operation outstanding, nothing holds back an instruction of the front end that touches no SRAM. -/
theorem not_stalled_of_idle {p : Plan} (idle : x.ops = []) (noSram : p.srams = []) : stalled x .front b.toNat p = false := by
  have noToken (k : Nat) : x.tokenCount k = 0 := by simp [Ctx.tokenCount, idle]
  have met : waitMet x.ops b.toNat = true := by rw [idle]; rfl
  simp only [stalled, fenceFirst, noSram, met, noToken]
  cases iTok b.toNat <;> simp

/-- An instruction that fails a check of R263 traps with the code of the first that it fails. -/
theorem frontStep_of_traps {op code : Nat} {plan : State → Ctx → Iw → Plan} {eff : State → Ctx → Iw → State × Ctx × Nat}
    (runs : runningOn s e.val = some (c, x)) (inBudget : x.spent = false) (fetched : x.wordAt x.pc = some b)
    (isOp : iOp b.toNat = op) (moves : stalled x .front b.toNat (plan s x b.toNat) = false)
    (noFence : fenceFirst x (plan s x b.toNat) = false) (fails : (plan s x b.toNat).trap x .front b.toNat = some code)
    (known : opKnown op = true := by decide) :
    frontStep s e.val op plan eff = trapCtx s c x ⟨x.pc, code, .front, 0, 0, 0⟩ := by
  simp only [frontStep, turn, runs, inBudget, fetched, isOp, known, moves, noFence, fails, issueTrap, Bool.not_true, ne_eq,
    not_true_eq_false, Bool.false_eq_true, if_false]

theorem exec_jr_unaligned (runs : runningOn s e.val = some (c, x)) (inBudget : x.spent = false)
    (fetched : x.wordAt x.pc = some b) (isJr : iOp b.toNat = 0x42) (idle : x.ops = []) (unused : bits b.toNat 0 25 = 0)
    (noDest : iFd b.toNat = 0) (sig : sigOk b.toNat = true) (unaligned : (x.sreg (iFa b.toNat)).toNat % 8 ≠ 0) :
    exec (.jr e) s = .next (trapCtx s c x ⟨x.pc, 0x02, .front, 0, 0, 0⟩) := by
  have noFb : iFb b.toNat = 0 := bits_of_low_zero unused (by decide)
  have noFc : iFc b.toNat = 0 := bits_of_low_zero unused (by decide)
  have noFn : iFn b.toNat = 0 := bits_of_low_zero unused (by decide)
  have outside : x.inImage (opA x b.toNat) = false := by simp [Ctx.inImage, opA, unaligned]
  refine congrArg _ (frontStep_of_traps runs inBudget fetched isJr (not_stalled_of_idle idle rfl) ?_ ?_)
  · simp [fenceFirst, Plan.front]
  · simp [Plan.trap, Plan.front, zeroF, noDest, noFb, noFc, noFn, sig, outside, tcAddress]

end Scalar

/-- Settles O42: each row is one turn of the front end, whose result spells the word of its rule; DIV by its divisor and its range. -/
theorem scalarIntegersSaturate : Obligations.ScalarIntegersSaturate := by
  intro e s c x b fa fb put exact least
  refine ⟨fun h => frontPure_of_spells h (satSigned_spells _ _ _), fun h => frontPure_of_spells h (satSigned_spells _ _ _),
    fun h => frontPure_of_spells h (satSigned_spells _ _ _), exec_addi,
    frontPure_of_issues, frontPure_of_issues, frontPure_of_issues, frontPure_of_issues,
    fun h => frontPure_of_spells h (shiftBits_spells _ _ _), fun h => frontPure_of_spells h (shiftBits_spells _ _ _),
    fun h signed nonzero inRange => ⟨fa.toInt.tdiv fb.toInt, fa.toInt.tmod fb.toInt, (Int.tdiv_mul_add_tmod _ _).symm,
      natAbs_tmod_lt _ nonzero, exec_div h (divide_signed_spells signed nonzero inRange)⟩, fun h => ?_, exec_jr_unaligned⟩
  split
  · next signed =>
    split
    · next zero => exact exec_div h (divide_signed_zero_spells signed zero)
    · split
      · next overflows => exact exec_div h (divide_overflow_spells signed overflows)
      · rfl
  · next unsigned =>
    have unsigned : bit b.toNat 0 = false := Bool.eq_false_of_not_eq_true unsigned
    split
    · next zero => exact exec_div h (divide_unsigned_zero_spells unsigned zero)
    · next nonzero => exact exec_div h (divide_unsigned_spells unsigned nonzero)

/-! ## Addresses, constants and descriptors (08 R260, R269) -/

section Moves

variable {s : State} {e : EngineId} {c : Nat} {x : Ctx} {b v : W64}

theorem imageWord_eq {w : Iw} (there : x.wordAt (x.rel (iImm30 w)) = some v) : imageWord x w = v := by
  rw [imageWord, there, Option.getD_some]

theorem exec_lc (h : Issues s e 0x21 .front
      (fun _ x w => { planSd (fun _ => true) x w with addrOk := x.relOk (iImm30 w) }) c x b)
    (there : x.wordAt (x.rel (iImm30 b.toNat)) = some v) :
    exec (.lc e) s = issuedTo s c (x.setS (iFd b.toNat) v) b (x.pc + 8) := by
  rw [← imageWord_eq there]
  exact frontPure_of_issues h

theorem exec_alc (h : Issues s e 0x33 .front
      (fun _ x w => { Plan.front (iFd w < 16) [useA (iFd w) true] with addrOk := x.relOk (iImm30 w) }) c x b)
    (there : x.wordAt (x.rel (iImm30 b.toNat)) = some v) :
    exec (.alc e) s = issuedTo s c (x.setA (iFd b.toNat) v) b (x.pc + 8) := by
  rw [← imageWord_eq there]
  exact frontPure_of_issues h

theorem exec_minmax (h : Issues s e 0x18 .front (fun _ => planSss [0, 1, 2, 3]) c x b) :
    let fa := x.sreg (iFa b.toNat)
    let fb := x.sreg (iFb b.toNat)
    exec (.minmax e) s = issuedTo s c (x.setS (iFd b.toNat)
      (if (if bit b.toNat 1 then decide (fa.toNat < fb.toNat) else decide (fa.toInt < fb.toInt)) = bit b.toNat 0 then fb else fa))
      b (x.pc + 8) :=
  frontPure_of_plain h (minMax_spells _ _ _ _)

section Cmp

variable (h : Issues s e 0x19 .front (fun _ => planSss [0, 1, 2, 3, 4, 5]) c x b)
include h

/-- CMP has no condition beyond 5 (R267). -/
theorem cmp_condition : iFn b.toNat ∈ [0, 1, 2, 3, 4, 5] :=
  List.contains_iff_mem.1 (Bool.and_elim_right (legal_of_issues h))

theorem exec_cmp {holds : Bool} (cond : condHolds (iFn b.toNat) (opA x b.toNat) (opB x b.toNat) = holds) :
    exec (.cmp e) s = issuedTo s c (x.setS (iFd b.toNat) (if holds then 1 else 0)) b (x.pc + 8) := by
  subst cond
  exact frontPure_of_plain h (b2n_spells _)

end Cmp

theorem ofNat_eq_append (hi lo : W64) : BitVec.ofNat 128 (lo.toNat + hi.toNat * 2 ^ 64) = hi ++ lo := by
  apply BitVec.eq_of_toNat_eq
  rw [BitVec.toNat_append, ← Nat.shiftLeft_add_eq_or_of_lt lo.isLt, Nat.shiftLeft_eq, BitVec.toNat_ofNat]
  omega

theorem ofNat_eq_extractLsb' (d : BitVec 128) (lo : Nat) : BitVec.ofNat 64 (bits d.toNat lo 64) = d.extractLsb' lo 64 := by
  apply BitVec.eq_of_toNat_eq
  rw [BitVec.toNat_ofNat, BitVec.extractLsb'_toNat, bits, Nat.mod_mod]

end Moves

theorem overflow_operands {a b : W64} (overflows : a.toInt = -9223372036854775808 ∧ b.toInt = -1) :
    a = BitVec.intMin 64 ∧ b = BitVec.allOnes 64 := by
  obtain ⟨least, minusOne⟩ := overflows
  exact ⟨BitVec.toInt_inj.1 least, BitVec.toInt_inj.1 minusOne⟩

/-- Settles O43: each row is one turn of the front end that writes one register, and the comparisons are told apart by CMP's FN. -/
theorem scalarsAndAddresses : Obligations.ScalarsAndAddresses := by
  intro e s c x b w fa fb next tile
  refine ⟨exec_minmax, fun h signed nonzero inRange =>
      exec_div h (divide_signed_spells signed nonzero (fun overflows => inRange (overflow_operands overflows))),
    fun h => exec_cmp h ?_, frontPure_of_issues, fun v => exec_lc, frontPure_of_issues, ?_, frontPure_of_issues,
    frontPure_of_issues, fun v => exec_alc, fun h => frontTile_of_issues h ?_ ?_ rfl,
    fun h => frontTile_of_issues h rfl ?_ rfl, fun h => frontTile_of_issues h ?_ ?_ rfl⟩
  · have oneOfSix : iFn w = 0 ∨ iFn w = 1 ∨ iFn w = 2 ∨ iFn w = 3 ∨ iFn w = 4 ∨ iFn w = 5 := by
      simpa using cmp_condition h
    change condHolds (iFn w) fa.toNat fb.toNat = _
    rcases oneOfSix with k | k | k | k | k | k <;>
      simp only [k, condHolds, toSigned_toNat, BitVec.toNat_inj, ne_eq]
  · rintro plan rfl
    exact frontPure_of_issues
  · rw [opA, opB, ofNat_eq_append]
  · simp [Plan.front, w]
  · simp [Plan.front, w]
  · rw [ofNat_eq_extractLsb']
  · simp [Plan.front, useT, w]

end Sys2Proof.Machine
end

section
/-! PROOFS. Predicate registers (07 R221, 08 R279): bit by bit, what writing lane bits leaves, and what PLOGIC, PSET and PCNT make of
their context. -/

namespace Sys2Proof.Machine

/-! ## Bits as bytes -/

theorem testBit_foldr_bit (bs : List Bool) (i : Nat) : (bs.foldr Nat.bit 0).testBit i = bs.getD i false := by
  induction bs generalizing i with
  | nil => simp
  | cons b bs ih =>
    cases i with
    | zero => simp
    | succ i => simp [Nat.testBit_bit_succ, ih]

/-- Bits weighed by their places add up to the number that they spell. -/
theorem foldl_weighted_bits (bs : List Bool) (k a : Nat) :
    (((bs.zipIdx k).map (fun (b, i) => if b then 2 ^ i else 0)).foldl (· + ·) a) = a + 2 ^ k * bs.foldr Nat.bit 0 := by
  induction bs generalizing k a with
  | nil => simp
  | cons b bs ih =>
    simp only [List.zipIdx_cons, List.map_cons, List.foldl_cons, ih, List.foldr_cons, Nat.bit_val]
    cases b <;> simp [pow_succ] <;> ring

theorem testBit_ofLe_chunkBits (k i : Nat) (bs : List Bool) (inside : i < 8 * k) :
    (ofLe (putLanes.chunkBits bs k)).testBit i = bs.getD i false := by
  induction k generalizing bs i with
  | zero => omega
  | succ k ih =>
    rw [putLanes.chunkBits, ofLe, Nat.add_comm, show 256 = 2 ^ 8 from rfl, Nat.testBit_two_pow_mul_add _ (BitVec.isLt _)]
    split
    · next low =>
      rw [BitVec.toNat_ofNat, foldl_weighted_bits, Nat.testBit_mod_two_pow]
      simp [testBit_foldr_bit, low]
    · next high =>
      rw [ih _ _ (by omega)]
      simp [Nat.add_sub_cancel' (Nat.le_of_not_lt high)]

/-! ## Lane bits (07 R221) -/

theorem getLsbD_putLanes (p : BitVec 256) (ty : Nat) (change : Nat → Option Bool) (i : Nat) (lane : i < 256) :
    (putLanes p ty change).getLsbD i = (change (i / (tyW ty / 8))).getD (p.getLsbD i) := by
  rw [putLanes, BitVec.getLsbD_ofNat, testBit_ofLe_chunkBits 32 i _ lane]
  simp [lane]

/-- Each type of the vector unit takes whole lanes. -/
theorem laneBytes_pos {ty : Nat} (vec : vecType ty = true) : 0 < tyW ty / 8 := by
  have used : ty < 14 := by
    simp only [vecType, Bool.and_eq_true, decide_eq_true_eq] at vec
    omega
  have each : ∀ t < 14, vecType t = true → 0 < tyW t / 8 := by decide
  exact each ty used vec

/-- The predicate that PSET writes. -/
def firstLanes (ty count : Nat) : BitVec 256 := putLanes 0 ty (fun i => some (decide (i < min count (laneCount ty))))

theorem getLsbD_firstLanes {ty : Nat} (vec : vecType ty = true) (count i : Nat) (lane : i < 256) :
    (firstLanes ty count).getLsbD i = decide (i < min count (2048 / tyW ty) * (tyW ty / 8)) := by
  rw [firstLanes, getLsbD_putLanes _ _ _ _ lane, Option.getD_some, laneCount]
  exact decide_eq_decide.2 (Nat.div_lt_iff_lt_mul (laneBytes_pos vec))

/-! ## The operations (08 R279) -/

@[simp] theorem Ctx.ops_setS (x : Ctx) (n : Nat) (v : W64) : (x.setS n v).ops = x.ops := by
  unfold Ctx.setS
  split <;> rfl

section Operation

variable {s : State} {e : EngineId} {c : Nat} {x : Ctx} {o : Op}

/-- The first operation of the vector unit leaves its queue with its effect on the context. -/
theorem exec_opComplete_vector {y : Ctx} (active : activeOn s e.val = some (c, x)) (front : frontOp x .vector = some o)
    (unit : o.unit = .vector) (does : doOp x o = y) (keepsOps : y.ops = x.ops) : exec (.opComplete e .vector) s =
      .next (s.setCtx c (some { y with ops := x.ops.filter (fun p => p.seq ≠ o.seq) })) := by
  rw [exec_opComplete active front, completeOp_unit (by rw [unit]; decide), does, Ctx.done, keepsOps]

theorem doOp_plogic (isPlogic : iOp o.word.toNat = 0x62) : doOp x o = doPlogic x o := by simp only [doOp, isPlogic]

theorem doOp_pset (isPset : iOp o.word.toNat = 0x63) :
    doOp x o = x.setP (iFd o.word.toNat) (firstLanes (iTy o.word.toNat) o.sa.toNat) := by
  simp only [doOp, isPset, doPset, firstLanes]

theorem doOp_pcnt (isPcnt : iOp o.word.toNat = 0x64) :
    doOp x o = x.setS (iFd o.word.toNat) (BitVec.ofNat 64 ((List.range (laneCount (iTy o.word.toNat))).filter
      (governs (x.preg (iFa o.word.toNat)) (iTy o.word.toNat))).length) := by
  simp only [doOp, isPcnt, doPcnt]

end Operation

/-- Settles O46: each operation by its opcode, PLOGIC by its SUB, and PSET's register lane by lane. -/
theorem predicateOperations : Obligations.PredicateOperations := by
  intro e s c x o active front unit w put a b n
  have completes {y : Ctx} := exec_opComplete_vector (y := y) active front unit
  refine ⟨fun isPlogic => ?_, fun isPset vec => ⟨_, completes (doOp_pset isPset) rfl, getLsbD_firstLanes vec _⟩,
    fun isPcnt _ => completes (doOp_pcnt isPcnt) (Ctx.ops_setS _ _ _)⟩
  have logic {v : BitVec 256} (does : doPlogic x o = x.setP (iFd w) v) := completes ((doOp_plogic isPlogic).trans does) rfl
  refine ⟨fun sub => logic ?_, fun sub => logic ?_, fun sub => logic ?_, fun sub => logic ?_, fun sub => logic ?_⟩ <;>
    simp only [doPlogic, sub, w, a, b]

end Sys2Proof.Machine
end

section
/-! PROOFS. Every command has a next state (08 R264, 12 R428): what goes wrong is said in the state, and no arm ends otherwise. -/

namespace Sys2Proof.Machine

/-- A row that waits while its unit is stopped, or outside Run, answers next either way (16 R559, 15 Table 15.2). -/
theorem answers_gated (waits : Prop) [Decidable waits] (s t : State) :
    ∃ u, (if waits then .next s else .next t : Host.Outcome State Fault Refusal) = .next u := by
  split <;> exact ⟨_, rfl⟩

/-- Settles O2: the rows of a unit that can be stopped or stand still answer next on both sides of their gate; each other row is a next
state as it stands. -/
theorem everyCommandAnswersNext : Obligations.EveryCommandAnswersNext := by
  intro i s
  cases i with
  | slotAdmit | checkpoint | thresholdReceive | chainCand | chainStats | chainLeave | refineResult | refineReadDone
  | payloadReadDone | csnBackfill | exclusionSettle | reclaim | mergeHandover | blockMove | blockReload | garbageCollection
  | wearRelocation | pageIn | pageInDone | pageinPreempt | eviction | evictionWriteDone | preempt | contextTimeout | workStart
  | contextRestore => exact answers_gated _ _ _
  | _ => exact ⟨_, rfl⟩

end Sys2Proof.Machine
end

section
/-! PROOFS. What a controller makes of one sector's read (10 R343-R347, Table 10.4), and the controllers' own work: the write buffer,
refresh, patrol scrub, bank modes, SCAN_FENCE, and a stack that stops answering (10 R346, R351, R354, R361-R363, 14 R503). -/

namespace Sys2Proof.Machine

/-! ## The read of one PROT sector (10 R343-R347) -/

section Sector

variable {s : State} {r p : Nat} {tag : Byte} {hide : Bool}

theorem readFinding_poisoned (poison : s.hbm.poisoned.contains (p / 32) = true) (f : Finding) :
    readFinding s r p (some tag) hide f =
      (s.modCtl (stackOf p) (fun c => { c with poison := satAdd 6 c.poison 1 }.logged r 3 p hide), false) := by
  simp only [readFinding, Option.isSome_some, poison, Bool.and_self, if_true]

variable (sound : s.hbm.poisoned.contains (p / 32) = false)
include sound

theorem readFinding_oneSymbol (agrees : tagOk s p (some tag) = true) :
    readFinding s r p (some tag) hide .oneSymbol =
      (s.modCtl (stackOf p) (fun c => { c with ce := satAdd 16 c.ce 1 }), true) := by
  simp only [readFinding, sound, agrees, Bool.true_or, Bool.and_false, Bool.false_eq_true, if_false, if_true, causeOf, Stack.counted,
    Option.isSome_some]

theorem readFinding_twoSymbols :
    readFinding s r p (some tag) hide .twoSymbols =
      ((s.modCtl (stackOf p) (fun c => { c with ue := satAdd 8 c.ue 1 })).modCtl (stackOf p) (fun c => c.logged r 1 p hide), false) := by
  simp only [readFinding, sound, decide_true, Bool.or_true, Bool.and_false, Bool.false_eq_true, if_false, if_true, causeOf,
    Stack.counted, Option.isSome_some, one_ne_zero]

/-- A tag that differs is met whether the check finds it or the sector holds it; two symbols hide it. -/
theorem readFinding_tagMismatch {f : Finding} (differs : f = .tagMismatch ∨ (tagOk s p (some tag) = false ∧ f ≠ .twoSymbols)) :
    readFinding s r p (some tag) hide f =
      ((s.modCtl (stackOf p) (fun c => { c with mis := satAdd 8 c.mis 1 })).modCtl (stackOf p) (fun c => c.logged r 2 p hide), false) := by
  have met : (if tagOk s p (some tag) || f = .twoSymbols then f else .tagMismatch) = .tagMismatch := by
    rcases differs with found | ⟨stands, single⟩
    · rw [found, ite_self]
    · simp only [stands, single, decide_false, Bool.or_self, Bool.false_eq_true, if_false]
  simp only [readFinding, met, sound, Bool.and_false, Bool.false_eq_true, if_false, if_true, causeOf, Stack.counted,
    Option.isSome_some, OfNat.ofNat_ne_zero]

end Sector

/-! ## The write buffer and refresh (10 R351, R363) -/

section Pseudochannel

variable {s : State} {p : PchId}

theorem exec_writeBufferDrain_waits (few : (s.pch p.val).wbuf < 32) : exec (.writeBufferDrain p) s = .next s :=
  congrArg Host.Outcome.next (if_neg few.not_ge)

theorem exec_writeBufferDrain_drains (batch : 32 ≤ (s.pch p.val).wbuf) :
    exec (.writeBufferDrain p) s = .next (s.modPch p.val (fun c => { c with wbuf := 0 })) :=
  congrArg Host.Outcome.next (if_pos batch)

theorem exec_refresh_postponed (scan : (s.pch p.val).scan = true) (few : (s.pch p.val).postponed < 4) :
    exec (.refresh p true) s = .next (s.modPch p.val (fun x => { x with postponed := (s.pch p.val).postponed + 1 })) := by
  simp only [exec, execRefresh, scan, few, decide_true, Bool.and_self, if_true]

theorem exec_refresh_catchesUp {b : Bool} (due : b = false ∨ (s.pch p.val).scan = false ∨ 4 ≤ (s.pch p.val).postponed) :
    exec (.refresh p b) s = .next (s.modPch p.val (fun x => { x with postponed := 0 })) := by
  have now : (b && (s.pch p.val).scan && decide ((s.pch p.val).postponed < 4)) = false := by
    rcases due with asked | normal | full
    · rw [asked, Bool.false_and, Bool.false_and]
    · rw [normal, Bool.and_false, Bool.false_and]
    · rw [decide_eq_false full.not_gt, Bool.and_false]
  simp only [exec, execRefresh, now, Bool.false_eq_true, if_false]

/-! ## Bank modes (10 R354, R355, Table 10.7) -/

theorem State.modPch_congr {s : State} {n : Nat} {f g : Pch → Pch} (same : f (s.pch n) = g (s.pch n)) : s.modPch n f = s.modPch n g := by
  have entry : f (Tab.get Pch.initial s.hbm.pchs n) = g (Tab.get Pch.initial s.hbm.pchs n) := same
  simp only [State.modPch, Tab.mod, entry]

/-- The banks that change are those in which the two masks differ. -/
theorem Pch.changing_eq_xor {c : Pch} (pending : c.pendingChange = true) : c.changing = c.banks ^^^ c.nextBanks := by
  rw [Pch.changing, if_pos pending]
  ext i
  simp only [BitVec.getElem_or, BitVec.getElem_and, BitVec.getElem_not, BitVec.getElem_xor]
  cases c.banks[i] <;> cases c.nextBanks[i] <;> rfl

theorem exec_bankModeChange_confirm_refused {n : BitVec 48}
    (refused : (s.pch p.val).pendingChange = true ∨ modeChangeOk s p.val n = false) :
    exec (.bankModeChange p (.confirm n)) s = .next s := by
  refine congrArg Host.Outcome.next (if_neg ?_)
  rcases refused with pending | held
  · simp only [pending, Bool.not_true, Bool.false_and, Bool.false_eq_true, not_false_eq_true]
  · simp only [held, Bool.and_false, Bool.false_eq_true, not_false_eq_true]

theorem exec_bankModeChange_confirm_asked {n : BitVec 48} (fresh : (s.pch p.val).pendingChange = false)
    (fits : modeChangeOk s p.val n = true) :
    let t := s.modPch p.val (fun c => { c with pendingChange := true, nextBanks := n })
    exec (.bankModeChange p (.confirm n)) s = .next (fitScan (outOrder t) t) := by
  simp only [exec, execBankModeChange, fresh, fits, Bool.not_false, Bool.and_self, if_true]

/-- Steps 3 to 7 need a change that is asked for and still fits. -/
theorem exec_bankModeChange_zero_finish_idle
    (idle : (s.pch p.val).pendingChange = false ∨ modeChangeOk s p.val (s.pch p.val).nextBanks = false) :
    exec (.bankModeChange p .zero) s = .next s ∧ exec (.bankModeChange p .finish) s = .next s := by
  rcases idle with unasked | held
  · simp only [exec, execBankModeChange, unasked, Bool.false_and, Bool.false_eq_true, if_false, and_self]
  · simp only [exec, execBankModeChange, held, Bool.and_false, Bool.false_and, Bool.false_eq_true, if_false, and_self]

theorem exec_bankModeChange_zero_zeroed (zeroing : (s.pch p.val).zeroing = true) : exec (.bankModeChange p .zero) s = .next s := by
  simp only [exec, execBankModeChange, zeroing, Bool.not_true, Bool.and_false, Bool.false_and, Bool.false_eq_true, if_false]

theorem exec_bankModeChange_finish_unzeroed (untouched : (s.pch p.val).zeroing = false) :
    exec (.bankModeChange p .finish) s = .next s := by
  simp only [exec, execBankModeChange, untouched, Bool.and_false, Bool.false_and, Bool.false_eq_true, if_false]

/-- A Weevil that leaves scan mode completes what it has accepted first. -/
theorem exec_bankModeChange_finish_waits (leaves : (s.pch p.val).nextBanks = 0) (accepted : (s.weevil p.val).accepted ≠ []) :
    exec (.bankModeChange p .finish) s = .next s := by
  have busy : (s.weevil p.val).accepted.isEmpty = false := List.isEmpty_eq_false_iff.2 accepted
  simp only [exec, execBankModeChange, leaves, busy, ne_eq, not_true_eq_false, decide_false, Bool.or_self, Bool.and_false,
    Bool.false_eq_true, if_false]

section Change

variable (pending : (s.pch p.val).pendingChange = true) (fits : modeChangeOk s p.val (s.pch p.val).nextBanks = true)
include pending fits

theorem exec_bankModeChange_zero_zeroes (untouched : (s.pch p.val).zeroing = false) :
    let m := (s.pch p.val).banks ^^^ (s.pch p.val).nextBanks
    exec (.bankModeChange p .zero) s =
      .next ((dropZeroed (zeroBanks s p.val m) p.val m).modPch p.val (fun c => { c with zeroing := true })) := by
  simp only [exec, execBankModeChange, pending, fits, untouched, Bool.not_false, Bool.and_self, if_true, zeroChanging,
    Pch.changing_eq_xor pending]

theorem exec_bankModeChange_finish_takes (zeroing : (s.pch p.val).zeroing = true) (stays : (s.pch p.val).nextBanks ≠ 0) :
    exec (.bankModeChange p .finish) s = .next (refitColls (s.modPch p.val (fun c => { c with
      banks := (s.pch p.val).nextBanks, scan := true, pendingChange := false, zeroing := false }))) := by
  have takes : takeBanks s p.val = s.modPch p.val (fun c => { c with
      banks := (s.pch p.val).nextBanks, scan := true, pendingChange := false, zeroing := false }) :=
    State.modPch_congr (by simp only [stays, ne_eq, not_false_eq_true, decide_true])
  simp only [exec, execBankModeChange, pending, zeroing, fits, stays, takes, ne_eq, not_false_eq_true, decide_true, Bool.true_or,
    Bool.and_self, if_true, if_false]

end Change

end Pseudochannel

/-! ## SCAN_FENCE (10 R361, R362) -/

theorem exec_hbmcSfence_awake {s : State} (up : awake s) (c : CoreId) (st : StackId) (v : W64) :
    exec (.hbmcSfence c st v) s = .next (s.modCtl st.val (fun x => { x with
      pending := Tab.mod 0#32 x.pending c.val (fun m => m ||| (1#32 <<< (v.toNat % 32))) })) := by
  simp only [exec, execHbmcSfence, blockOff_of_awake up, Bool.false_eq_true, if_false]

/-! ## Patrol scrub (10 R346) -/

section Scrub

variable {s : State} {a : Dpa}

theorem exec_patrolScrub_passes (f : Finding) (nothing : protSector s a.toNat = none) : exec (.patrolScrub a f) s = .next s := by
  simp only [exec, execPatrolScrub, nothing]

variable {p : Nat} {tag : Byte} {hide : Bool} (sector : protSector s a.toNat = some (p, tag, hide))
include sector

theorem exec_patrolScrub_out (f : Finding) (out : (s.ctl (stackOf p)).retired = true ∨ (s.ctl (stackOf p)).answering = false) :
    exec (.patrolScrub a f) s = .next s := by
  rcases out with retired | silent
  · simp only [exec, execPatrolScrub, sector, retired, Bool.true_or, if_true]
  · simp only [exec, execPatrolScrub, sector, silent, Bool.not_false, Bool.or_true, if_true]

variable (stands : (s.ctl (stackOf p)).retired = false) (answers : (s.ctl (stackOf p)).answering = true)
include stands answers

/-- A sector that returns its data is only counted. -/
theorem exec_patrolScrub_counts {f : Finding} (returns : (readFinding s.draw.2 (s.draw.1 % 16) p (some tag) hide f).2 = true) :
    exec (.patrolScrub a f) s = .next (readFinding s 0 p (some tag) hide f).1 := by
  simp only [exec, execPatrolScrub, sector, stands, answers, Bool.not_true, Bool.or_self, Bool.false_eq_true, if_false, returns,
    if_true]

/-- What returns no data is logged under a class that is free (log 5). -/
theorem exec_patrolScrub_logs {f : Finding} (lost : (readFinding s.draw.2 (s.draw.1 % 16) p (some tag) hide f).2 = false) :
    exec (.patrolScrub a f) s = .next (readFinding s.draw.2 (s.draw.1 % 16) p (some tag) hide f).1 := by
  simp only [exec, execPatrolScrub, sector, stands, answers, Bool.not_true, Bool.or_self, Bool.false_eq_true, if_false, lost]

end Scrub

/-! ## A stack that stops answering (14 R503) -/

section Silent

variable {s : State} {st : StackId}

theorem exec_stackStopsAnswering_retired (retired : (s.ctl st.val).retired = true) : exec (.stackStopsAnswering st) s = .next s :=
  congrArg Host.Outcome.next (if_pos retired)

theorem exec_stackStopsAnswering_plain (stands : (s.ctl st.val).retired = false) (plain : 8 ≤ st.val) :
    exec (.stackStopsAnswering st) s =
      .next { s.modCtl st.val (fun x => { x with answering := false }) with hbm.serviceStopped := true, mod.accepting := false } := by
  simp only [exec, execStackStopsAnswering, stands, plain, Bool.false_eq_true, if_false, if_true]

end Silent

/-- Settles O51: each row by what holds it back, and else by what it does; a scrub by what its one sector's read finds. -/
theorem controllersGoOn : Obligations.ControllersGoOn := by
  intro s
  refine ⟨fun p => ⟨exec_writeBufferDrain_waits, exec_writeBufferDrain_drains, exec_refresh_postponed,
      fun b => exec_refresh_catchesUp, ⟨fun n => exec_bankModeChange_confirm_refused, fun n => exec_bankModeChange_confirm_asked,
        exec_bankModeChange_zero_finish_idle, fun pending fits => ⟨exec_bankModeChange_zero_zeroed, fun untouched =>
          ⟨exec_bankModeChange_finish_unzeroed untouched, exec_bankModeChange_zero_zeroes pending fits untouched⟩,
          fun _ => exec_bankModeChange_finish_waits, exec_bankModeChange_finish_takes pending fits⟩⟩,
      fun c => rfl, fun e => rfl⟩,
    fun c st v up => exec_hbmcSfence_awake up c st v, fun a f => exec_patrolScrub_passes f, fun a p tag hide sector =>
      ⟨fun f => exec_patrolScrub_out sector f, fun stands answers => ⟨fun sound => ⟨fun agrees => ?_, ?_⟩, fun f poison => ?_⟩⟩,
    fun st => ⟨exec_stackStopsAnswering_retired, exec_stackStopsAnswering_plain⟩⟩
  · rw [exec_patrolScrub_counts sector stands answers (by rw [readFinding_oneSymbol (s := s.draw.2) sound agrees]),
      readFinding_oneSymbol sound agrees]
  · have found := readFinding_twoSymbols (s := s.draw.2) (r := s.draw.1 % 16) (tag := tag) (hide := hide) sound
    rw [exec_patrolScrub_logs sector stands answers (by rw [found]), found]
  · have found := readFinding_poisoned (s := s.draw.2) (r := s.draw.1 % 16) (tag := tag) (hide := hide) poison f
    rw [exec_patrolScrub_logs sector stands answers (by rw [found]), found]

end Sys2Proof.Machine
end

section
/-! PROOFS. Accesses of memory (10 R336, R343-R351, R361, 09 R327-R329): what keeps one from the controllers, what an error or a
finding answers, the bytes that a write stores and a read returns, and atomics. -/

namespace Sys2Proof.Machine

/-! ## Accesses that do not reach a controller (10 R361, 16 R550, log 35) -/

section Away

variable {s : State} {r : Requester} {c : CoreId} {a n : Nat}

theorem reaches_csr (csr : 0x10000000000 ≤ a ∧ a < 0x10010000000) : reaches s ⟨r, c⟩ a n = false := by
  simp only [reaches, isCsr, csr, and_self, decide_true, Bool.not_true, Bool.false_and]

theorem reaches_pcie (host : r.val = 6) (shut : s.links.pcieUp = false ∨ a < 0xC000000000 ∨ 0x10000000000 < a + n) :
    reaches s ⟨r, c⟩ a n = false := by
  have closed : bar2Ok s 6 a n = false := by
    rcases shut with down | below | beyond
    · simp [bar2Ok, down]
    · simp [bar2Ok, below.not_ge]
    · simp [bar2Ok, beyond.not_ge]
  simp only [reaches, host, closed, Bool.and_false, Bool.false_and]

/-- A core's access waits where any byte of it lies in a pseudo-channel with a fence of the core's pending. -/
theorem reaches_fenced (core : r.val = 0) {i p : Nat} {tag : Option Byte} {hide : Bool} (inside : i < n)
    (byte : find s 0 (a + i) = .data p tag hide) (fence : (Tab.get 0#32 (s.ctl (stackOf p)).pending c.val).getLsbD (pcOf p) = true) :
    reaches s ⟨r, c⟩ a n = false := by
  have isCore : r = 0 := Fin.ext core
  have fenced : fencedAt s c.val (a + i) = true := by simp only [fencedAt, byte, fence]
  have waits : (List.range n).any (fun i => fencedAt s c.val (a + i)) = true :=
    List.any_eq_true.2 ⟨i, List.mem_range.2 inside, fenced⟩
  simp only [reaches, isCore, waits, decide_true, Bool.and_self, Bool.not_true, Bool.and_false]

end Away

/-! ## Places of an access -/

theorem length_placesOf {s : State} {r a n : Nat} (fits : firstError s r a n = none) : (placesOf s r a n).length = n := by
  induction n generalizing a with
  | zero => rfl
  | succ n ih =>
    rw [firstError] at fits
    rw [placesOf]
    cases byte : find s r a with
    | data p tag hide => simp only [byte] at fits ⊢; simp [ih fits]
    | window p w => simp only [byte] at fits ⊢; simp [ih fits]
    | error ctl dpa hide => simp [byte] at fits

theorem sectorsOf_subset (ps : List (Nat × Option Byte × Bool)) : sectorsOf ps ⊆ ps := by
  induction ps with
  | nil => exact List.Subset.refl _
  | cons p t ih =>
    cases t with
    | nil => exact List.Subset.refl _
    | cons q t =>
      rw [sectorsOf]
      split
      · exact List.subset_cons_of_subset _ ih
      · exact List.cons_subset_cons _ ih

/-- No window is touched by a byte outside every window. -/
theorem winPart_one {s : State} {a : Nat} (outside : windowAt s a = none) : winPart s a 1 = none := by
  rw [winPart, outside]
  dsimp only
  split
  · next first => rw [Nat.lt_one_iff.1 first, Nat.add_zero, outside, Option.map_none]
  · rfl

/-! ## Reads (10 R336, R343, R347) -/

/-- A canonical table does not change where a number takes the value that it has. -/
theorem Tab.set_get {α : Type} [DecidableEq α] (d : α) (n : Nat) : (t : Tab α) → (lo : Nat) → Tab.wfFrom d lo t = true →
    Tab.set d t n (Tab.get d t n) = t
  | [], _, _ => if_pos rfl
  | (k, v) :: t, lo, h => by
    simp only [Tab.wfFrom, Bool.and_eq_true, decide_eq_true_eq] at h
    obtain ⟨⟨-, listed⟩, rest⟩ := h
    rcases lt_trichotomy n k with before | here | after
    · simp only [Tab.get, Tab.set, if_pos before, if_true]
    · subst here
      simp only [Tab.get, Tab.set, lt_self_iff_false, if_false, if_true, if_neg listed]
    · simp only [Tab.get, Tab.set, if_neg after.not_gt, if_neg after.ne', Tab.set_get d n t (k + 1) rest]

theorem State.modCtl_self {s : State} (wf : Tab.wf Stack.initial s.hbm.ctls = true) (n : Nat) : s.modCtl n (fun c => c) = s := by
  simp only [State.modCtl, Tab.mod, Tab.set_get Stack.initial n s.hbm.ctls 0 wf]

/-- The read of a sector changes the controllers' counts and logs alone. -/
theorem readFinding_ctls (s : State) (r p : Nat) (tag : Option Byte) (hide : Bool) (f : Finding) :
    ∃ k, (readFinding s r p tag hide f).1 = { s with hbm.ctls := k } := by
  unfold readFinding
  dsimp only
  (repeat' split) <;> exact ⟨_, rfl⟩

theorem windowAt_readFinding (s : State) (r p : Nat) (tag : Option Byte) (hide : Bool) (f : Finding) (a : Nat) :
    windowAt (readFinding s r p tag hide f).1 a = windowAt s a := by
  obtain ⟨k, counts⟩ := readFinding_ctls s r p tag hide f
  rw [counts]
  rfl

section Clean

variable {s : State} (sound : s.hbm.poisoned = []) (wf : Tab.wf Stack.initial s.hbm.ctls = true)
include sound wf

theorem readFinding_clean {p : Nat} {tag : Option Byte} (r : Nat) (hide : Bool) (agrees : tagOk s p tag = true) :
    readFinding s r p tag hide .clean = (s, true) := by
  simp only [readFinding, sound, agrees, Bool.true_or, if_true, List.contains_nil, Bool.and_false, Bool.false_eq_true, if_false,
    causeOf, Stack.counted, State.modCtl_self wf]

theorem readSectors_clean (r : Nat) (ps : List (Nat × Option Byte × Bool)) (agree : ∀ q ∈ ps, tagOk s q.1 q.2.1 = true) :
    readSectors s r ps .clean = (s, true) := by
  induction ps with
  | nil => rfl
  | cons p t ih =>
    obtain ⟨p, tag, hide⟩ := p
    simp only [List.mem_cons, forall_eq_or_imp] at agree
    simp only [readSectors, readFinding_clean sound wf r hide agree.1, ih agree.2, Bool.and_self]

theorem read_clean {r a n : Nat} (fits : firstError s r a n = none) (agree : ∀ q ∈ placesOf s r a n, tagOk s q.1 q.2.1 = true) :
    s.read r a n .clean = (s, some ((placesOf s r a n).map (fun p => s.byte p.1))) := by
  have sectors := readSectors_clean sound wf r (sectorsOf (placesOf s r a n)) (fun q h => agree q (sectorsOf_subset _ h))
  simp only [State.read, fits, sectors, if_true]

end Clean

/-- A read of one byte of data is the read of its sector. -/
theorem read_one {s : State} {r a p : Nat} {tag : Option Byte} {hide : Bool} (byte : find s r a = .data p tag hide) (f : Finding) :
    s.read r a 1 f = ((readFinding s r p tag hide f).1,
      if (readFinding s r p tag hide f).2 then some [s.byte p] else none) := by
  have kept : (readFinding s r p tag hide f).1.byte p = s.byte p := congrArg (Tab.get 0 · p) (readFinding_mem ..)
  simp only [State.read, firstError, placesOf, byte, List.append_nil, sectorsOf, readSectors, Bool.and_true, List.map_cons,
    List.map_nil, kept]

section Read

variable {s u : State} {r : Requester} {c : CoreId} {a : Dpa} {n : Nat} {f : Finding}

theorem exec_memoryRead_away (away : reaches s ⟨r, c⟩ a.toNat n = false) : exec (.memoryRead ⟨r, c⟩ a n f) s = .next s := by
  simp only [exec, execMemoryRead, away, Bool.not_false, if_true]

variable (goes : reaches s ⟨r, c⟩ a.toNat n = true)
include goes

theorem exec_memoryRead_denied (lost : s.read r.val a.toNat n f = (u, none)) :
    exec (.memoryRead ⟨r, c⟩ a n f) s = .next { u with rsp := .denied } := by
  simp only [exec, execMemoryRead, goes, Bool.not_true, Bool.false_eq_true, if_false, busRead, lost]

/-- Whether a read touches a window is asked of the state that its counts leave. -/
theorem exec_memoryRead_answers {bs : List Byte} (outside : winPart u a.toNat n = none)
    (returns : s.read r.val a.toNat n f = (u, some bs)) : exec (.memoryRead ⟨r, c⟩ a n f) s =
      .next { u with rsp := .bytes (if r.val = 3 ∧ isPlace a.toNat = true then readRows u a.toNat bs else bs) } := by
  simp only [exec, execMemoryRead, goes, Bool.not_true, Bool.false_eq_true, if_false, busRead, returns, outside, Bool.and_eq_true,
    decide_eq_true_eq]

end Read

theorem read_of_error {s : State} {r a n : Nat} {e : Nat × Option Nat × Bool} (error : firstError s r a n = some e) (f : Finding) :
    s.read r a n f = (accessError s r e.2.1 e.1 e.2.2, none) := by
  simp only [State.read, error]

theorem write_of_error {s : State} {r a : Nat} {bs : List Byte} {e : Nat × Option Nat × Bool}
    (error : firstError s r a bs.length = some e) (f : Finding) :
    s.write r a bs f = (accessError s r e.2.1 e.1 e.2.2, false) := by
  simp only [State.write, error]

/-! ## Writes (10 R345, R351) -/

theorem write_succeeds {s : State} {r a : Nat} {bs : List Byte} (fits : firstError s r a bs.length = none) (f : Finding) :
    (s.write r a bs f).2 = true := by
  simp only [State.write, fits]

/-! A write leaves the region table as it was. -/

theorem readFinding_regions (s : State) (r p : Nat) (tag : Option Byte) (w : Bool) (f : Finding) :
    (readFinding s r p tag w f).1.hbm.regions = s.hbm.regions := by
  obtain ⟨k, counts⟩ := readFinding_ctls s r p tag w f
  rw [counts]

theorem writeSectors_regions (qs ps : List (Nat × Option Byte × Bool)) (s : State) (r : Nat) (f : Finding) :
    (writeSectors s r qs ps f).hbm.regions = s.hbm.regions := by
  induction ps generalizing s f with
  | nil => rfl
  | cons p t ih =>
    obtain ⟨p, _ | q, w⟩ := p
    · exact ih _ _
    · unfold writeSectors
      split
      · rw [ih]
        split <;> rfl
      · dsimp only
        rw [ih]
        split <;> exact readFinding_regions _ _ _ _ _ _

theorem putAt_regions (ps : List (Nat × Option Byte × Bool)) (bs : List Byte) (s : State) :
    (s.putAt ps bs).hbm.regions = s.hbm.regions := by
  induction ps generalizing s bs with
  | nil => rfl
  | cons p ps ih =>
    cases bs with
    | nil => rfl
    | cons b bs => exact ih bs _

theorem foldl_buffered_regions (ls : List Nat) (s : State) : (ls.foldl buffered s).hbm.regions = s.hbm.regions := by
  induction ls generalizing s with
  | nil => rfl
  | cons l ls ih => exact ih _

theorem write_regions (s : State) (r a : Nat) (bs : List Byte) (f : Finding) : (s.write r a bs f).1.hbm.regions = s.hbm.regions := by
  unfold State.write
  split
  · rfl
  · exact (foldl_buffered_regions ..).trans ((putAt_regions ..).trans (writeSectors_regions ..))

theorem rowsWritten_hbm (s : State) (a : Nat) (bs : List Byte) : (rowsWritten s a bs).hbm = s.hbm := by
  unfold rowsWritten
  split <;> rfl

/-- What stands after a write outside every window: the bytes, and, for the allocator, the records of the rows written (R356). -/
def stored (s : State) (r a : Nat) (bs : List Byte) (f : Finding) : State :=
  if r = 3 then rowsWritten (s.write r a bs f).1 a bs else (s.write r a bs f).1

section Stored

variable (s : State) (r a : Nat) (bs : List Byte) (f : Finding)

theorem stored_hbm : (stored s r a bs f).hbm = (s.write r a bs f).1.hbm := by
  unfold stored
  split
  · exact rowsWritten_hbm ..
  · rfl

theorem stored_without : (stored s r a bs f).without [.rsp, .hbm, .corpus] = s.without [.rsp, .hbm, .corpus] := by
  have written := State.write_without s r a bs f [.rsp, .hbm, .corpus] (by decide)
  unfold stored
  split
  · rw [rowsWritten_without _ _ _ _ (by decide), written]
  · exact written

/-- Only the allocator's writes change records. -/
theorem stored_corpus (other : r ≠ 3) : (stored s r a bs f).corpus = s.corpus := by
  rw [stored, if_neg other]
  simpa [State.without] using congrArg State.corpus (State.write_without s r a bs f [.hbm] (List.Subset.refl _))

theorem stored_wf (wf : Memory.wf s = true) : Memory.wf (stored s r a bs f) = true := by
  rw [Memory.wf, stored_hbm]
  exact write_wf s r a bs f wf

theorem stored_byte (fits : firstError s r a bs.length = none) (p : Nat) :
    (stored s r a bs f).byte p = (s.putAt (placesOf s r a bs.length) bs).byte p := by
  rw [State.byte, stored_hbm, write_mem fits, State.byte]

end Stored

section Write

variable {s : State} {r : Requester} {c : CoreId} {a : Dpa} {bs : List Byte} {f : Finding}

theorem exec_memoryWrite_away (away : reaches s ⟨r, c⟩ a.toNat bs.length = false) : exec (.memoryWrite ⟨r, c⟩ a bs f) s = .next s := by
  simp only [exec, execMemoryWrite, away, Bool.not_false, if_true]

variable (goes : reaches s ⟨r, c⟩ a.toNat bs.length = true) (outside : winPart s a.toNat bs.length = none)
include goes outside

theorem exec_memoryWrite_denied {e : Nat × Option Nat × Bool} (error : firstError s r.val a.toNat bs.length = some e) :
    exec (.memoryWrite ⟨r, c⟩ a bs f) s = .next { accessError s r.val e.2.1 e.1 e.2.2 with rsp := .denied } := by
  simp only [exec, execMemoryWrite, goes, Bool.not_true, Bool.false_eq_true, if_false, busWrite, outside, write_of_error error]

theorem exec_memoryWrite_stores (fits : firstError s r.val a.toNat bs.length = none) :
    exec (.memoryWrite ⟨r, c⟩ a bs f) s = .next { stored s r.val a.toNat bs f with rsp := .none } := by
  have accepted : s.write r.val a.toNat bs f = ((s.write r.val a.toNat bs f).1, true) := Prod.ext rfl (write_succeeds fits f)
  simp only [exec, execMemoryWrite, goes, Bool.not_true, Bool.false_eq_true, if_false, busWrite, outside]
  rw [accepted]
  rfl

end Write

/-! ## Atomics (09 R327-R329) -/

section Atomic

variable {s : State} {r : Requester} {c : CoreId} {a : Dpa} {ty : Fin 4} {op : Fin 8} {x cmp : W64}

theorem exec_memoryAtomic_away (away : reaches s ⟨r, c⟩ a.toNat (amoBytes ty.val) = false) :
    exec (.memoryAtomic ⟨r, c⟩ a ty op x cmp) s = .next s := by
  simp only [exec, execMemoryAtomic, away, Bool.not_false, Bool.true_or, if_true]

theorem exec_memoryAtomic_refused (bad : a.toNat % amoBytes ty.val ≠ 0 ∨ amoOk ty.val op.val = false) :
    exec (.memoryAtomic ⟨r, c⟩ a ty op x cmp) s = .next s := by
  refine congrArg Host.Outcome.next (if_pos ?_)
  rcases bad with unaligned | undefined
  · simp only [unaligned, ne_eq, not_false_eq_true, decide_true, Bool.or_true, Bool.true_or]
  · simp only [undefined, Bool.not_false, Bool.or_true]

variable (goes : reaches s ⟨r, c⟩ a.toNat (amoBytes ty.val) = true) (aligned : a.toNat % amoBytes ty.val = 0)
  (defined : amoOk ty.val op.val = true)
include goes aligned defined

/-- A bank in scan mode takes no atomic (R327). -/
theorem exec_memoryAtomic_scanMode (rows : isPlace a.toNat = true ∧ inScanMode s a.toNat = true) :
    exec (.memoryAtomic ⟨r, c⟩ a ty op x cmp) s =
      .next { accessError s r.val (some (stackOf a.toNat)) a.toNat (sealedPlace s a.toNat) with rsp := .denied } := by
  obtain ⟨place, scan⟩ := rows
  simp only [exec, execMemoryAtomic, goes, aligned, defined, ne_eq, not_true_eq_false, decide_false, Bool.not_true, Bool.or_self,
    Bool.false_eq_true, if_false, busAtomic, place, scan, Bool.and_self, Bool.or_true, if_true]

theorem exec_memoryAtomic_answers {u t : State} {bs : List Byte} (outside : windowAt s a.toNat = none)
    (plain : ¬ (isPlace a.toNat = true ∧ inScanMode s a.toNat = true))
    (old : s.read r.val a.toNat (amoBytes ty.val) .clean = (u, some bs))
    (new : u.write r.val a.toNat (leBytes (amoBytes ty.val) (atomicOp (amoTy ty.val) op.val (ofLe bs)
      (x.toNat % 2 ^ (8 * amoBytes ty.val)) (cmp.toNat % 2 ^ (8 * amoBytes ty.val))).bits) .clean = (t, true)) :
    exec (.memoryAtomic ⟨r, c⟩ a ty op x cmp) s = .next { t with rsp := .value (BitVec.ofNat 64 (ofLe bs)) } := by
  rw [← Bool.and_eq_true, Bool.not_eq_true] at plain
  simp only [exec, execMemoryAtomic, goes, aligned, defined, ne_eq, not_true_eq_false, decide_false, Bool.not_true, Bool.or_self,
    Bool.false_eq_true, if_false, busAtomic, outside, Option.isSome_none, plain, old, new]

end Atomic

/-! ## One byte of a PROT sector (10 Table 10.4) -/

section Sector

variable {s u : State} {r : Requester} {c : CoreId} {a : Dpa} {p : Nat} {tag : Byte} {hide : Bool} {f : Finding}
  (goes : reaches s ⟨r, c⟩ a.toNat 1 = true) (byte : find s r.val a.toNat = .data p (some tag) hide)
include goes byte

theorem exec_memoryRead_sector_answers (outside : windowAt s a.toNat = none)
    (found : readFinding s r.val p (some tag) hide f = (u, true)) : exec (.memoryRead ⟨r, c⟩ a 1 f) s = .next { u with
      rsp := .bytes (if r.val = 3 ∧ isPlace a.toNat = true then readRows u a.toNat [s.byte p] else [s.byte p]) } := by
  refine exec_memoryRead_answers goes (winPart_one ?_) ?_
  · rw [← outside, ← windowAt_readFinding s r.val p (some tag) hide f, found]
  · rw [read_one byte, found, if_pos rfl]

theorem exec_memoryRead_sector_denied (found : readFinding s r.val p (some tag) hide f = (u, false)) :
    exec (.memoryRead ⟨r, c⟩ a 1 f) s = .next { u with rsp := .denied } := by
  refine exec_memoryRead_denied goes ?_
  rw [read_one byte, found]
  rfl

end Sector

/-- Settles O50: an access that stays away by what keeps it, a write by the bytes that stand after it, and a read by what its sectors'
reads find. -/
theorem memoryKeepsItsBytes : Obligations.MemoryKeepsItsBytes := by
  refine ⟨fun r c a n bs f ty op x cmp s => ?_, fun r c a s outside => ⟨fun n f e goes error =>
    exec_memoryRead_denied goes (read_of_error error f), fun bs f e goes apart error => exec_memoryWrite_denied goes apart error,
    fun bs f goes apart fits wf => ?_, fun n goes apart fits sound wf agree =>
    exec_memoryRead_answers goes apart (read_clean sound wf fits agree), fun p tag hide goes byte => ?_,
    fun ty op x cmp u t bs => ⟨exec_memoryAtomic_refused, exec_memoryAtomic_scanMode,
      fun goes aligned defined => exec_memoryAtomic_answers goes aligned defined outside⟩⟩⟩
  · intro away
    have unreached {n : Nat} (h : away n) : reaches s ⟨r, c⟩ a.toNat n = false := by
      rcases h with csr | ⟨host, shut⟩ | ⟨core, i, inside, p, tag, hide, byte, fence⟩
      · exact reaches_csr csr
      · exact reaches_pcie host shut
      · exact reaches_fenced core inside byte fence
    exact ⟨fun h => exec_memoryRead_away (unreached h), fun h => exec_memoryWrite_away (unreached h),
      fun h => exec_memoryAtomic_away (unreached h)⟩
  · have bytes := stored_byte s r.val a.toNat bs f fits
    refine ⟨_, exec_memoryWrite_stores goes apart fits, rfl, ?_, stored_corpus s r.val a.toNat bs f, stored_wf s r.val a.toNat bs f wf,
      fun p away => (bytes p).trans (putAt_byte_other _ _ _ _ away wf), fun distinct => ?_, ?_⟩
    · exact stored_without s r.val a.toNat bs f
    · rw [List.map_map]
      exact (List.map_congr_left (fun p _ => bytes p.1)).trans (putAt_bytes _ _ _ distinct (length_placesOf fits).symm wf)
    · exact (congrArg Hbm.regions (stored_hbm ..)).trans (write_regions ..)
  · have denied {u : State} {f : Finding} := exec_memoryRead_sector_denied (c := c) (u := u) (f := f) goes byte
    exact ⟨fun sound => ⟨fun agrees => exec_memoryRead_sector_answers goes byte outside (readFinding_oneSymbol sound agrees),
      denied (readFinding_twoSymbols sound), fun f differs => denied (readFinding_tagMismatch sound differs)⟩,
      fun poison f => denied (readFinding_poisoned poison f)⟩

end Sys2Proof.Machine
end

section
/-! PROOFS. The MAINT commands of programs, samples and firmware (07 R252, 11 R370, R375, R385, R386, 12 R423, 14 R491): what each subop
does whose body is read, and the status with which it completes where a check fails. -/

namespace Sys2Proof.Machine

/-! ## A MAINT command whose body is read and which needs no owner (12 R422) -/

section Maint

variable {s s' : State} {q : QueueId} {sub : Nat} {c : Cmd} {bs : List Byte} {checks : State → Cmd → List Byte → Bool → Option Nat}
  {run : MaintRun}

theorem runMaint_refused {st : Nat} (read : MaintRead s s' q sub c bs) (fails : checks s' c bs true = some st) :
    runMaint s q.val sub noAuth checks run = fail s' c st := by
  obtain ⟨front, formed, maint, body, buffer, -⟩ := read
  simp [runMaint, front, formed, maint, body, buffer, noAuth, fails]

/-- The CSN that a SAMPLE reads at: that of the pin that it names, else the current one (02 R58). -/
def sampleCsn (s : State) (bs : List Byte) : Nat := if sUsesPin bs then (s.pinAt (sPin bs)).csn else s.csn.current

/-- A SAMPLE with its body kept, and with it the CSN of the pin that it names, as its run finds it. -/
def Cmd.sampling (c : Cmd) (s : State) (bs : List Byte) : Cmd :=
  { c with body := bs, adm := if sUsesPin bs then some (sampleCsn s bs) else none }

theorem Cmd.sampling_csn (c : Cmd) (s : State) (bs : List Byte) : (c.sampling s bs).adm.getD s.csn.current = sampleCsn s bs := by
  cases uses : sUsesPin bs <;> simp [Cmd.sampling, sampleCsn, uses]

theorem runMaint_samples (read : MaintRead s s' q 0x0004 c bs) (passes : checks s' c bs true = none) :
    runMaint s q.val 0x0004 noAuth checks run = (run s' (c.sampling s' bs) bs).getD s := by
  obtain ⟨front, formed, maint, body, buffer, admits⟩ := read
  have pin : pinnedCsn s' 0x0004 bs = if sUsesPin bs then some (sampleCsn s' bs) else none := by
    cases uses : sUsesPin bs <;> simp [pinnedCsn, sampleCsn, uses]
  simp [runMaint, front, formed, maint, body, buffer, admits, noAuth, passes, pin, Cmd.sampling]

end Maint

/-! ## What each subop does -/

section Runs

variable {s : State} {c : Cmd} {bs : List Byte}

/-! ### LAUNCH (11 R370, R375) -/

/-- A LAUNCH whose checks pass leaves room for one more program. -/
theorem launchChecks_passed {image : List Byte} (read : (launchImage s bs).2 = some image) {ok : Bool}
    (passes : launchChecks s c bs ok = none) : launchLimits s = none := by
  obtain ⟨-, approves⟩ := (Option.orElse_eq_none _ _).mp passes
  rw [read] at approves
  dsimp only at approves
  split at approves
  · exact approves
  · cases approves

/-- The context of a LAUNCH: its class, its budget, the image's words and pages, the pages of its mapping list, and its arguments in
s[1] to s[4]. -/
def launchedCtx (s : State) (c : Cmd) (bs image : List Byte) (prog : BitVec 24) (ps : List Page) : Ctx :=
  let x := freshCtx (.maint c.queue) (lClass bs) prog false ((chunksOf 8 (lLen bs / 8) image).map (BitVec.ofNat 64)) 0 (lBudget bs)
    (ps.map (fun p => { p with pin := false, d := true }) ++ (mapEnts (lMaps bs) (bs.drop 64)).flatMap (MapEnt.pages s))
  { (List.range 4).foldl (fun (x : Ctx) i => x.setS (i + 1) (BitVec.ofNat 64 (le bs (32 + 8 * i) 8))) x with maps := lMaps bs }

theorem runLaunch_mapped {s' t : State} {image : List Byte} {a : Approval} {ps : List Page} (room : launchLimits s = none)
    (read : launchImage s bs = (s', some image))
    (approves : (approved s' (lHandle bs) 4 false).filter (fun a => a.meas = Config.shake256 image) = some a)
    (mapped : pinnedPages frame64k false (imagePages bs) s' [] 0 image = some (t, ps)) :
    let n := freeFrom 0 t.eng.ctxs
    runLaunch s c bs = some (finishD (addWork (t.setCtx n (some (launchedCtx t c bs image (progOf a.meas) ps))) (lClass bs) 0
      (.context n)) c stOk n 0 []) := by
  simp only [runLaunch, room, read, approves, mapped, Option.map_some]
  rfl

/-! ### RESUME and KILL (11 R385, R386) -/

variable {x : Ctx} {t : TrapRec} {k : Nat} (trapped : trappedCtx s (ctxNo bs) = some (x, t, k))
include trapped

theorem runResume_trapped :
    let y := { x with
      st := .saved, trapRec := none, maps := x.maps + le bs 2 2
      pages := x.pages ++ (mapEnts (le bs 2 2) (bs.drop 64)).flatMap (MapEnt.pages s) }
    runResume s c bs =
      some (finishD (addWork (s.setCtx (ctxNo bs) (some y)) x.cls 0 (.context (ctxNo bs))) c stOk 0 0 []) := by
  simp only [runResume, trapped]

theorem runKill_trapped : runKill s c bs = some (finishD (endMaint s (ctxNo bs) k 1) c stOk 0 0 []) := by
  simp only [runKill, trapped]

omit trapped

/-! ### SAMPLE (07 R252) -/

/-- What a SAMPLE at CSN `a` leaves: it waits for its pages, fails with a backing copy that is lost, or delivers its records. -/
def sampledState (s : State) (c : Cmd) (bs : List Byte) (p : Params) (a : Nat) : State :=
  let rs := sampled s c p a bs
  let n := rs.length * sampleStride p
  let u := bringIn (sCtx bs) ((List.range (n / frame64k + 2)).map (fun i => sVa bs + min (i * frame64k) (n - 1))) s
  match u.2 with
  | .waits => u.1
  | .lost => fail u.1 c stFault
  | .done =>
    let w := ownRead u.1 ((sampledSlots u.1 c a bs).flatMap (slotFlas u.1)) c.isSealed
    finishD (putSamples (sCtx bs) (sampleStride p) rs (sVa bs) w) c stOk a rs.length []

theorem runSample_held {k : Coll} (coll : s.coll c.hdrCid = some k) (held : sampleCtx s c bs = some x) :
    runSample s c bs = some (sampledState s c bs k.params (c.adm.getD s.csn.current)) := by
  simp only [runSample, coll, held, sampledState]
  generalize bringIn _ _ s = u
  obtain ⟨t, how⟩ := u
  cases how <;> rfl

/-! ### UPDATE (14 R491) -/

theorem runUpdate_named {u : Nat} {us : List Nat} (named : namedUnits (uPart bs) (uOne bs) (uUnit bs) = u :: us)
    (notCore : uPart bs ≠ 8) : runUpdate s c bs = some (settleImages
      (askFor (storeImage s (uPart bs) (uImage bs)) c (.update (uPart bs) u us (uImage bs) 0)) (uPart bs)) := by
  simp only [runUpdate, named, notCore, if_false]

end Runs

/-- Settles O31: each subop by what its run does where its checks pass, LAUNCH and UPDATE also by the status of the check that fails. -/
theorem programsAreManaged : Obligations.ProgramsAreManaged := by
  intro q c s s' bs d
  refine ⟨fun s2 image a s3 ps read isImage approves mapped => ?launch, fun x t k trapped => ⟨fun read passes => ?resume,
    fun read passes => ?kill⟩, fun k x read passes coll held => ?sample, fun u us read named notCore => ?update⟩
  case launch =>
    cases status : launchChecks s' c bs true with
    | some st => rw [exec, execLaunch, runMaint_refused read status]
    | none =>
      have room := launchChecks_passed (congrArg Prod.snd isImage) status
      rw [exec, execLaunch, runMaint_runs read (by decide) rfl status, runLaunch_mapped room isImage approves mapped]
      rfl
  case resume =>
    rw [exec, execResume, runMaint_runs read (by decide) rfl passes, runResume_trapped trapped]
    rfl
  case kill =>
    rw [exec, execKill, runMaint_runs read (by decide) rfl passes, runKill_trapped trapped]
    rfl
  case sample =>
    rw [exec, execSample, runMaint_samples read passes, runSample_held (c := c.sampling s' bs) coll held, Cmd.sampling_csn]
    rfl
  case update =>
    cases status : updateChecks s' c bs true with
    | some st => rw [exec, execUpdate, runMaint_refused read status]
    | none =>
      rw [exec, execUpdate, runMaint_runs read (by decide) rfl status, runUpdate_named named notCore]
      rfl

end Sys2Proof.Machine
end

section
/-! PROOFS. Page-in (11 R378-R380, Table 11.4): what filling the frame of a suspended page leaves of its context. One mark of a page that
O49 does not name goes with it: that a SAMPLE waits for the page (R378). -/

namespace Sys2Proof.Machine

/-! ## The page that maps an address after a page has changed (11 R371, R372) -/

section SetPage

variable {x : Ctx} {v : Nat} {f : Page → Page} (place : ∀ p, (f p).va = p.va ∧ (f p).size = p.size)
include place

/-- A change of a page that leaves it where it is changes that page's leaf alone. -/
theorem Ctx.pte_setPage (va shift : Nat) (size : Option Nat) : (x.setPage v f).pte va shift size = match x.pte va shift size with
    | .leaf p => .leaf (if p.va = v then f p else p)
    | e => e := by
  have at' (p : Page) : (if p.va = v then f p else p).va = p.va ∧ (if p.va = v then f p else p).size = p.size := by
    split
    · exact place p
    · exact ⟨rfl, rfl⟩
  simp only [Ctx.pte, Ctx.setPage, List.find?_map, List.any_map, Function.comp_def, at']
  cases x.pages.find? (fun p => decide (p.va / 2 ^ shift = va / 2 ^ shift) && decide (size = some p.size)) with
  | some p => rfl
  | none => cases x.pages.any (fun p => decide (p.va / 2 ^ shift = va / 2 ^ shift) && decide (p.size < 2 ^ shift)) <;> rfl

theorem Ctx.walk_setPage (va : Nat) (levels : List (Nat × Option Nat)) :
    (x.setPage v f).walk va levels = (x.walk va levels).map (fun p => if p.va = v then f p else p) := by
  induction levels with
  | nil => rfl
  | cons level rest ih =>
    simp only [Ctx.walk, Ctx.pte_setPage place, ih]
    cases x.pte va level.1 level.2 <;> rfl

theorem Ctx.pageOf_setPage (va : Nat) :
    (x.setPage v f).pageOf va = (x.pageOf va).map (fun p => if p.va = v then f p else p) :=
  Ctx.walk_setPage place va pageLevels

end SetPage

/-! ## The end of a page-in (11 R379, R380, Table 11.4) -/

/-- The context once its page stands in frame `f`: the page is resident and accessed, dirty where the operation writes, and nothing waits
for it any more. -/
def Ctx.pagedIn (x : Ctx) (p : Page) (f : Nat) (w : Bool) : Ctx :=
  { (x.setPage p.va (fun p => { p with frame := some f })).setPage p.va (fun p => { p with
      res := true, a := true, d := p.d || w, wanted := false }) with
    pageAt := none, st := if x.st = .pageWait then .saved else x.st }

variable {s : State} {c : ContextId} {x : Ctx} {p : Page} {f : Nat}

theorem mapPage_awaited (awaited : x.pageAt.bind x.pageOf = some p) (n : Nat) (w : Bool) :
    mapPage s n (x.setPage p.va (fun p => { p with frame := some f })) p f w =
      let t := fillFrame s f p.size (pageData s p)
      { t.setCtx n (some (x.pagedIn p f w)) with eng.pageins := satAdd 16 t.eng.pageins 1 } := by
  obtain ⟨va, at', page⟩ := Option.bind_eq_some_iff.mp awaited
  have waits : ((x.setPage p.va (fun p => { p with frame := some f })).pageAt.bind
      (x.setPage p.va (fun p => { p with frame := some f })).pageOf).any (fun q => q.va = p.va) = true := by
    rw [show (x.setPage p.va _).pageAt = some va from at', Option.bind_some,
      Ctx.pageOf_setPage (f := fun p => { p with frame := some f }) (fun _ => ⟨rfl, rfl⟩), page]
    simp
  simp only [mapPage, remapPage, waits, if_true, Ctx.pagedIn]
  cases st : x.st <;> simp [Ctx.setPage, st]

/-- R380: what O49 says of a page-in that ends, with the mark that the page is wanted taken away. -/
theorem exec_pageInDone_fills (running : unitStopped s 4 = false) (held : s.ctx c.val = some x)
    (awaited : x.pageAt.bind x.pageOf = some p) (frame : p.frame.orElse (fun _ => findFrame s [] p.size) = some f)
    (absent : p.res = false) (still : p.writing = false)
    (found : backingGone (readBacking s x.isSealed p) p = false) :
    let r := readBacking s x.isSealed p
    let t := fillFrame r f p.size (pageData r p)
    exec (.pageInDone c) s = .next { t.setCtx c.val (some (x.pagedIn p f ((missingPage s x).any (fun m => m.2.2.2)))) with
      eng.pageins := satAdd 16 t.eng.pageins 1 } := by
  simp only [exec, execPageInDone, running, held, awaited, frame, absent, still, found, Bool.or_self, Bool.false_eq_true, if_false]
  rw [mapPage_awaited awaited]

/-! ## A page that a SAMPLE and its context both wait for -/

/-- A page of 64 KiB at address 0, not resident, with a frame, which a SAMPLE waits for. -/
def wantedPage : Page := { newPage 0 frame64k true false with frame := some 0xC000000000, wanted := true }

/-- A program that was saved while it waits for that page. -/
def wantingCtx : Ctx := { freshCtx (.maint 0) 3 0 false [0] 0 0 [wantedPage] with st := .pageWait, pageAt := some 0 }
def wantingState : State := { State.reset with eng.ctxs := [(0, some wantingCtx)] }

theorem wantingCtx_awaits : wantingCtx.pageAt.bind wantingCtx.pageOf = some wantedPage := by decide

/-- A context that is put is the one that stands there. -/
theorem ctx_setCtx (s : State) (n k : Nat) (x : Ctx) : ({ s.setCtx n (some x) with eng.pageins := k } : State).ctx n = some x := by
  rw [State.ctx, State.setCtx, Tab.get_set_of_ne_default (Option.some_ne_none x), if_pos rfl]

/-- Refutes O49: where a SAMPLE also waits for the page, its mark is gone once the page is mapped, and the context that O49 writes out
keeps it. `exec_pageInDone_fills` has the clause with the mark taken away. -/
theorem not_pagesComeAndGo : ¬ Obligations.PagesComeAndGo := by
  intro h
  obtain ⟨-, -, contexts⟩ := h wantingState (by decide)
  obtain ⟨filled, -⟩ := contexts 0 wantingCtx rfl
  obtain ⟨-, fills⟩ := filled wantedPage 0xC000000000 wantingCtx_awaits rfl
  have written := (fills rfl rfl).2 rfl
  rw [exec_pageInDone_fills (by decide) rfl wantingCtx_awaits rfl rfl rfl rfl, Host.Outcome.next.injEq] at written
  have same := congrArg (fun s => (s.ctx 0).map Ctx.pages) written
  simp only [Fin.val_zero, ctx_setCtx, Option.map_some, Option.some.injEq] at same
  have mark := congrArg (List.map Page.wanted) same
  exact absurd mark (by decide)

end Sys2Proof.Machine
end

section
/-! PROOFS. Queue pairs (12 R402-R404, R408, R433): what a write of ENABLE, the end of a drain and a doorbell leave of a queue whose table
is canonical. -/

namespace Sys2Proof.Machine

/-! ## Two changes of one queue -/

theorem Tab.set_below {α : Type} [DecidableEq α] (d : α) {lo n : Nat} (below : n < lo) (v : α) :
    (t : Tab α) → Tab.wfFrom d lo t = true → Tab.set d t n v = if v = d then t else (n, v) :: t
  | [], _ => rfl
  | (k, w) :: t, wf => by
    simp only [Tab.wfFrom, Bool.and_eq_true, decide_eq_true_eq] at wf
    exact if_pos (by omega)

/-- Of two writes of one number the second stands. -/
theorem Tab.set_set {α : Type} [DecidableEq α] (d : α) (n : Nat) (u v : α) :
    (t : Tab α) → (lo : Nat) → Tab.wfFrom d lo t = true → Tab.set d (Tab.set d t n u) n v = Tab.set d t n v
  | [], _, _ => by
    by_cases unlisted : u = d <;> simp [Tab.set, unlisted]
  | (k, w) :: t, lo, wf => by
    simp only [Tab.wfFrom, Bool.and_eq_true, decide_eq_true_eq] at wf
    obtain ⟨-, rest⟩ := wf
    rcases lt_trichotomy n k with before | here | after
    · by_cases unlisted : u = d <;> simp [Tab.set, before, unlisted]
    · subst here
      by_cases unlisted : u = d
      · simp [Tab.set, unlisted, Tab.set_below d (Nat.lt_succ_self n) v t rest]
      · simp [Tab.set, unlisted]
    · simp [Tab.set, after.not_gt, after.ne', Tab.set_set d n u v t (k + 1) rest]

section Queue

variable {s : State} {q : Nat} {f g : Queue → Queue}

theorem State.modQueue_congr (same : f (s.queue q) = g (s.queue q)) : s.modQueue q f = s.modQueue q g := by
  simp only [State.queue] at same
  simp only [State.modQueue, Tab.mod, same]

variable (wf : Tab.wf Queue.initial s.qau.queues = true)
include wf

theorem State.queue_modQueue : (s.modQueue q f).queue q = f (s.queue q) :=
  Tab.get_set_same _ _ _ _ 0 wf

theorem State.modQueue_wf : Tab.wf Queue.initial (s.modQueue q f).qau.queues = true :=
  Tab.set_wf _ _ _ _ wf

theorem State.modQueue_modQueue : (s.modQueue q f).modQueue q g = s.modQueue q (fun y => g (f y)) := by
  have put : Tab.get Queue.initial (Tab.set Queue.initial s.qau.queues q (f (s.queue q))) q = f (s.queue q) :=
    Tab.get_set_same _ _ _ _ 0 wf
  simp only [State.queue] at put
  simp only [State.modQueue, Tab.mod, put, Tab.set_set Queue.initial q _ _ s.qau.queues 0 wf]

end Queue

/-! ## Queues with nothing to write or to fetch (12 R404, R408) -/

section Idle

variable {s : State} {q : Nat}

theorem flushRing_of_nothing_waiting (idle : waiting s q = false) : flushRing s q = s := by
  simp [flushRing, writeAll, idle]

theorem fetch_of_not_fetchable (idle : fetchable s q = false) : fetch s q = s := by
  rw [fetch]
  cases (s.queue q).sqSize with
  | zero => rfl
  | succ n => simp [fetchAll, idle]

theorem fetchable_of_off (off : (s.queue q).enable = false) : fetchable s q = false := by
  simp [fetchable, off]

theorem fetchable_of_caughtUp (caughtUp : (s.queue q).sqHead = (s.queue q).tail) : fetchable s q = false := by
  simp [fetchable, caughtUp]

/-! ## ENABLE takes effect (12 R402) -/

/-- A queue just enabled. -/
def Queue.enabled (x : Queue) : Queue := { x with
  enable := true, draining := false, reEnable := false, tail := 0, head := 0, sqHead := 0, cqTail := 0, phase := true,
  err := 0, stopped := false, tags := 0 }

theorem enableQueue_misplaced (misplaced : ringsPlaced s (s.queue q) = false) :
    enableQueue s q = s.modQueue q (fun y => { y with err := 1 }) := by
  simp [enableQueue, misplaced]

/-- With nothing held for the ring, and nothing that a reset left, an enable is the reset of the indices. -/
theorem enableQueue_placed (wf : Tab.wf Queue.initial s.qau.queues = true) (placed : ringsPlaced s (s.queue q) = true)
    (held : (s.queue q).held = []) (atReset : (s.queue q).atReset = []) (noM : carriesM s q = false) :
    enableQueue s q = s.modQueue q Queue.enabled := by
  have cleared : s.modQueue q (fun y => { y.enabled with atReset := [] }) = s.modQueue q Queue.enabled :=
    State.modQueue_congr (by simp [Queue.enabled, atReset])
  simp only [Queue.enabled] at cleared
  have queue : (s.modQueue q Queue.enabled).queue q = (s.queue q).enabled := State.queue_modQueue wf
  have idle : waiting (s.modQueue q Queue.enabled) q = false := by
    have stillNoM : carriesM (s.modQueue q Queue.enabled) q = false := noM
    simp [waiting, queue, stillNoM, Queue.enabled, held]
  have caughtUp : fetchable (s.modQueue q Queue.enabled) q = false :=
    fetchable_of_caughtUp (by rw [queue]; rfl)
  simp only [enableQueue, placed, if_true, cleared, atReset, writeAborted, List.isEmpty_nil, Bool.not_true, Bool.and_false,
    Bool.false_eq_true, if_false]
  rw [flushRing_of_nothing_waiting idle, fetch_of_not_fetchable caughtUp]

/-! ## The end of a drain (12 R403, R410) -/

theorem countLost_zero (counted : s.qau.evdrop < 65536) : countLost s 0 = s := by
  have same : satAdd 16 s.qau.evdrop 0 = s.qau.evdrop := by simp only [satAdd]; omega
  rw [countLost, same]

theorem endSession_none (noSession : s.session (s.queue q).session.toNat = none) :
    endSession s q = s.modQueue q (fun y => { y with session := 0xFFF#12 }) := by
  have still : (s.modQueue q (fun y => { y with session := 0xFFF#12 })).session (s.queue q).session.toNat = none := noSession
  simp only [endSession, still]

/-- A queue that neither runs nor drains. -/
def Queue.disabled (x : Queue) : Queue := { x with enable := false, draining := false }

/-- With nothing held, no session and no enable kept, the end of a drain is ENABLE 0. -/
theorem endDrain_quiet (wf : Tab.wf Queue.initial s.qau.queues = true) (noEnable : (s.queue q).reEnable = false)
    (held : (s.queue q).held = []) (noSession : s.session (s.queue q).session.toNat = none) (counted : s.qau.evdrop < 65536) :
    endDrain s q = s.modQueue q (fun y => { y with enable := false, draining := false, session := 0xFFF#12 }) := by
  have drained : s.modQueue q (fun y => { y with enable := false, draining := false, reEnable := false, held := [], lost := y.lost + 0 })
      = s.modQueue q Queue.disabled := State.modQueue_congr (by simp [Queue.disabled, noEnable, held])
  have stillCounted : (s.modQueue q Queue.disabled).qau.evdrop < 65536 := counted
  have stillNone : (s.modQueue q Queue.disabled).session ((s.modQueue q Queue.disabled).queue q).session.toNat = none := by
    rw [State.queue_modQueue wf]; exact noSession
  simp only [endDrain, noEnable, held, List.length_nil, drained, Bool.false_eq_true, if_false]
  rw [countLost_zero stillCounted, endSession_none stillNone, State.modQueue_modQueue wf]
  rfl

/-! ## ENABLE is written (12 R402, R403) -/

section Written

variable {v : Nat}

theorem writeEnable_draining (draining : (s.queue q).draining = true) :
    writeEnable s q v = (qcfgFields s q v).modQueue q (fun y => { y with reEnable := true }) := by
  rw [writeEnable, if_pos draining]

theorem writeEnable_enabled (settled : (s.queue q).draining = false) (enabled : (s.queue q).enable = true) :
    writeEnable s q v = qcfgFields s q v := by
  rw [writeEnable, if_neg (by simp [settled]), if_pos enabled]

theorem writeEnable_disabled (settled : (s.queue q).draining = false) (disabled : (s.queue q).enable = false) :
    writeEnable s q v = enableQueue (qcfgFields s q v) q := by
  rw [writeEnable, if_neg (by simp [settled]), if_neg (by simp [disabled])]

theorem writeDisable_disabled (disabled : (s.queue q).enable = false) : writeDisable s q v = qcfgFields s q v := by
  rw [writeDisable, if_pos (by simp [disabled])]

theorem writeDisable_busy (enabled : (s.queue q).enable = true) (busy : (s.queue q).tags ≠ 0) :
    writeDisable s q v = (qcfgFields s q v).modQueue q (fun y => { y with draining := true, reEnable := false }) := by
  rw [writeDisable, if_neg (by simp [enabled]), if_neg busy]

theorem qcfgFields_wf (wf : Tab.wf Queue.initial s.qau.queues = true) : Tab.wf Queue.initial (qcfgFields s q v).qau.queues = true :=
  State.modQueue_wf wf

/-- A write of the other fields of QAU_QCFG leaves what an enable and a drain's end read of the queue. -/
theorem queue_qcfgFields (wf : Tab.wf Queue.initial s.qau.queues = true) :
    let y := (qcfgFields s q v).queue q
    y.held = (s.queue q).held ∧ y.atReset = (s.queue q).atReset ∧ y.session = (s.queue q).session := by
  simp [qcfgFields, State.queue_modQueue wf]

/-- With no tag busy the drain ends at once. -/
theorem writeDisable_idle (enabled : (s.queue q).enable = true) (noTag : (s.queue q).tags = 0) (held : (s.queue q).held = [])
    (noSession : s.session (s.queue q).session.toNat = none) (counted : s.qau.evdrop < 65536)
    (wf : Tab.wf Queue.initial s.qau.queues = true) :
    writeDisable s q v = (qcfgFields s q v).modQueue q (fun y => { y with
      enable := false, draining := false, reEnable := false, session := 0xFFF#12 }) := by
  obtain ⟨sameHeld, -, sameSession⟩ := queue_qcfgFields (v := v) (q := q) wf
  have wfFields := qcfgFields_wf (v := v) (q := q) wf
  have queue : ((qcfgFields s q v).modQueue q (fun y => { y with draining := true, reEnable := false })).queue q
      = { (qcfgFields s q v).queue q with draining := true, reEnable := false } := State.queue_modQueue wfFields
  rw [writeDisable, if_neg (by simp [enabled]), if_pos noTag, endDrain_quiet (State.modQueue_wf wfFields) (by rw [queue])
    (by rw [queue]; exact sameHeld.trans held) (by rw [queue, sameSession]; exact noSession) counted,
    State.modQueue_modQueue wfFields]

end Written

end Idle

/-! ## The rows -/

section Rows

variable {s : State} {q : QueueId} {v : W64} (up : awake s)
include up

theorem exec_queueEnable_awake : exec (.queueEnable q v) s = .next (writeEnable s q.val v.toNat) := by
  simp only [exec, execQueueEnable, blockOff_of_awake up, Bool.false_eq_true, if_false]

theorem exec_queueDisable_awake : exec (.queueDisable q v) s = .next (writeDisable s q.val v.toNat) := by
  simp only [exec, execQueueDisable, blockOff_of_awake up, Bool.false_eq_true, if_false]

theorem exec_qauSqtail_beyond (beyond : (s.queue q.val).sqSize ≤ bits v.toNat 0 10) :
    exec (.qauSqtail q v) s = .next (s.modQueue q.val (fun y => { y with err := 2 })) := by
  simp only [exec, execQauSqtail, blockOff_of_awake up, beyond, Bool.false_eq_true, if_false, if_true]

theorem exec_qauSqtail_inside (inside : bits v.toNat 0 10 < (s.queue q.val).sqSize) :
    exec (.qauSqtail q v) s = .next (fetch (s.modQueue q.val (fun y => { y with tail := bits v.toNat 0 10 })) q.val) := by
  simp only [exec, execQauSqtail, blockOff_of_awake up, inside.not_ge, Bool.false_eq_true, if_false]

theorem exec_qauCqhead_beyond (beyond : (s.queue q.val).cqSize ≤ bits v.toNat 0 12) :
    exec (.qauCqhead q v) s = .next (s.modQueue q.val (fun y => { y with err := 2 })) := by
  simp only [exec, execQauCqhead, blockOff_of_awake up, beyond, Bool.false_eq_true, if_false, if_true]

theorem exec_qauCqhead_inside (inside : bits v.toNat 0 12 < (s.queue q.val).cqSize) :
    exec (.qauCqhead q v) s =
      .next (fetch (flushRing (s.modQueue q.val (fun y => { y with head := bits v.toNat 0 12 })) q.val) q.val) := by
  simp only [exec, execQauCqhead, blockOff_of_awake up, inside.not_ge, Bool.false_eq_true, if_false]

end Rows

theorem exec_queueDrainEnd_waits {s : State} {q : QueueId} (busy : (s.queue q.val).tags ≠ 0) : exec (.queueDrainEnd q) s = .next s := by
  simp only [exec, execQueueDrainEnd, busy, decide_false, Bool.and_false, Bool.false_eq_true, if_false]

theorem exec_queueDrainEnd_ends {s : State} {q : QueueId} (draining : (s.queue q.val).draining = true)
    (noTag : (s.queue q.val).tags = 0) : exec (.queueDrainEnd q) s = .next (endDrain s q.val) := by
  simp only [exec, execQueueDrainEnd, draining, noTag, decide_true, Bool.and_self, if_true]

/-- Settles O25: where nothing waits for the ring and nothing can be fetched, a write or a doorbell is one change of its queue. -/
theorem queuesEnableAndDrain : Obligations.QueuesEnableAndDrain := by
  intro q v s up x w quiet
  rw [exec_queueEnable_awake up, exec_queueDisable_awake up]
  refine ⟨fun draining => ?kept, fun settled enabled => ?fields, fun settled disabled wf => ⟨fun misplaced => ?misplaced,
      fun placed held atReset noM => ?placed⟩, fun disabled => ?off, fun enabled busy wf => ?drain,
    fun enabled noTag ⟨held, noSession, counted, wf⟩ => ?ends, fun _ => exec_queueDrainEnd_waits,
    fun draining noTag noEnable ⟨held, noSession, counted, wf⟩ => ?drained, exec_qauSqtail_beyond up, exec_qauCqhead_beyond up,
    fun inside disabled wf => ?doorbell, exec_qauSqtail_inside up, exec_qauCqhead_inside up⟩
  case kept => rw [writeEnable_draining draining]
  case fields => rw [writeEnable_enabled settled enabled]
  case misplaced => rw [writeEnable_disabled settled disabled, enableQueue_misplaced misplaced]
  case placed =>
    obtain ⟨sameHeld, sameReset, -⟩ := queue_qcfgFields (v := v.toNat) (q := q.val) wf
    rw [writeEnable_disabled settled disabled,
      enableQueue_placed (qcfgFields_wf wf) placed (sameHeld.trans held) (sameReset.trans atReset) noM]
    rfl
  case off => rw [writeDisable_disabled disabled]
  case drain => rw [writeDisable_busy enabled busy]
  case ends => rw [writeDisable_idle enabled noTag held noSession counted wf]
  case drained => rw [exec_queueDrainEnd_ends draining noTag, endDrain_quiet wf noEnable held noSession counted]
  case doorbell =>
    have off : fetchable (s.modQueue q.val (fun y => { y with tail := bits v.toNat 0 10 })) q.val = false :=
      fetchable_of_off (by rw [State.queue_modQueue wf]; exact disabled)
    rw [exec_qauSqtail_inside up inside, fetch_of_not_fetchable off]

end Sys2Proof.Machine
end

section
/-! PROOFS. FENCE and aborts (12 R425, R430): the end of a hold, and what an abort makes of a command in each phase. -/

namespace Sys2Proof.Machine

section Fence

variable {s : State} {q : QueueId} {t : TagId} {c : Cmd} (front : s.cmdAt q.val t.val = some c)
include front

theorem exec_fenceHoldEnd_waits (earlier : earlierDone s q.val c.seq = false) : exec (.fenceHoldEnd q t) s = .next s := by
  simp [exec, execFenceHoldEnd, front, earlier]

/-- A command that a row names is left to it once it is released. -/
theorem exec_fenceHoldEnd_releases (held : c.phase = .fenceHeld) (earlier : earlierDone s q.val c.seq = true) (named : c.unnamed = false)
    (nothing : fetchable s q.val = false) :
    exec (.fenceHoldEnd q t) s = .next (s.setCmd { c with phase := .fetched }) := by
  have stillNamed : ({ c with phase := .fetched } : Cmd).unnamed = false := named
  have stillNothing : fetchable (s.setCmd { c with phase := .fetched }) q.val = false := nothing
  simp [exec, execFenceHoldEnd, front, held, earlier, settleUnnamed_named stillNamed, fetch_of_not_fetchable stillNothing]

end Fence

section Abort

variable {s : State} {v : W64} (up : awake s)
include up

theorem exec_qauAbort_none (gone : s.cmdAt (bits v.toNat 0 10) (bits v.toNat 10 5) = none) : exec (.qauAbort v) s = .next s := by
  simp only [exec, execQauAbort, blockOff_of_awake up, gone, Bool.false_eq_true, if_false]

theorem exec_qauAbort_named {c : Cmd} (named : s.cmdAt (bits v.toNat 0 10) (bits v.toNat 10 5) = some c) :
    exec (.qauAbort v) s = .next (abortCmd s c) := by
  simp only [exec, execQauAbort, blockOff_of_awake up, named, Bool.false_eq_true, if_false]

end Abort

/-- Settles O26: the phase of the command decides what an abort does, by the cases of `abortCmd`. -/
theorem fenceAndAbort : Obligations.FenceAndAbort := by
  refine ⟨fun q t c s front held => ⟨exec_fenceHoldEnd_waits front, exec_fenceHoldEnd_releases front held⟩,
    fun v s up => ⟨exec_qauAbort_none up, fun c named => ?_⟩⟩
  rw [exec_qauAbort_named up named]
  refine ⟨?held, ?unchecked, ?waiting, fun g inStage => ?stage, fun j batch unstaged => ?batch, fun n selftest => ?selftest,
    fun n activity => ?activity, fun j search late => ?late⟩
  case held => rintro (held | held) <;> simp only [abortCmd, held]
  case unchecked =>
    intro fetched isBatch
    simp [abortCmd, fetched, isBatch]
  case waiting => rintro (waits | inSlot | ⟨g, waits⟩) <;> simp only [abortCmd, *]
  case stage => simp only [abortCmd, inStage]
  case batch => rcases unstaged with phase | phase <;> simp only [abortCmd, phase, batch, dropBatch]
  case selftest => simp only [abortCmd, selftest]
  case activity => simp only [abortCmd, activity]
  case late => rcases late with phase | phase <;> simp only [abortCmd, phase, search]

end Sys2Proof.Machine
end

section
/-! PROOFS. The admission of searches and batches of unsealed queues (12 R412-R414, R418, 02 R34, R40): the checks of Table 12.3 in order,
and what admission leaves. -/

namespace Sys2Proof.Machine

/-! ## SEARCH and RANGE (12 R412, R413) -/

section Search

variable {s s' : State} {q : QueueId} {op : Nat} {c : Cmd} {r : SearchReq} {x : Coll}

theorem runSearch_requested {bufOk readOk : Bool} (front : Fetched s q op c) (unsealed : c.isSealed = false)
    (request : plainReq s c = (s', r, bufOk, readOk)) : runSearch s q.val op = checkSearch s' c r bufOk readOk := by
  obtain ⟨oldest, formed⟩ := front
  simp [runSearch, oldest, formed, unsealed, request]

theorem searchGranted_of_authority (authority : searchAuthority s c r = true) : searchGranted s c r = true := by
  simp only [searchAuthority, Bool.and_eq_true] at authority
  exact authority.1

section Checks

variable (noPin : c.cflag 5 = false) (authority : searchAuthority s c r = true) (found : collAt s r.cid s.csn.current = some x)
include noPin authority found

theorem checkSearch_refused {st : Nat} {bufOk : Bool} (fails : firstFail (searchChecks s c r x bufOk) = some st) :
    checkSearch s c r bufOk true = fail s c st := by
  simp [checkSearch, searchGranted_of_authority authority, authority, noPin, found, fails]

theorem checkSearch_limited {st : Nat} {bufOk : Bool} (passes : firstFail (searchChecks s c r x bufOk) = none)
    (limit : searchLimits s c r.cid (searchJob s c r x).pinTake = some st) : checkSearch s c r bufOk true = fail s c st := by
  simp [checkSearch, searchGranted_of_authority authority, authority, noPin, found, passes, limit]

theorem checkSearch_passed {bufOk : Bool} (passes : firstFail (searchChecks s c r x bufOk) = none)
    (noLimit : searchLimits s c r.cid (searchJob s c r x).pinTake = none) (admits : admissionStopped s = false) :
    checkSearch s c r bufOk true =
      admitSearch s { c with adm := none, job := .search (searchJob s c r x) } (searchJob s c r x) := by
  simp [checkSearch, searchGranted_of_authority authority, authority, noPin, found, passes, noLimit, admits]

end Checks

/-- A search as it is admitted at CSN_CURRENT (02 R40, 03 R89, 13 R464, 15 R517). -/
def SearchJob.admittedAt (j : SearchJob) (s : State) (session : BitVec 12) : SearchJob := { j with
  ctx.adm := s.csn.current, ctx.clear := readClear s session
  gens := ((s.coll j.ctx.cid.toNat).map (liveGens s j.ctx.cid.toNat)).getD []
  waits := slotWaits s j.ctx.cid.toNat j.rclass, boundUs := boundFor s j.ctx.w j.withPayload
  approvals := (s.warden.policy.map (·.approvals)).getD [], order := s.qau.admitted }

/-- With no pin to take and no ENCODE program, admission asks for the LUTs. -/
theorem admitSearch_asksLut {j : SearchJob} (unpinned : c.adm = none) (noTake : j.pinTake = none) (noProgram : j.encodeProg = 0)
    (paced : j.ctx.paced = wantsPaced s c) :
    admitSearch s c j = askLut { s with qau.admitted := s.qau.admitted + 1 } { c with adm := some s.csn.current }
      (j.admittedAt s c.session) := by
  have samePaced : wantsPaced s { c with adm := some s.csn.current } = j.ctx.paced := paced.symm
  simp [admitSearch, unpinned, noTake, noProgram, samePaced, SearchJob.admittedAt]

end Search

/-- Settles O27: both rows run the same checks, and the first that fails gives the status. -/
theorem searchesAreAdmitted : Obligations.SearchesAreAdmitted := by
  intro q c s s' r x admitted j taken out work
  have settles (op : Nat) (passes : admitted op) (cid : r.cid < 65536) (admits : admissionStopped s' = false) :
      .next (runSearch s q.val op) = out work := by
    obtain ⟨front, unsealed, request, noPin, noTake, noProgram, authority, found⟩ := passes
    have untaken : j.pinTake = none := by simp [j, searchJob, noTake]
    rw [runSearch_requested front unsealed request]
    cases checks : firstFail (searchChecks s' c r x true) with
    | some st =>
      rw [checkSearch_refused noPin authority found checks]
      simp only [out, checks]
    | none =>
      cases limit : searchLimits s' c r.cid none with
      | some st =>
        rw [checkSearch_limited noPin authority found checks ((congrArg _ untaken).trans limit)]
        simp only [out, checks, limit]
      | none =>
        have named : j.ctx.cid.toNat = r.cid := by simp [j, searchJob, Nat.mod_eq_of_lt cid]
        have admission : admitSearch s' { c with adm := none, job := .search j } j = work := by
          rw [admitSearch_asksLut (c := { c with adm := none, job := .search j }) rfl untaken (by simp [j, searchJob, noProgram]) rfl]
          simp only [askLut, SearchJob.admittedAt, named]
          rfl
        rw [checkSearch_passed noPin authority found checks ((congrArg _ untaken).trans limit) admits]
        simp only [out, checks, limit]
        exact congrArg _ admission
  exact ⟨settles opSearch, settles opRange⟩

/-! ## INSERT_BATCH, DELETE_BATCH and UPSERT_BATCH (12 R412, R418) -/

theorem ofLe_lt (bs : List Byte) : ofLe bs < 256 ^ bs.length := by
  induction bs with
  | nil => simp [ofLe]
  | cons b t ih =>
    have low := b.isLt
    simp only [ofLe, List.length_cons, pow_succ]
    omega

theorem Cmd.hdrCid_lt (c : Cmd) : c.hdrCid < 65536 := by
  have short : ((c.bytes.drop 4).take 2).length ≤ 2 := List.length_take_le ..
  calc c.hdrCid < 256 ^ ((c.bytes.drop 4).take 2).length := ofLe_lt _
    _ ≤ 256 ^ 2 := Nat.pow_le_pow_right (by decide) short
    _ = 65536 := by decide

section Batch

variable {s s' : State} {q : QueueId} {op : Nat} {c : Cmd} {r : BatchReq} {x : Coll}

theorem opcode_of_fetched (front : Fetched s q op c) : c.opcode = op := by
  obtain ⟨oldest, -⟩ := front
  simp only [Machine.oldest, Option.filter_eq_some_iff, decide_eq_true_eq] at oldest
  exact oldest.2

theorem runBatch_read {bs : List Byte} (front : Fetched s q op c) (unsealed : c.isSealed = false)
    (buffer : reachable s c.addr c.len = true) (read : s.read 2 c.addr c.len .clean = (s', some bs)) :
    runBatch s q.val op = checkBatch s' c ⟨c.hdrCid, le c.bytes 16 2, le c.bytes 20 2, true, bs⟩ true true := by
  obtain ⟨oldest, formed⟩ := front
  simp [runBatch, oldest, formed, unsealed, buffer, read]

theorem checkBatch_passed (authority : batchAuthority s c r.cid (batchItems c.opcode r.dim r.count r.body).2.1 = true)
    (live : liveColl s r.cid = some x) (passes : firstFail (batchChecks s c r x.params true) = none)
    (noLimit : batchLimits s c.opcode r.count = none) (admits : admissionStopped s = false) :
    checkBatch s c r true true = admitBatch s c (batchJob c r) := by
  have granted : batchGranted s c r.cid = true := by
    simp only [batchAuthority, Bool.and_eq_true] at authority
    exact authority.1
  simp [checkBatch, granted, authority, live, passes, noLimit, admits]

end Batch

/-- Settles O28: an admitted batch takes its entry, its generation and its clearance, and its opcode says where it goes. -/
theorem batchesAreAdmitted : Obligations.BatchesAreAdmitted := by
  intro q c s s' bs x ref r passes j encoded
  have admits (op : Nat) (pass : passes op) : runBatch s q.val op =
      if op = opDelete then (takeRef s' ref).setCmd { c with phase := .staging, job := .batch j }
      else addWork encoded 1 c.seq (.encode c.seq) := by
    obtain ⟨front, unsealed, buffer, read, authority, live, checks, limits, running, free⟩ := pass
    obtain rfl := opcode_of_fetched front
    have named : (batchJob c r).cid.toNat = r.cid := by
      simp [batchJob, Nat.mod_eq_of_lt (show r.cid < 65536 from c.hdrCid_lt)]
    have held : s'.coll r.cid = some x := by
      simp only [liveColl, Option.filter_eq_some_iff] at live
      exact live.1
    rw [runBatch_read front unsealed buffer read, checkBatch_passed authority live checks limits running]
    simp only [admitBatch, free, named, held, Option.bind_some]
    rfl
  exact ⟨fun pass => congrArg _ (admits _ pass), fun pass => congrArg _ (admits _ pass), fun pass => congrArg _ (admits _ pass)⟩

end Sys2Proof.Machine
end

section
/-! PROOFS. The power ladder (12 R434, R435, 15 R514, R518-R521, R524): POWER, the end of an entry, the return to Run and the end of a
protective Rest. -/

namespace Sys2Proof.Machine

/-! ## A posted event leaves the fetched commands (12 R407, R433) -/

section Posts

variable (s : State) (q : Nat)

theorem write_qau (r a : Nat) (bs : List Byte) (f : Finding) : (s.write r a bs f).1.qau = s.qau := by
  have frame := State.write_without s r a bs f [.hbm] (List.Subset.refl _)
  simpa [State.without] using congrArg State.qau frame

theorem raiseVector_cmds (v : Nat) : (raiseVector s v).qau.cmds = s.qau.cmds := by
  unfold raiseVector
  dsimp only
  repeat' split
  all_goals rfl

theorem modQueue_cmds (f : Queue → Queue) : (s.modQueue q f).qau.cmds = s.qau.cmds := rfl

theorem putRec_cmds (r : OutRec) : (putRec s q r).qau.cmds = s.qau.cmds := by
  unfold putRec
  extract_lets x s1 n s2
  have kept : s2.qau.cmds = s.qau.cmds := (modQueue_cmds s1 q _).trans (congrArg Qau.cmds (write_qau s ..))
  split <;> exact kept

/-- The EVENT_LOST of m events is written, and their count cleared. -/
theorem putLost_cmds (r : OutRec) : (let t := putRec s q r; ({ t with qau.mLost := 0 } : State)).qau.cmds = s.qau.cmds :=
  putRec_cmds s q r

theorem writeNext_cmds : (writeNext s q).qau.cmds = s.qau.cmds := by
  unfold writeNext
  dsimp only
  split
  · rw [modQueue_cmds, putRec_cmds]
  split
  · exact putLost_cmds s q _
  split
  · rfl
  · rw [putRec_cmds, modQueue_cmds]
  · rw [putRec_cmds]
  split
  · rw [putRec_cmds, modQueue_cmds]
  · rw [putRec_cmds]

theorem writeAll_cmds (n : Nat) : (writeAll q n s).qau.cmds = s.qau.cmds := by
  induction n generalizing s with
  | zero => rfl
  | succ n ih =>
    rw [writeAll]
    split
    · rw [ih, writeNext_cmds]
    · rfl

theorem flushRing_cmds : (flushRing s q).qau.cmds = s.qau.cmds := by
  unfold flushRing
  dsimp only
  split
  · rw [writeAll_cmds]
  · split
    · rw [raiseVector_cmds, writeAll_cmds]
    · rw [writeAll_cmds]

theorem postM_cmds (code src queue e0 e1 e2 : Nat) : (postM s code src queue e0 e1 e2).qau.cmds = s.qau.cmds := by
  unfold postM flushM
  dsimp only
  split
  · rfl
  · split
    · rw [flushRing_cmds]
    · rfl

theorem postM_maint (code src queue e0 e1 e2 : Nat) : (postM s code src queue e0 e1 e2).maint = s.maint := by
  have frame := postM_without s code src queue e0 e1 e2 [.qau, .hbm, .links] (List.Subset.refl _)
  simpa [State.without] using congrArg State.maint frame

end Posts

/-! ## POWER (15 R519) -/

section Ladder

variable {s : State} {c : Cmd} {st : Nat}

theorem runPower_entering (entering : s.pwr.entering = true) : runPower s c st = holdForRun s { c with job := .power st } := by
  rw [runPower, if_pos entering]

variable (settled : s.pwr.entering = false)
include settled

theorem runPower_here (here : st = s.pwr.state) : runPower s c st = finishD s c stOk 0 st [] := by
  simp [runPower, settled, here]

theorem runPower_deeper (deeper : s.pwr.state < st) (notVigil : st ≠ 4) :
    runPower s c st = startEntry (s.setCmd { c with phase := .entering, job := .power st }) st (some c.seq) none false := by
  simp [runPower, settled, deeper, deeper.ne', notVigil]

theorem runPower_vigil (deeper : s.pwr.state < 4) : runPower s c 4 = startEntry (finishD s c stOk 0 4 []) 4 none none false := by
  simp [runPower, settled, deeper, deeper.ne']

theorem runPower_shallower (shallower : st < s.pwr.state) (free : s.pwr.protect = false) :
    runPower s c st = startEntry (s.setCmd { c with phase := .entering, job := .power st }) 0 (some c.seq)
      (if st = 0 then none else some st) false := by
  simp [runPower, settled, shallower.ne, shallower.not_gt, free]

theorem runPower_protected (shallower : st < s.pwr.state) (protects : s.pwr.protect = true) :
    runPower s c st = holdForRun s { c with job := .power st } := by
  simp [runPower, settled, shallower.ne, shallower.not_gt, protects]

end Ladder

section Power

variable {s : State} {q : QueueId} {c : Cmd} (front : Fetched s q opPower c)
include front

theorem exec_power_beyond (beyond : 4 < byteAt c.bytes 16) : exec (.power q) s = .next (fail s c stBadCmd) := by
  obtain ⟨oldest, formed⟩ := front
  simp [exec, execPower, oldest, beyond]

theorem exec_power_early (deep : byteAt c.bytes 16 ≠ 0) (named : byteAt c.bytes 16 ≤ 4) (early : s.mod.startPosted = false) :
    exec (.power q) s = .next (fail s c stBusy) := by
  obtain ⟨oldest, formed⟩ := front
  simp [exec, execPower, oldest, formed, deep, named.not_gt, early]

theorem exec_power_runs (named : byteAt c.bytes 16 ≤ 4) (ready : byteAt c.bytes 16 = 0 ∨ s.mod.startPosted = true) :
    exec (.power q) s = .next (runPower s c (byteAt c.bytes 16)) := by
  obtain ⟨oldest, formed⟩ := front
  rcases ready with run | started
  · simp [exec, execPower, oldest, formed, run]
  · simp [exec, execPower, oldest, formed, named.not_gt, started]

end Power

/-! ## With no claim and no command (12 R434, 14 R487) -/

section Idle

variable {s : State}

theorem allClaims_of_noClaims (free : s.maint.claims = []) : allClaims s = [] := by
  simp [allClaims, free]

theorem pauseTests_of_noClaims (free : s.maint.claims = []) : pauseTests s = s := by
  rw [pauseTests, allClaims_of_noClaims free, List.foldl_nil]

theorem resumeTests_of_noClaims (free : s.maint.claims = []) : resumeTests s = s := by
  rw [resumeTests, allClaims_of_noClaims free, List.foldl_nil]

theorem releaseHeld_of_noCmds (idle : s.qau.cmds = []) : releaseHeld s = s := by
  simp [releaseHeld, idle]

/-! ## The end of an entry (15 R518, R520) -/

/-- The state is entered: what it brings, and POWER_STATE. -/
def enteredState (s : State) : State :=
  postM (stateEffect { s with pwr.entering := false, pwr.state := s.pwr.target, pwr.owner := none } s.pwr.target)
    evPowerState srcPwr noQueue s.pwr.target (b2n s.pwr.byProtect) 0

theorem enteredState_of_target {n : Nat} (target : s.pwr.target = n) :
    enteredState s = postM (stateEffect { s with pwr.entering := false, pwr.state := n, pwr.owner := none } n)
      evPowerState srcPwr noQueue n (b2n s.pwr.byProtect) 0 := by
  rw [enteredState, target]

theorem exec_powerStateReached_notDue (notDue : s.pwr.entering = false ∨ s.pwr.target = 0) :
    exec .powerStateReached s = .next s := by
  rcases notDue with settled | toRun
  · simp [exec, execPowerStateReached, settled]
  · simp [exec, execPowerStateReached, toRun]

theorem exec_powerStateReached_busy (notVigil : s.pwr.target ≠ 4) (busy : s.qau.cmds.any Cmd.active = true) :
    exec .powerStateReached s = .next s := by
  simp [exec, execPowerStateReached, notVigil, busy]

section Entered

variable (entering : s.pwr.entering = true) (deep : s.pwr.target ≠ 0) (free : s.maint.claims = [])
  (done : s.qau.cmds.any Cmd.active = false)
include entering deep free done

theorem exec_powerStateReached_unowned (unowned : s.pwr.owner = none) : exec .powerStateReached s = .next (enteredState s) := by
  have noTests (t : State) (same : t.maint = s.maint) : pauseTests t = t := pauseTests_of_noClaims (by rw [same, free])
  simp [exec, execPowerStateReached, entering, deep, entryWaits, free, done, unowned, enteredState, noTests]

theorem exec_powerStateReached_owned {n : Nat} {c : Cmd} (owned : s.pwr.owner = some n) (waits : s.cmd n = some c) :
    exec .powerStateReached s = .next (finishD (enteredState s) c stOk 0 s.pwr.target []) := by
  have noTests (t : State) (same : t.maint = s.maint) : pauseTests t = t := pauseTests_of_noClaims (by rw [same, free])
  simp [exec, execPowerStateReached, entering, deep, entryWaits, free, done, owned, waits, enteredState, noTests]

end Entered

/-! ## The return to Run (15 R521, 12 R434) -/

theorem exec_returnToRun_stays (stays : s.pwr.state = 0 ∨ s.pwr.state = 4 ∨ s.pwr.protect = true) :
    exec .returnToRun s = .next s := by
  rcases stays with run | vigil | protects
  · simp [exec, execReturnToRun, run]
  · simp [exec, execReturnToRun, vigil]
  · simp [exec, execReturnToRun, protects]

/-- What asks for the return: a POWER or the end of a protective Rest, and what waits for Run. -/
def runAsked (s : State) : Bool :=
  (s.pwr.entering && s.pwr.target = 0) || (!s.pwr.entering && (s.pwr.byProtect || runWanted s))

theorem exec_returnToRun_unprotected (low : 1 ≤ s.pwr.state) (high : s.pwr.state ≤ 3) (unprotected : s.pwr.protect = false) :
    exec .returnToRun s = .next (if runAsked s then backToRun s else s) := by
  simp [exec, execReturnToRun, runAsked, low, high, unprotected]

theorem runAsked_of_idle (idle : s.qau.cmds = []) (free : s.maint.claims = []) :
    runAsked s = true ↔
      (s.pwr.entering = true ∧ s.pwr.target = 0) ∨ (s.pwr.entering = false ∧ s.pwr.byProtect = true) := by
  simp [runAsked, runWanted, idle, free]

/-- A return to Run that nothing but power management asks for. -/
theorem backToRun_idle (unowned : s.pwr.owner = none) (idle : s.qau.cmds = []) (free : s.maint.claims = []) :
    backToRun s = postM { s with
      pwr.state := 0, pwr.target := 0, pwr.entering := false, pwr.owner := none, pwr.after := none, pwr.byProtect := false
      pwr.railMv := if s.pwr.state = 1 then s.pwr.railMv else runRail s } evPowerState srcPwr noQueue 0 (b2n s.pwr.byProtect) 0 := by
  simp only [backToRun, unowned, Option.bind_none]
  rw [resumeTests_of_noClaims (by rw [postM_maint]; exact free), releaseHeld_of_noCmds (by rw [postM_cmds]; exact idle)]

/-! ## The end of a protective Rest (15 R524) -/

theorem exec_protectiveRestClear_stays
    (stays : s.pwr.protect = false ∨ s.therm.allClear < 4000 ∨ (s.pwr.protectFlow = true ∧ s.therm.okFlow < 10)) :
    exec .protectiveRestClear s = .next s := by
  rcases stays with off | warm | ⟨flow, low⟩
  · simp [exec, execProtectiveRestClear, off]
  · simp [exec, execProtectiveRestClear, warm.not_ge]
  · simp [exec, execProtectiveRestClear, flow, low.not_ge]

theorem exec_protectiveRestClear_clears (protects : s.pwr.protect = true) (cool : 4000 ≤ s.therm.allClear)
    (flows : s.pwr.protectFlow = false ∨ 10 ≤ s.therm.okFlow) :
    exec .protectiveRestClear s = .next { s with pwr.protect := false, pwr.protectFlow := false } := by
  rcases flows with off | high
  · simp [exec, execProtectiveRestClear, protects, cool, off]
  · simp [exec, execProtectiveRestClear, protects, cool, high]

end Idle

/-- Settles O55: the target's place on the ladder decides a POWER; an entry and a return each end in one posted POWER_STATE. -/
theorem powerLadder : Obligations.PowerLadder := by
  refine ⟨fun q c s front => ⟨exec_power_beyond front, exec_power_early front, fun named ready => ?power⟩, fun s =>
    ⟨exec_powerStateReached_notDue, fun entering deep free => ⟨fun notVigil => exec_powerStateReached_busy notVigil,
      fun done unowned => ?entered, fun n c done rest owned front => ?owned⟩, exec_returnToRun_stays,
      fun low high unprotected idle free => ?back, exec_protectiveRestClear_stays, exec_protectiveRestClear_clears⟩⟩
  case power =>
    rw [exec_power_runs front named ready]
    refine ⟨fun entering => ?_, fun settled => ⟨fun here => ?_, fun deeper notVigil => ?_, fun deeper vigil => ?_,
      fun shallower free => ?_, fun shallower protects => ?_⟩⟩
    · rw [runPower_entering entering]
    · rw [runPower_here settled here]
    · rw [runPower_deeper settled deeper notVigil.ne]
      rfl
    · rw [vigil] at deeper ⊢
      rw [runPower_vigil settled deeper]
      rfl
    · rw [runPower_shallower settled shallower free]
      rfl
    · rw [runPower_protected settled shallower protects]
  case entered =>
    rw [exec_powerStateReached_unowned entering deep free done unowned]
    refine ⟨fun target => ?_, fun target => ?_, fun target => ?_, fun target => ?_⟩
    all_goals simp only [enteredState_of_target target, stateEffect, evPowerState]
  case owned =>
    rw [exec_powerStateReached_owned entering deep free done owned front]
    simp only [enteredState_of_target rest, rest, stateEffect, evPowerState]
  case back =>
    rw [exec_returnToRun_unprotected low high unprotected]
    have asked := runAsked_of_idle idle free
    refine ⟨fun entering deep => ?_, fun settled ownRest => ?_, fun unowned ask => ?_⟩
    · rw [if_neg (by simp [asked, entering, deep])]
    · rw [if_neg (by simp [asked, settled, ownRest])]
    · rw [if_pos (asked.mpr ask), backToRun_idle unowned idle free]
      rfl

end Sys2Proof.Machine
end

section
/-! PROOFS. One step (95) and the parts of State that a command may write: each row keeps the rest, by what its operation keeps. -/

namespace Sys2Proof.Machine

/-- Settles O1: `step` by the two forms of its queue. -/
theorem stepRunsFrontCommand : Obligations.StepRunsFrontCommand :=
  ⟨fun _ _ _ => rfl, fun s idle => by rw [step, idle]⟩

/-! ## A row's next state beside the state it starts from -/

section Rows

variable {s t : State} {bs : List Blk}

theorem keepsBut_next (kept : keepsBut s t bs) : keepsBut s (after s (.next t)) bs := kept

/-- A row that waits while its unit is stopped, or outside Run, keeps everything while it waits (16 R559, 15 Table 15.2). -/
theorem keepsBut_gated {waits : Prop} [Decidable waits] (kept : keepsBut s t bs) :
    keepsBut s (after s (if waits then .next s else .next t)) bs := by
  split
  · rfl
  · exact kept

theorem keepsBut_ite (p : Prop) [Decidable p] {u : State} (kept : keepsBut s t bs) (also : keepsBut s u bs) :
    keepsBut s (if p then t else u) bs := by
  split
  · exact kept
  · exact also

end Rows

/-! ## Rows that are one shared operation -/

section Shared

variable {s : State} {B : List Blk}

/-- An instruction that the front end sends to a unit. -/
theorem issueUnit_keeps {e op : Nat} {u : OcUnit} {plan : State → Ctx → Iw → Plan} {front : Ctx → Iw → Ctx}
    (hB : [.freeCtr, .qau, .flash, .reel, .sel, .hbm, .eng, .warden, .links] ⊆ B) :
    keepsBut s (after s (.next (issueUnit s e op u plan front))) B :=
  issueUnit_without s e op u plan front B hB

/-- An instruction of the front end. -/
theorem frontStep_keeps {e op : Nat} {plan : State → Ctx → Iw → Plan} {eff : State → Ctx → Iw → State × Ctx × Nat}
    (hB : [.freeCtr, .qau, .flash, .reel, .sel, .hbm, .eng, .warden, .links] ⊆ B)
    (kept : ∀ u x w, (eff u x w).1.without B = u.without B) :
    keepsBut s (after s (.next (frontStep s e op plan eff))) B :=
  frontStep_without s e op plan eff B hB kept

theorem frontPure_keeps {e op : Nat} {plan : Ctx → Iw → Plan} {eff : Ctx → Iw → Ctx}
    (hB : [.freeCtr, .qau, .flash, .reel, .sel, .hbm, .eng, .warden, .links] ⊆ B) :
    keepsBut s (after s (.next (frontPure s e op plan eff))) B :=
  frontPure_without s e op plan eff B hB

theorem frontTile_keeps {e op : Nat} {plan : Ctx → Iw → Plan} {eff : Ctx → Iw → Ctx}
    (hB : [.freeCtr, .qau, .flash, .reel, .sel, .hbm, .eng, .warden, .links] ⊆ B) :
    keepsBut s (after s (.next (frontTile s e op plan eff))) B :=
  frontTile_without s e op plan eff B hB

/-- A MAINT command of a subop (12 R422): where its checks pass, its run decides. -/
theorem runMaint_keeps {q sub : Nat} {authAt : List Byte → Option Nat} {checks : State → Cmd → List Byte → Bool → Option Nat}
    {run : MaintRun} (hB : [.qau, .hbm, .warden, .links] ⊆ B)
    (kept : ∀ u c bs t, run u c bs = some t → t.without B = u.without B) :
    keepsBut s (after s (.next (runMaint s q sub authAt checks run))) B :=
  runMaint_without s q sub authAt checks run B hB kept

/-- A command of a Weevil's window (04 R117). -/
theorem runWindow_keeps {w op : Nat} {rs : List Nat} {run : State → List Byte → WinAnswer} (hB : [.reel, .hbm] ⊆ B)
    (kept : ∀ u bs, (run u bs).s.without B = u.without B) : keepsBut s (after s (.next (runWindow s w op rs run))) B :=
  runWindow_without s w op rs run B hB kept

/-- A mailbox request (13 R442): what its run comes to is answered. -/
theorem runRequest_keeps {type : Nat} {run : MbRun} (hB : [.rsp, .qau, .hbm, .warden, .links] ⊆ B)
    (kept : ∀ u b t, run u b = some t → t.1.without B = u.without B) : keepsBut s (after s (.next (runRequest s type run))) B :=
  runRequest_without s type run B hB kept

end Shared

/-! ## Rows whose operation hands a state on beside its answer -/

theorem execStats_keeps (q : QueueId) (s : State) : keepsBut s (after s (execStats q s)) [.qau, .hbm, .warden, .links] := by
  refine keepsBut_next ?_
  split
  · rfl
  next c _ =>
    have opened := openRequest_without s c [.qau, .hbm, .warden, .links] (by simp)
    split
    · simp [keepsBut]
    split
    · split
      next denied => simpa [keepsBut, denied] using opened
      next u p seq accepted =>
        have taken := acceptRequest_without u c p seq [.qau, .hbm, .warden, .links] (by simp)
        simp_all [keepsBut]
    · simp [keepsBut]

theorem execMemoryRead_keeps (r : Origin) (a : Dpa) (n : Nat) (f : Finding) (s : State) :
    keepsBut s (after s (execMemoryRead r a n f s)) [.freeCtr, .rsp, .hbm] := by
  have frame := busRead_without s r.cls a.toNat n f [.freeCtr, .rsp, .hbm] (by simp)
  refine keepsBut_next ?_
  repeat' split
  all_goals simp_all [keepsBut]

theorem execMemoryWrite_keeps (r : Origin) (a : Dpa) (bs : List Byte) (f : Finding) (s : State) :
    keepsBut s (after s (execMemoryWrite r a bs f s)) [.rsp, .corpus, .reel, .hbm] := by
  have frame := busWrite_without s r.cls a.toNat bs f [.rsp, .corpus, .reel, .hbm] (by simp)
  refine keepsBut_next ?_
  repeat' split
  all_goals simp_all [keepsBut]

theorem execMemoryAtomic_keeps (r : Origin) (a : Dpa) (ty : Fin 4) (op : Fin 8) (x cmp : W64) (s : State) :
    keepsBut s (after s (execMemoryAtomic r a ty op x cmp s)) [.rsp, .hbm] := by
  have frame := busAtomic_without s r.cls a.toNat ty.val op.val x.toNat cmp.toNat [.rsp, .hbm] (by simp)
  refine keepsBut_next ?_
  repeat' split
  all_goals simp_all [keepsBut]

theorem execRdmaRead_keeps (r : WorkReq) (a : Dpa) (n : Nat) (s : State) :
    keepsBut s (after s (execRdmaRead r a n s)) [.rsp, .hbm] := by
  have frame := State.read_without s 5 a.toNat n r.finding [.rsp, .hbm] (by simp)
  refine keepsBut_next ?_
  repeat' split
  all_goals simp_all [keepsBut]

/-- The payload read ends at a state from which the record, or the offset word, comes in. -/
theorem execPayloadReadDone_keeps (q : QueueId) (t : TagId) (o : FlashRead) (s : State) :
    keepsBut s (after s (execPayloadReadDone q t o s))
      [.freeCtr, .qau, .corpus, .flash, .hbm, .eng, .warden, .maint, .hold, .links] := by
  refine keepsBut_gated ?_
  repeat' split
  all_goals simp [keepsBut]

/-- A stack that stops answering leaves what its 32 Weevils owe to the slots on them (10). -/
theorem execStackStopsAnswering_keeps (st : StackId) (s : State) :
    keepsBut s (after s (execStackStopsAnswering st s)) [.mod, .reel, .hbm] := by
  refine keepsBut_next ?_
  dsimp only
  split
  · rfl
  split
  · simp [keepsBut]
  · have owing (w : Nat) (u : State) (n : Nat) : (leaveOwing u w n).without [.mod, .reel, .hbm] = u.without [.mod, .reel, .hbm] :=
      leaveOwing_without u w n _ (by simp)
    rw [keepsBut, foldl_without _ _ fun u p => foldl_without _ _ (owing _) _ u]
    simp

theorem execCsnRange_keeps (s : State) : keepsBut s (after s (execCsnRange s)) [.csn, .flash] := by
  refine keepsBut_next ?_
  split
  · dsimp only [keepsBut]
    rw [journal_without _ _ _ _ _ _ _ (by simp)]
    simp
  · rfl

theorem execGarbageCollection_keeps (fla fresh : BitVec 40) (s : State) :
    keepsBut s (after s (execGarbageCollection fla fresh s))
      [.freeCtr, .qau, .corpus, .flash, .hbm, .eng, .warden, .maint, .life, .hold, .links] := by
  refine keepsBut_gated ?_
  split
  · split
    · dsimp only
      split <;> simp [keepsBut]
    · rfl
  · rfl

theorem execWearRelocation_keeps (sb fresh : Nat) (s : State) :
    keepsBut s (after s (execWearRelocation sb fresh s))
      [.freeCtr, .qau, .corpus, .flash, .hbm, .eng, .warden, .maint, .life, .hold, .links] := by
  refine keepsBut_gated ?_
  split
  · split
    next t packed =>
      have frame := packSuper_without s sb fresh
        [.freeCtr, .qau, .corpus, .flash, .hbm, .eng, .warden, .maint, .life, .hold, .links] (by simp) t packed
      simpa [keepsBut] using frame
    · rfl
  · rfl

/-- An image that arrives is stored, measured and, where the part runs, handed to an UPDATE that no queue asked for (16 R555). -/
theorem execFirmwareUpdate_keeps (part : Byte) (one : Bool) (unit : BitVec 16) (image : List Byte) (s : State) :
    keepsBut s (after s (execFirmwareUpdate part one unit image s))
      [.freeCtr, .rsp, .mod, .qau, .csn, .alloc, .corpus, .flash, .reel, .hbm, .eng, .warden, .maint, .pwr, .hold, .links] := by
  refine keepsBut_next ?_
  dsimp only
  split
  · simp [keepsBut]
  split
  · simp [keepsBut]
  split
  · split <;> simp [keepsBut]
  split
  · simp [keepsBut]
  next u us _ =>
    have asked := ask_without (storeImage s part.toNat image) (.update part.toNat u us image 0) true 0 0 0
      [.freeCtr, .rsp, .mod, .qau, .csn, .alloc, .corpus, .flash, .reel, .hbm, .eng, .warden, .maint, .pwr, .hold, .links] (by simp)
    split
    all_goals
      rename_i outcome
      rw [outcome] at asked
      simpa [keepsBut, Asked.after] using asked

/-! ## Warden requests (13 R442) -/

theorem execGetIdentity_keeps (s : State) : keepsBut s (after s (execGetIdentity s)) [.rsp, .qau, .hbm, .warden, .links] := by
  refine runRequest_keeps (by simp) fun u b t run => ?_
  split at run
  · exact mbOk_without _ _ _ _ run
  · exact mbNo_without _ _ _ _ run

theorem execAttest_keeps (s : State) : keepsBut s (after s (execAttest s)) [.rsp, .qau, .hbm, .warden, .links] := by
  refine runRequest_keeps (by simp) fun u b t run => ?_
  dsimp only at run
  split at run
  · exact mbNo_without _ _ _ _ run
  split at run
  · exact mbNo_without _ _ _ _ run
  · rw [mbOk_without _ _ _ _ run]
    exact takeIndex_without _ _ (by simp)

theorem execChallenge_keeps (s : State) : keepsBut s (after s (execChallenge s)) [.rsp, .qau, .hbm, .warden, .links] := by
  refine runRequest_keeps (by simp) fun u b t run => ?_
  dsimp only at run
  split at run
  · exact mbNo_without _ _ _ _ run
  · rw [mbOk_without _ _ _ _ run]
    simp

theorem execAuditRead_keeps (s : State) : keepsBut s (after s (execAuditRead s)) [.rsp, .qau, .hbm, .warden, .links] := by
  refine runRequest_keeps (by simp) fun u b t run => ?_
  split at run
  · exact mbNo_without _ _ _ _ run
  · exact mbOk_without _ _ _ _ run

theorem execExtend_keeps (s : State) : keepsBut s (after s (execExtend s)) [.rsp, .qau, .hbm, .warden, .links] := by
  refine runRequest_keeps (by simp) fun u b t run => ?_
  dsimp only at run
  split at run
  · exact mbNo_without _ _ _ _ run
  · rw [mbOk_without _ _ _ _ run]
    simp

theorem execDebugEnd_keeps (s : State) :
    keepsBut s (after s (execDebugEnd s)) [.freeCtr, .rsp, .mod, .qau, .corpus, .hbm, .warden, .links] := by
  refine runRequest_keeps (by simp) fun u b t run => ?_
  split at run
  · rw [mbOk_without _ _ _ _ run]
    simp
  · exact mbNo_without _ _ _ _ run

/-- A DEBUG_UNLOCK is answered, or begins, or goes on to the scrub (13 R458). -/
theorem execDebugUnlock_keeps (s : State) :
    keepsBut s (after s (execDebugUnlock s)) [.freeCtr, .rsp, .qau, .csn, .corpus, .flash, .hbm, .eng, .warden, .links] := by
  refine keepsBut_next ?_
  split
  · rfl
  split
  · rfl
  split
  next t result body run =>
    have frame := runDebugUnlock_without s _ [.freeCtr, .rsp, .qau, .csn, .corpus, .flash, .hbm, .eng, .warden, .links] (by simp) _ run
    simpa [keepsBut] using frame
  · split <;> simp [keepsBut]

/-! ## Weevil windows -/

theorem execSettle_keeps (w : WeevilId) (s : State) : keepsBut s (after s (execSettle w s)) [.corpus, .reel, .hbm] := by
  refine runWindow_keeps (by simp) fun u bs => ?_
  split <;> simp

theorem execRepairReady_keeps (w : WeevilId) (s : State) : keepsBut s (after s (execRepairReady w s)) [.corpus, .reel, .hbm] := by
  refine runWindow_keeps (by simp) fun u bs => ?_
  repeat' split
  all_goals simp

theorem execUcodeSwap_keeps (w : WeevilId) (s : State) :
    keepsBut s (after s (execUcodeSwap w s)) [.freeCtr, .reel, .hbm, .warden] := by
  refine runWindow_keeps (by simp) fun u bs => ?_
  split <;> simp

theorem execWeevilSelftest_keeps (w : WeevilId) (result : W32) (s : State) :
    keepsBut s (after s (execWeevilSelftest w result s)) [.qau, .corpus, .flash, .reel, .hbm, .eng, .warden, .maint, .hold, .links] := by
  refine runWindow_keeps (by simp) fun u bs => ?_
  split <;> simp

/-! ## Front-end instructions that compute their next PC -/

theorem execRdcnt_keeps (e : EngineId) (s : State) :
    keepsBut s (after s (execRdcnt e s)) [.freeCtr, .qau, .flash, .reel, .sel, .hbm, .eng, .warden, .links] := by
  refine frontStep_keeps (by simp) fun u x w => ?_
  dsimp only
  repeat' split
  all_goals simp

theorem execLoop_keeps (e : EngineId) (s : State) :
    keepsBut s (after s (execLoop e s)) [.freeCtr, .qau, .flash, .reel, .sel, .hbm, .eng, .warden, .links] := by
  refine frontStep_keeps (by simp) fun u x w => ?_
  split <;> rfl

/-! ## Rows of several steps -/

/-- The run of an operation up to the page that it needs changes no more than the operation. -/
theorem missingPage_without {s : State} {x : Ctx} {o : Op} {r : Run} {va : Nat} {wr : Bool} {B : List Blk}
    (hB : [.freeCtr, .corpus, .reel, .hbm] ⊆ B) (missing : missingPage s x = some (o, r, va, wr)) : r.s.without B = s.without B := by
  obtain ⟨p, -, stopped⟩ := Option.bind_eq_some_iff.mp missing
  dsimp only at stopped
  split at stopped
  · cases stopped
    exact dmaRun_without s x o B hB
  · cases stopped

theorem execPageIn_keeps (e : EngineId) (s : State) :
    keepsBut s (after s (execPageIn e s)) [.freeCtr, .qau, .corpus, .reel, .hbm, .eng, .links] := by
  refine keepsBut_gated ?_
  split
  · split
    · rfl
    split
    · rfl
    next missing =>
      have run := missingPage_without (B := [.freeCtr, .qau, .corpus, .reel, .hbm, .eng, .links]) (by simp) missing
      split
      · rfl
      dsimp only
      repeat' split
      all_goals simpa [keepsBut] using run
  · rfl

/-- A flow sample is counted, posts what its streaks ask for, and may start a protective Rest (15 R523). -/
theorem execFlowSample_keeps (f : BitVec 16) (s : State) : keepsBut s (after s (execFlowSample f s)) (writesOf (.flowSample f)) := by
  have counted (x : Therm) {t : State} (kept : keepsBut s t (writesOf (.flowSample f))) :
      keepsBut s { t with therm := x } (writesOf (.flowSample f)) := Eq.trans (by simp [writesOf]) kept
  have posted (code : Nat) {t : State} (kept : keepsBut s t (writesOf (.flowSample f))) :
      keepsBut s (postM t evCoolantFlow srcTherm noQueue f.toNat code 0) (writesOf (.flowSample f)) :=
    Eq.trans (by simp [writesOf]) kept
  have rests {t : State} (kept : keepsBut s t (writesOf (.flowSample f))) :
      keepsBut s (startProtect t true) (writesOf (.flowSample f)) := Eq.trans (by simp [writesOf]) kept
  refine keepsBut_next (keepsBut_ite _ (posted 2 (counted _ ?rested)) ?rested)
  refine keepsBut_ite _ (rests (posted 1 ?began)) ?began
  refine keepsBut_ite _ (posted 0 (counted _ ?low)) ?low
  exact counted _ rfl

/-- A reload reads the collection's blocks, and may make it searchable (16 R562). -/
theorem execScanFormReload_keeps (cid : BitVec 16) (s : State) :
    keepsBut s (after s (execScanFormReload cid s)) [.freeCtr, .mod, .qau, .corpus, .flash, .hbm, .warden, .links] := by
  refine keepsBut_next ?_
  split
  · rfl
  split
  · rfl
  dsimp only [keepsBut]
  rw [noteStart_without _ _ (by simp)]
  split
  · split
    · rw [collEvent_without _ _ _ _ _ (by simp), State.setColl_without _ _ _ _ (by simp)]
      simp
    · simp
  · simp

theorem execColdStart_keeps (s : State) : keepsBut s (after s (execColdStart s)) (writesOf .coldStart) := by
  refine keepsBut_next ?_
  split
  · rfl
  · dsimp only [keepsBut]
    rw [meterUp_without _ _ (by simp [writesOf]), restart_without _ _ _ _ (by simp [writesOf])]
    simp [writesOf]

theorem execCapStep_keeps (w : BitVec 16) (s : State) :
    keepsBut s (after s (execCapStep w s)) [.freeCtr, .qau, .hbm, .pwr, .links] := by
  have measured (x : Pwr) {t : State} (kept : keepsBut s t [.freeCtr, .qau, .hbm, .pwr, .links]) :
      keepsBut s { t with pwr := x } [.freeCtr, .qau, .hbm, .pwr, .links] := Eq.trans (by simp) kept
  have drawn : keepsBut s s.draw.2.draw.2 [.freeCtr, .qau, .hbm, .pwr, .links] := by simp [keepsBut]
  have posted {t : State} (code e1 e2 : Nat) (kept : keepsBut s t [.freeCtr, .qau, .hbm, .pwr, .links]) :
      keepsBut s (postM t evCapAction srcPwr noQueue code e1 e2) [.freeCtr, .qau, .hbm, .pwr, .links] :=
    Eq.trans (by simp) kept
  refine keepsBut_next (keepsBut_ite _
    (keepsBut_ite _ (posted _ _ _ (measured _ ?read)) (keepsBut_ite _ ?read (posted _ _ _ (measured _ ?read))))
    (keepsBut_ite _ (posted _ _ _ (measured _ ?read)) ?read))
  exact measured _ drawn

/-- An entry that is reached pauses the tests, has its effect, is posted, and answers the command that waits (15 R518, R520). -/
theorem execPowerStateReached_keeps (s : State) : keepsBut s (after s (execPowerStateReached s)) (writesOf .powerStateReached) := by
  refine keepsBut_next ?_
  dsimp only
  split
  · split
    · simp [keepsBut, writesOf]
    · simp [keepsBut, writesOf]
  · rfl

theorem execWake_keeps (s : State) : keepsBut s (after s (execWake s)) (writesOf .wake) := by
  refine keepsBut_next ?_
  split
  · simp [keepsBut, writesOf]
  · simp [keepsBut, writesOf]

/-- A watchdog counts the resets of the hour, then resets the module or stops the unit (16 R559). -/
theorem execWatchdog_keeps (u : Fin 7) (s : State) : keepsBut s (after s (execWatchdog u s)) (writesOf (.watchdog u)) := by
  refine keepsBut_next ?_
  dsimp only [keepsBut]
  split
  · rfl
  split
  · simp [writesOf]
  · rw [postM_without _ _ _ _ _ _ _ _ (by simp [writesOf]), warm_without _ _ _ (by simp [writesOf])]
    simp [writesOf]

/-- A fault at execution is the context's trap, or, on an engine that runs no context, the command's (08 R264). -/
theorem execExecutionFault_keeps (e : EngineId) (k : ExecCause) (s : State) :
    keepsBut s (after s (execExecutionFault e k s)) (writesOf (.executionFault e k)) := by
  refine keepsBut_next ?_
  dsimp only [keepsBut, writesOf]
  repeat' split
  all_goals simp

theorem execClaimStart_keeps (n : Fin 64) (s : State) : keepsBut s (after s (execClaimStart n s)) (writesOf (.claimStart n)) := by
  refine keepsBut_next ?_
  dsimp only [keepsBut, writesOf]
  repeat' split
  all_goals simp

theorem execEvictionWriteDone_keeps (c : ContextId) (va : BitVec 48) (fla : BitVec 40) (s : State) :
    keepsBut s (after s (execEvictionWriteDone c va fla s)) (writesOf (.evictionWriteDone c va fla)) := by
  refine keepsBut_gated ?_
  dsimp only [keepsBut, writesOf]
  repeat' split
  all_goals simp

theorem execOpenRowProgram_keeps (row : Nat) (s : State) :
    keepsBut s (after s (execOpenRowProgram row s)) (writesOf (.openRowProgram row)) := by
  refine keepsBut_next (keepsBut_ite _ rfl ?_)
  simp [keepsBut, writesOf]

/-! ## Every row -/

/-- Each row keeps what its table entry does not name: an instruction by the unit that takes it, a MAINT or mailbox command by its run,
and a row of a unit that can be stopped by what it does when it runs. -/
theorem exec_keeps (i : Instr) (s : State) : keepsBut s (after s (exec i s)) (writesOf i) := by
  cases i with
  | varith | vcmp | vsel | vcvt | vperm | vbcast | vext | vsrnd | vld | vst | plogic | pset | pcnt | mopen | mmul | mclose | mdrop
  | macc | xpnd | lbound | thrc | topk | rsum | rmv | rmaxsum | dld | dst | dcpy | amo | aaddt | wvx | sfence | windec =>
    exact issueUnit_keeps (by simp [writesOf])
  | nop | endProg | getf | clrf | add | sub | mul | div | and | or | xor | shift | minmax | cmp | addi | andi | shifti | li | lc | fop
  | amov | aadd | aaddi | alc | twait =>
    exact frontPure_keeps (by simp [writesOf])
  | tset | tfld | tget => exact frontTile_keeps (by simp [writesOf])
  | br | jal | jr => exact frontStep_keeps (by simp [writesOf]) fun _ _ _ => rfl
  | rdcnt e => exact execRdcnt_keeps e s
  | loop e => exact execLoop_keeps e s
  | create => exact runMaint_keeps (by simp [writesOf]) fun u c bs => runCreate_without u c bs _ (by simp [writesOf])
  | destroy => exact runMaint_keeps (by simp [writesOf]) fun u c bs => runDestroy_without u c bs _ (by simp [writesOf])
  | genInstall =>
    exact runMaint_keeps (by simp [writesOf]) fun u c bs => runGenInstall_without u c bs _ (by simp [writesOf])
  | collPriority =>
    exact runMaint_keeps (by simp [writesOf]) fun u c bs => runPriority_without u c bs _ (by simp [writesOf])
  | pinRelease =>
    exact runMaint_keeps (by simp [writesOf]) fun u c bs => runPinRelease_without u c bs _ (by simp [writesOf])
  | launch => exact runMaint_keeps (by simp [writesOf]) fun u c bs => runLaunch_without u c bs _ (by simp [writesOf])
  | resume => exact runMaint_keeps (by simp [writesOf]) fun u c bs => runResume_without u c bs _ (by simp [writesOf])
  | kill => exact runMaint_keeps (by simp [writesOf]) fun u c bs => runKill_without u c bs _ (by simp [writesOf])
  | sample => exact runMaint_keeps (by simp [writesOf]) fun u c bs => runSample_without u c bs _ (by simp [writesOf])
  | update => exact runMaint_keeps (by simp [writesOf]) fun u c bs => runUpdate_without u c bs _ (by simp [writesOf])
  | claim => exact runRequest_keeps (by simp [writesOf]) fun u b => runClaim_without u b _ (by simp [writesOf])
  | transfer => exact runRequest_keeps (by simp [writesOf]) fun u b => runTransfer_without u b _ (by simp [writesOf])
  | policy => exact runRequest_keeps (by simp [writesOf]) fun u b => runPolicy_without u b _ (by simp [writesOf])
  | time => exact runRequest_keeps (by simp [writesOf]) fun u b => runTime_without u b _ (by simp [writesOf])
  | sessionOpen => exact runRequest_keeps (by simp [writesOf]) fun u b => runSessionOpen_without u b _ (by simp [writesOf])
  | getIdentity => exact execGetIdentity_keeps s
  | attest => exact execAttest_keeps s
  | challenge => exact execChallenge_keeps s
  | auditRead => exact execAuditRead_keeps s
  | extend => exact execExtend_keeps s
  | debugEnd => exact execDebugEnd_keeps s
  | debugUnlock => exact execDebugUnlock_keeps s
  | stats q => exact execStats_keeps q s
  | memoryRead r a n f => exact execMemoryRead_keeps r a n f s
  | memoryWrite r a bs f => exact execMemoryWrite_keeps r a bs f s
  | memoryAtomic r a ty op x cmp => exact execMemoryAtomic_keeps r a ty op x cmp s
  | rdmaRead r a n => exact execRdmaRead_keeps r a n s
  | payloadReadDone q t o => exact execPayloadReadDone_keeps q t o s
  | stackStopsAnswering st => exact execStackStopsAnswering_keeps st s
  | csnRange => exact execCsnRange_keeps s
  | garbageCollection fla fresh => exact execGarbageCollection_keeps fla fresh s
  | wearRelocation sb fresh => exact execWearRelocation_keeps sb fresh s
  | firmwareUpdate part one unit image => exact execFirmwareUpdate_keeps part one unit image s
  | settle w => exact execSettle_keeps w s
  | repairReady w => exact execRepairReady_keeps w s
  | ucodeSwap w => exact execUcodeSwap_keeps w s
  | weevilSelftest w result => exact execWeevilSelftest_keeps w result s
  | pageIn e => exact execPageIn_keeps e s
  | flowSample f => exact execFlowSample_keeps f s
  | scanFormReload cid => exact execScanFormReload_keeps cid s
  | coldStart => exact execColdStart_keeps s
  | capStep w => exact execCapStep_keeps w s
  | powerStateReached => exact execPowerStateReached_keeps s
  | wake => exact execWake_keeps s
  | watchdog u => exact execWatchdog_keeps u s
  | executionFault e k => exact execExecutionFault_keeps e k s
  | claimStart n => exact execClaimStart_keeps n s
  | evictionWriteDone c va fla => exact execEvictionWriteDone_keeps c va fla s
  | openRowProgram row => exact execOpenRowProgram_keeps row s
  | slotAdmit | checkpoint | thresholdReceive | chainCand | chainStats | chainLeave | refineResult | refineReadDone | csnBackfill
  | exclusionSettle | reclaim | mergeHandover | blockMove | blockReload | pageInDone | pageinPreempt | eviction
  | preempt | contextTimeout | workStart | contextRestore =>
    refine keepsBut_gated ?_
    dsimp only [keepsBut, writesOf]
    repeat' split
    all_goals simp
  | _ =>
    refine keepsBut_next ?_
    dsimp only [keepsBut, writesOf]
    repeat' split
    all_goals simp

/-- No row of the table names the queue of waiting commands. -/
theorem pending_notMem_writesOf (i : Instr) : Blk.pending ∉ writesOf i := by
  cases i <;> simp [writesOf]

theorem pending_of_keepsBut {s t : State} {bs : List Blk} (kept : keepsBut s t bs) (h : Blk.pending ∉ bs) : t.pending = s.pending := by
  simpa [State.without, h] using congrArg State.pending kept

theorem meter_of_keepsBut {s t : State} {bs : List Blk} (kept : keepsBut s t bs) (h : Blk.meter ∉ bs) : t.meter = s.meter := by
  simpa [State.without, h] using congrArg State.meter kept

/-- Settles O3: every row has a next state, and keeps what the table does not name, the queue among it. -/
theorem commandsWriteOnlyTheirParts : Obligations.CommandsWriteOnlyTheirParts := by
  intro i s
  obtain ⟨t, next⟩ := everyCommandAnswersNext i s
  have kept := exec_keeps i s
  rw [next] at kept
  exact ⟨t, next, kept, pending_of_keepsBut kept (pending_notMem_writesOf i)⟩

end Sys2Proof.Machine
end

section
/-! PROOFS. The meter (15 R532-R537): what writes it, its log and its signatures, and the invariant that every step keeps. -/

namespace Sys2Proof.Machine

/-! ## Nothing but its own rows and registers writes the meter (R533) -/

/-- Every part of State but the queue of waiting commands and the meter. -/
def allButMeter : List Blk :=
  [.freeCtr, .rsp, .mod, .qau, .csn, .alloc, .corpus, .flash, .reel, .sel, .hbm, .eng, .warden, .maint, .life, .pwr, .therm, .hold, .links]

theorem meter_of_without {s t : State} (kept : t.without allButMeter = s.without allButMeter) : t.meter = s.meter :=
  meter_of_keepsBut kept (by simp [allButMeter])

theorem writeReg_meter (s : State) (c : CoreId) {blk : Nat} (o : Nat) (v : W64) (other : blk ≠ 0xB8) :
    (writeReg s c blk o v).meter = s.meter := by
  have fence (st : StackId) : (after s (execHbmcSfence c st v s)).without allButMeter = s.without allButMeter := by
    unfold execHbmcSfence
    dsimp only [after]
    repeat' split
    all_goals simp [allButMeter]
  have port (p : Fin 2) : (after s (execNetPortWrite p v s)).without allButMeter = s.without allButMeter := by
    unfold execNetPortWrite
    dsimp only [after]
    repeat' split
    all_goals simp [allButMeter]
  refine meter_of_without ?_
  unfold writeReg
  repeat (first | rw [apply_ite (fun t => State.without t allButMeter)] | rfl)
  dsimp only [allButMeter] at fence port ⊢
  simp [fence, port, other]

/-- A host's write through BAR0 reaches queues and the MSI-X table alone (16 R550). -/
theorem bar0Write_meter (s : State) (o size : Nat) (v : W64) : (bar0Write s o size v).meter = s.meter := by
  have table (i x : Nat) : (putMsix s i x).meter = s.meter := meter_of_without (putMsix_without s i x _ (by simp [allButMeter]))
  unfold bar0Write
  dsimp only
  split
  · rfl
  · split
    · split
      · exact writeReg_meter s 0 _ v (by decide)
      · split
        · exact table _ _
        · rfl
    · split
      · exact table _ _
      · rfl

/-- The meter answers in every power state (15 Table 15.2). -/
theorem blockOff_meter (s : State) : blockOff s 0xB8 = false := by
  simp [blockOff]

/-- A write in block METER does one of three things, or nothing. -/
theorem writeReg_meterBlock (s : State) (c : CoreId) (o : Nat) (v : W64) :
    writeReg s c 0xB8 o v = s ∨ exec (.meterSign v) s = .next (writeReg s c 0xB8 o v) ∨
      (∃ x, writeReg s c 0xB8 o v = { s with meter.nonce := x }) ∨ ∃ x, writeReg s c 0xB8 o v = { s with meter.logIdx := x } := by
  by_cases nonce : 0x20 ≤ o ∧ o < 0x40
  · exact .inr (.inr (.inl ⟨_, by simp [writeReg, blockOff_meter, nonce]; rfl⟩))
  by_cases sign : o = 0x40
  · subst sign
    exact .inr (.inl (writeReg_meterSign s c v).symm)
  by_cases index : o = 0x48
  · exact .inr (.inr (.inr ⟨_, by simp [writeReg, blockOff_meter, index]; rfl⟩))
  · exact .inl (by simp [writeReg, blockOff_meter, nonce, sign, index])

theorem restart_meter (s : State) (kind cause : Nat) : (restart s kind cause).meter = s.meter :=
  meter_of_without (restart_without s kind cause _ (by simp [allButMeter]))

theorem exec_coldStart_off {s : State} (off : s.mod.pwrgd = false) :
    exec .coldStart s = .next (meterUp (restart s.draw.2 0 (if s.hold.reportDue && s.draw.1 % 2 = 1 then 5 else 0))) := by
  simp [exec, execColdStart, off, State.draw]

theorem exec_coldStart_on {s : State} (on : s.mod.pwrgd = true) : exec .coldStart s = .next s := by
  simp [exec, execColdStart, on]

/-- A meter that kept its power comes up as it was (R532). -/
theorem meterUp_powered {s : State} (powered : s.meter.off = false) : meterUp s = s := by
  simp [meterUp, powered]

theorem coldStart_meter {s t : State} (next : exec .coldStart s = .next t) (powered : s.meter.off = false) : t.meter = s.meter := by
  cases on : s.mod.pwrgd with
  | true =>
    rw [exec_coldStart_on on] at next
    cases next
    rfl
  | false =>
    rw [exec_coldStart_off on, meterUp_powered (by rw [restart_meter]; exact powered)] at next
    cases next
    exact restart_meter ..

/-- The rows whose table entry names the meter. -/
theorem meter_notMem_writesOf {i : Instr} (other : isMeterRow i = false) (noWrite : ∀ c a n v, i ≠ .csrWrite c a n v)
    (noStart : i ≠ .coldStart) : Blk.meter ∉ writesOf i := by
  cases i with
  | csrWrite c a n v => exact absurd rfl (noWrite c a n v)
  | coldStart => exact absurd rfl noStart
  | meterSign | meterSignDone | meterInstUpdate | meterSave | sealOpen | sealClose | lrsUpdate | paramChange | ifUpdate
  | logCleared | meterFault => cases other
  | _ => simp [writesOf]

theorem exec_meter {i : Instr} {s t : State} (next : exec i s = .next t) (other : isMeterRow i = false)
    (noWrite : ∀ c a n v, i ≠ .csrWrite c a n v) (powered : i = .coldStart → s.meter.off = false) : t.meter = s.meter := by
  by_cases start : i = .coldStart
  · subst start
    exact coldStart_meter next (powered rfl)
  · have kept := exec_keeps i s
    rw [next] at kept
    exact meter_of_keepsBut kept (meter_notMem_writesOf other noWrite start)

theorem exec_csrWrite_core (c : CoreId) (a : Dpa) (n : Nat) (v : W64) (s : State) :
    exec (.csrWrite (.core c) a n v) s =
      .next (if regAccess a.toNat n then writeReg s c (regBlock a.toNat) (regOffset a.toNat) v else s) := rfl

/-- Settles O16: the table of O3 for the other rows, and the registers of block METER for a write. -/
theorem meterIsApart : Obligations.MeterIsApart := by
  refine ⟨fun i s t next other noWrite powered => exec_meter next other noWrite powered, fun m a n v s t next => ?_⟩
  cases m with
  | bar0 =>
    cases next
    exact ⟨fun _ => bar0Write_meter s a.toNat n v, fun h => absurd rfl h⟩
  | core c =>
    rw [exec_csrWrite_core] at next
    split at next
    next taken =>
      cases next
      refine ⟨fun other => ?_, fun _ block => ?_⟩
      · exact writeReg_meter s c _ v (other.resolve_left (by simp))
      · rw [block]
        exact writeReg_meterBlock s c (regOffset a.toNat) v
    next =>
      cases next
      exact ⟨fun _ => rfl, fun _ _ => .inl rfl⟩

/-! ## The log (R535) -/

/-- The meter with an entry more. -/
def Meter.logging (m : Meter) (type : Nat) (data : W64) : Meter :=
  { m with log := m.log ++ [⟨m.logSeq, type, m.energy, m.ticks / 10, data⟩], logSeq := m.logSeq + 1 }

/-- The meter with FAULT or KEY_EXHAUSTED counted in the last entry of a full log. -/
def Meter.counting (m : Meter) : Meter := { m with log := modAt m.log 1023 (fun e => { e with data := e.data + 1 }) }

section Log

variable {s : State}

theorem logFull_of_room (room : s.meter.log.length < 1024) : logFull s = false := by
  simpa [logFull] using room

theorem logFull_of_full (full : 1024 ≤ s.meter.log.length) : logFull s = true := by
  simpa [logFull] using full

theorem meterLog_of_room (room : s.meter.log.length < 1024) (type data : Nat) :
    meterLog s type data = { s with meter := s.meter.logging type (BitVec.ofNat 64 data) } := by
  rw [meterLog, logFull_of_room room]
  rfl

theorem meterLog_of_full (full : 1024 ≤ s.meter.log.length) (type data : Nat) : meterLog s type data = s := by
  rw [meterLog, logFull_of_full full, if_pos rfl]

theorem meterLogOrCount_of_room (room : s.meter.log.length < 1024) (type data : Nat) :
    meterLogOrCount s type data = { s with meter := s.meter.logging type (BitVec.ofNat 64 data) } := by
  rw [meterLogOrCount, logFull_of_room room, if_neg Bool.false_ne_true, meterLog_of_room room]

theorem meterLogOrCount_of_full (full : 1024 ≤ s.meter.log.length) (type data : Nat) :
    meterLogOrCount s type data = { s with meter := s.meter.counting } := by
  rw [meterLogOrCount, logFull_of_full full, if_pos rfl]
  rfl

theorem postM_meter (s : State) (code src queue e0 e1 e2 : Nat) : (postM s code src queue e0 e1 e2).meter = s.meter :=
  meter_of_without (postM_without s code src queue e0 e1 e2 _ (by simp [allButMeter]))

/-- Posting beside a change of the meter. -/
theorem postM_meter_keeps (s : State) (m : Meter) (code src queue e0 e1 e2 : Nat) :
    keepsBut s (postM { s with meter := m } code src queue e0 e1 e2) [.qau, .hbm, .links, .meter] := by
  simp [keepsBut]

end Log

section Entries

variable {s : State} (room : s.meter.log.length < 1024)
include room

theorem exec_sealOpen_intact (intact : s.meter.sealIntact = true) : exec .sealOpen s = .next
    (postM { s with meter := { s.meter with sealIntact := false }.logging 1 0 } evMeterSeal srcMeter noQueue 0 (s.meter.log.length + 1) 0) := by
  simp [exec, execSealOpen, intact, meterLog_of_room (s := { s with meter.sealIntact := false }) room, Meter.logging]

theorem exec_sealClose_open (key : W64) (opened : s.meter.sealIntact = false) : exec (.sealClose key) s = .next
    (postM { s with meter := { s.meter with sealIntact := true }.logging 2 key } evMeterSeal srcMeter noQueue 1 (s.meter.log.length + 1) 0) := by
  simp [exec, execSealClose, opened, logFull_of_room room, meterLog_of_room (s := { s with meter.sealIntact := true }) room, Meter.logging]

theorem exec_lrsUpdate_open (version : BitVec 16) (opened : s.meter.sealIntact = false) :
    exec (.lrsUpdate version true) s =
      .next { s with meter := { s.meter with lrsVer := version }.logging 3 (version.zeroExtend 64) } := by
  have taken : (!s.meter.sealIntact && true && !logFull s) = true := by simp [opened, logFull_of_room room]
  rw [exec, execLrsUpdate, if_pos taken, meterLog_of_room (s := { s with meter.lrsVer := version }) room, BitVec.ofNat_toNat]

theorem exec_paramChange_open (number : W64) (opened : s.meter.sealIntact = false) :
    exec (.paramChange number true) s = .next { s with meter := s.meter.logging 4 number } := by
  simp [exec, execParamChange, opened, logFull_of_room room, meterLog_of_room room]

theorem exec_ifUpdate_room (version : W64) : exec (.ifUpdate version true) s = .next { s with meter := s.meter.logging 5 version } := by
  simp [exec, execIfUpdate, logFull_of_room room, meterLog_of_room room]

theorem exec_meterFault_room (code : W64) : exec (.meterFault code) s = .next
    (postM { s with meter := { s.meter with fault := true }.logging 8 code } evMeterFault srcMeter noQueue code.toNat 0 0) := by
  simp [exec, execMeterFault, meterFails, meterLogOrCount_of_room (s := { s with meter.fault := true }) room]

end Entries

section Full

variable {s : State} (full : 1024 ≤ s.meter.log.length)
include full

theorem exec_sealClose_full (key : W64) : exec (.sealClose key) s = .next s := by
  simp [exec, execSealClose, logFull_of_full full]

theorem exec_lrsUpdate_full (version : BitVec 16) (signed : Bool) : exec (.lrsUpdate version signed) s = .next s := by
  simp [exec, execLrsUpdate, logFull_of_full full]

theorem exec_paramChange_full (number : W64) (signed : Bool) : exec (.paramChange number signed) s = .next s := by
  simp [exec, execParamChange, logFull_of_full full]

theorem exec_ifUpdate_full (version : W64) (signed : Bool) : exec (.ifUpdate version signed) s = .next s := by
  simp [exec, execIfUpdate, logFull_of_full full]

/-- The opening of the seal is not logged where the log is full (log 50). -/
theorem exec_sealOpen_full : ∃ t, exec .sealOpen s = .next t ∧ t.meter = { s.meter with sealIntact := false } := by
  refine ⟨_, rfl, ?_⟩
  split
  · dsimp only
    rw [postM_meter, meterLog_of_full (s := { s with meter.sealIntact := false }) full]
  next opened => simp at opened; rw [← opened]

theorem exec_meterFault_full (code : W64) : exec (.meterFault code) s = .next
    (postM { s with meter := { s.meter with fault := true }.counting } evMeterFault srcMeter noQueue code.toNat 0 0) := by
  simp [exec, execMeterFault, meterFails, meterLogOrCount_of_full (s := { s with meter.fault := true }) full]

end Full

section Refused

variable {s : State}

theorem exec_lrsUpdate_unsigned (version : BitVec 16) : exec (.lrsUpdate version false) s = .next s := by
  simp [exec, execLrsUpdate]

theorem exec_paramChange_unsigned (number : W64) : exec (.paramChange number false) s = .next s := by
  simp [exec, execParamChange]

theorem exec_ifUpdate_unsigned (version : W64) : exec (.ifUpdate version false) s = .next s := by
  simp [exec, execIfUpdate]

variable (intact : s.meter.sealIntact = true)
include intact

theorem exec_sealClose_intact (key : W64) : exec (.sealClose key) s = .next s := by
  simp [exec, execSealClose, intact]

theorem exec_lrsUpdate_intact (version : BitVec 16) (signed : Bool) : exec (.lrsUpdate version signed) s = .next s := by
  simp [exec, execLrsUpdate, intact]

theorem exec_paramChange_intact (number : W64) (signed : Bool) : exec (.paramChange number signed) s = .next s := by
  simp [exec, execParamChange, intact]

end Refused

theorem exec_sealOpen_again {s : State} (opened : s.meter.sealIntact = false) : exec .sealOpen s = .next s := by
  simp [exec, execSealOpen, opened]

theorem exec_logCleared (s : State) : exec .logCleared s =
    .next { s with meter := { s.meter with log := [] }.logging 9 (BitVec.ofNat 64 s.meter.log.length) } := by
  simp [exec, execLogCleared, meterLog_of_room (s := { s with meter.log := [] })]

/-- Settles O21: each row with room in the log, with a full one, and refused. -/
theorem meterLogGrows : Obligations.MeterLogGrows := by
  refine ⟨fun s key version lrs room => ⟨fun intact => ?opening, fun opened => ⟨?closing, exec_lrsUpdate_open room lrs opened,
      exec_paramChange_open room key opened⟩, exec_ifUpdate_room room version, ?fault⟩,
    fun s key version lrs signed full => ⟨exec_sealClose_full full.ge key, exec_lrsUpdate_full full.ge lrs signed,
      exec_paramChange_full full.ge key signed, exec_ifUpdate_full full.ge version signed, exec_sealOpen_full full.ge, ?counted⟩,
    fun s key version lrs => ⟨exec_lrsUpdate_unsigned lrs, exec_paramChange_unsigned key, exec_ifUpdate_unsigned version,
      fun intact => ⟨exec_sealClose_intact intact key, exec_lrsUpdate_intact intact lrs true, exec_paramChange_intact intact key true⟩,
      exec_sealOpen_again⟩, exec_logCleared⟩
  case opening => exact ⟨_, exec_sealOpen_intact room intact, postM_meter_keeps .., postM_meter ..⟩
  case closing => exact ⟨_, exec_sealClose_open room key opened, postM_meter_keeps .., postM_meter ..⟩
  case fault => exact ⟨_, exec_meterFault_room room key, postM_meter_keeps .., postM_meter ..⟩
  case counted => exact ⟨_, exec_meterFault_full full.ge key, postM_meter ..⟩

/-! ## Signed readings (R534, R536) -/

section Sign

variable {s : State} {v : W64}

theorem exec_meterSign_busy (busy : s.meter.busy = true) : exec (.meterSign v) s = .next s := by
  simp [exec, execMeterSign, busy]

theorem exec_meterSign_noGo (noGo : bit v.toNat 63 = false) : exec (.meterSign v) s = .next s := by
  simp [exec, execMeterSign, noGo]

theorem signWait_eq_zero_iff : signWait s = 0 ↔ ∀ k, s.meter.lastSign = some k → k + 9000 ≤ s.meter.ticks := by
  unfold signWait ceilDiv
  split
  next none => simp [none]
  next k last =>
    simp only [last, Option.some.injEq, forall_eq']
    omega

variable (go : bit v.toNat 63 = true) (free : s.meter.busy = false)
include go free

/-- No signature is left, or the KEY_LOW entry that is due has no room (log 50). -/
theorem exec_meterSign_none (none : s.meter.sigsLeft = 0 ∨ (s.meter.sigsLeft = 65536 ∧ 1024 ≤ s.meter.log.length)) :
    exec (.meterSign v) s = .next { s with meter.result := stFault } := by
  rcases none with none | ⟨low, full⟩
  · simp [exec, execMeterSign, go, free, none]
  · simp [exec, execMeterSign, go, free, low, crossesLow, keyLow, logFull_of_full full]

variable (left : s.meter.sigsLeft ≠ 0) (room : s.meter.sigsLeft = 65536 → s.meter.log.length < 1024)
include left room

theorem exec_meterSign_left : exec (.meterSign v) s = .next (if signWait s ≠ 0 then { s with meter.result := stBusy } else
    { s with
      meter.busy := true, meter.lastSign := some s.meter.ticks
      meter.signNonce := (List.range 4).map (fun i => Tab.get 0 s.meter.nonce i) }) := by
  have due : (crossesLow s && logFull s) = false := by
    by_cases low : s.meter.sigsLeft = 65536
    · simp [logFull_of_room (room low)]
    · simp [crossesLow, keyLow, low]
  simp only [exec, execMeterSign, go, free, left, due, Bool.not_true, Bool.or_false, decide_false,
    Bool.false_eq_true, if_false]

end Sign

/-- What a signature leaves of the meter before the entries that the number left brings. -/
def Meter.signed (m : Meter) (body : List Byte) : Meter :=
  { m with rbuf := body, busy := false, result := stOk, sigsLeft := m.sigsLeft - 1, rangeLeft := false }

section SignDone

variable {s : State}

theorem exec_meterSignDone_idle (idle : s.meter.busy = false) : exec .meterSignDone s = .next s := by
  simp [exec, execMeterSignDone, idle]

variable (busy : s.meter.busy = true)
include busy

theorem exec_meterSignDone_filled (low : s.meter.sigsLeft = 65536) (full : 1024 ≤ s.meter.log.length) :
    exec .meterSignDone s = .next { s with meter.busy := false, meter.result := stFault } := by
  simp [exec, execMeterSignDone, busy, low, crossesLow, keyLow, logFull_of_full full]

theorem exec_meterSignDone_signs (room : s.meter.sigsLeft = 65536 → s.meter.log.length < 1024) :
    exec .meterSignDone s = .next (noteKeys { s with meter := s.meter.signed (reading s) }) := by
  have due : (crossesLow s && logFull s) = false := by
    by_cases low : s.meter.sigsLeft = 65536
    · simp [logFull_of_room (room low)]
    · simp [crossesLow, keyLow, low]
  simp only [exec, execMeterSignDone, busy, due, Bool.true_and, Bool.false_eq_true, if_false, if_true]
  rfl

end SignDone

section Keys

variable {s : State}

theorem noteKeys_quiet (notLow : s.meter.sigsLeft ≠ 65535) (some : s.meter.sigsLeft ≠ 0) : noteKeys s = s := by
  have h : s.meter.sigsLeft + 1 ≠ 65536 := by omega
  simp [noteKeys, keyLow, notLow, some]

theorem noteKeys_low (low : s.meter.sigsLeft = 65535) :
    noteKeys s = postM (meterLog s 6 65535) evMeterKey srcMeter noQueue 65535 0 0 := by
  simp [noteKeys, keyLow, low]

theorem noteKeys_exhausted (none : s.meter.sigsLeft = 0) :
    noteKeys s = postM (meterLogOrCount s 7 0) evMeterKey srcMeter noQueue 0 1 0 := by
  simp [noteKeys, keyLow, none]

end Keys

/-- Settles O17: GO while BUSY, GO that is taken, and a nonce register written. -/
theorem signRequestsAndNonces : Obligations.SignRequestsAndNonces := by
  refine fun v s => ⟨exec_meterSign_busy, fun t next free taken => ?_, fun c i => ?_⟩
  · have idle (m : Meter) (same : m.busy = s.meter.busy) : m.busy ≠ true := by simp [same, free]
    simp only [exec, execMeterSign] at next
    split at next
    · cases next
      exact absurd taken (idle _ rfl)
    split at next
    · cases next
      exact absurd taken (idle _ rfl)
    split at next
    · cases next
      exact absurd taken (idle _ rfl)
    · cases next
      rfl
  · rw [exec_csrWrite_csrDpa c v s (by decide) (by omega) (by omega)]
    have offset : (0x20 + 8 * i.val - 0x20) / 8 = i.val := by omega
    rw [writeReg, blockOff_meter, if_neg Bool.false_ne_true]
    repeat rw [if_neg (by omega)]
    rw [if_pos (by omega), offset]

theorem reading_eq (s : State) : reading s = readingBody s ++ leBytes 4 (sigCount - s.meter.sigsLeft) ++
    padTo 2816 (Config.meterSignature (sigCount - s.meter.sigsLeft) (readingBody s)) := rfl

/-- Settles O18: a GO by what is left and when the last was taken, the end of one by the number it leaves. -/
theorem signatureIsMade : Obligations.SignatureIsMade := by
  refine ⟨fun v s => exec_meterSign_noGo, fun v s go free => ⟨exec_meterSign_none go free, fun left room => ?_⟩,
    fun s => ⟨exec_meterSignDone_idle, exec_meterSignDone_filled, fun busy notLow more => ?_⟩⟩
  · rw [exec_meterSign_left go free left room]
    refine ⟨fun k last early => ?_, fun late => ?_⟩
    · rw [if_pos]
      intro done
      have := signWait_eq_zero_iff.mp done k last
      omega
    · rw [if_neg]
      simpa using signWait_eq_zero_iff.mpr late
  · rw [exec_meterSignDone_signs busy (fun low => absurd low notLow), noteKeys_quiet]
    · rw [reading_eq]
      rfl
    · dsimp only [Meter.signed]
      omega
    · dsimp only [Meter.signed]
      omega

/-- Settles O19: the entry is appended to a log with room, and posting leaves the meter. -/
theorem keyWarningsAreLogged : Obligations.KeyWarningsAreLogged := by
  refine fun s busy room => ⟨fun low => ?_, fun last => ?_⟩
  · refine ⟨_, exec_meterSignDone_signs busy (fun _ => room), ?_⟩
    rw [noteKeys_low (by simp [Meter.signed, low]), postM_meter,
      meterLog_of_room (s := { s with meter := s.meter.signed (reading s) }) room]
    exact ⟨by simp [Meter.logging, Meter.signed, low], rfl, rfl⟩
  · refine ⟨_, exec_meterSignDone_signs busy (fun _ => room), ?_⟩
    rw [noteKeys_exhausted (by simp [Meter.signed, last]), postM_meter,
      meterLogOrCount_of_room (s := { s with meter := s.meter.signed (reading s) }) room]
    exact ⟨by simp [Meter.logging, Meter.signed, last], rfl, rfl⟩

/-! ## Readings and power loss (R532, R533) -/

theorem meterLog_meter (s : State) (type data : Nat) :
    (meterLog s type data).meter = s.meter ∨
      s.meter.log.length < 1024 ∧ (meterLog s type data).meter = s.meter.logging type (BitVec.ofNat 64 data) := by
  by_cases room : s.meter.log.length < 1024
  · exact .inr ⟨room, by rw [meterLog_of_room room]⟩
  · exact .inl (by rw [meterLog_of_full (Nat.le_of_not_lt room)])

theorem meterLogOrCount_meter (s : State) (type data : Nat) :
    (meterLogOrCount s type data).meter = s.meter.counting ∨
      s.meter.log.length < 1024 ∧ (meterLogOrCount s type data).meter = s.meter.logging type (BitVec.ofNat 64 data) := by
  by_cases room : s.meter.log.length < 1024
  · exact .inr ⟨room, by rw [meterLogOrCount_of_room room]⟩
  · exact .inl (by rw [meterLogOrCount_of_full (Nat.le_of_not_lt room)])

theorem meterFails_meter (s : State) (code : Nat) :
    (meterFails s code).meter = { s.meter with fault := true }.counting ∨
      s.meter.log.length < 1024 ∧ (meterFails s code).meter = { s.meter with fault := true }.logging 8 (BitVec.ofNat 64 code) := by
  rw [meterFails, postM_meter]
  exact meterLogOrCount_meter { s with meter.fault := true } 8 code

/-- A meter that had lost its power comes up with the register that it stored; a check that fails is a fault (log 65). -/
theorem meterUp_unpowered {s : State} (off : s.meter.off = true) :
    (meterUp s).meter = { s.meter with energy := s.meter.nvEnergy, off := false } ∨
      ∃ u code, u.meter = { s.meter with energy := s.meter.nvEnergy, off := false } ∧ meterUp s = meterFails u code := by
  simp only [meterUp, off, Bool.not_true, Bool.false_eq_true, if_false]
  split
  · exact .inr ⟨_, _, rfl, rfl⟩
  · exact .inl rfl

/-- A failure is neither of the energy register nor of the meter's power. -/
theorem meterFails_energy_off (s : State) (code : Nat) :
    (meterFails s code).meter.energy = s.meter.energy ∧ (meterFails s code).meter.off = s.meter.off := by
  rcases meterFails_meter s code with counted | ⟨-, logged⟩
  · rw [counted]
    exact ⟨rfl, rfl⟩
  · rw [logged]
    exact ⟨rfl, rfl⟩

/-- Settles O20: an update and a save are their rows; a start ends in the meter's own power-up. -/
theorem energyAccumulates : Obligations.EnergyAccumulates := by
  refine ⟨fun p c v mj s => ?_, fun s => rfl, fun s rails off => ⟨_, exec_coldStart_off rails, ?_⟩⟩
  · rw [Bool.decide_or, ← Bool.or_assoc]
    rfl
  · generalize restarted : restart s.draw.2 0 (if s.hold.reportDue && s.draw.1 % 2 = 1 then 5 else 0) = u
    have same : u.meter = s.meter := restarted ▸ restart_meter ..
    rcases meterUp_unpowered (s := u) (by rw [same]; exact off) with up | ⟨w, code, up, failed⟩
    · rw [up, same]
      exact ⟨rfl, rfl⟩
    · obtain ⟨energy, power⟩ := meterFails_energy_off w code
      rw [failed, energy, power, up, same]
      exact ⟨rfl, rfl⟩

/-! ## The invariant (R534, R535) -/

/-- The invariant is about the meter alone. -/
theorem MeterInv.of_meter {s t : State} (inv : MeterInv s) (same : t.meter = s.meter) : MeterInv t := by
  obtain ⟨room, numbered, counted, indices, signing⟩ := inv
  exact ⟨same ▸ room, same ▸ numbered, same ▸ counted, same ▸ indices, same ▸ signing⟩

section Invariant

variable {s : State} {t : State} (inv : MeterInv s)
include inv

/-- A change of what the invariant does not speak of keeps it. -/
theorem MeterInv.of_log (log : t.meter.log = s.meter.log) (seq : t.meter.logSeq = s.meter.logSeq)
    (sigs : t.meter.sigsLeft ≤ s.meter.sigsLeft) (signing : t.meter.busy = true → t.meter.sigsLeft ≠ 0) : MeterInv t := by
  obtain ⟨room, numbered, counted, indices, -⟩ := inv
  exact ⟨by rw [log]; exact room, by rw [log, seq]; exact numbered, by rw [log, seq]; exact counted, sigs.trans indices, signing⟩

theorem MeterInv.of_still (log : t.meter.log = s.meter.log) (seq : t.meter.logSeq = s.meter.logSeq)
    (sigs : t.meter.sigsLeft = s.meter.sigsLeft) (busy : t.meter.busy = s.meter.busy) : MeterInv t :=
  inv.of_log log seq sigs.le (by rw [busy, sigs]; exact inv.signing)

theorem MeterInv.of_logging {type : Nat} {data : W64} (room : s.meter.log.length < 1024)
    (logged : t.meter = s.meter.logging type data) : MeterInv t := by
  obtain ⟨-, numbered, counted, indices, signing⟩ := inv
  refine ⟨?_, ?_, ?_, by rw [logged]; exact indices, by rw [logged]; exact signing⟩
  all_goals simp only [logged, Meter.logging, List.length_append, List.length_singleton, List.map_append, List.map_singleton]
  · omega
  · rw [numbered, show s.meter.logSeq + 1 - (s.meter.log.length + 1) = s.meter.logSeq - s.meter.log.length by omega,
      List.range'_concat, Nat.one_mul, Nat.sub_add_cancel counted]
  · omega

/-- Counting in the last entry changes no number. -/
theorem MeterInv.of_counting (count : t.meter = s.meter.counting) : MeterInv t := by
  have numbers (xs : List MeterEnt) (i : Nat) (f : MeterEnt → MeterEnt) (hf : ∀ e, (f e).seq = e.seq) :
      (modAt xs i f).length = xs.length ∧ (modAt xs i f).map (·.seq) = xs.map (·.seq) := by
    induction xs generalizing i with
    | nil => exact ⟨rfl, rfl⟩
    | cons x xs ih =>
      cases i with
      | zero => simp [modAt, hf]
      | succ i => simpa [modAt] using ih i
  obtain ⟨room, numbered, counted, indices, signing⟩ := inv
  obtain ⟨length, seqs⟩ := numbers s.meter.log 1023 (fun e => { e with data := e.data + 1 }) fun _ => rfl
  refine ⟨?_, ?_, ?_, by rw [count]; exact indices, by rw [count]; exact signing⟩
  all_goals simp only [count, Meter.counting, length, seqs]
  · exact room
  · exact numbered
  · exact counted

theorem MeterInv.meterLog (type data : Nat) : MeterInv (meterLog s type data) := by
  rcases meterLog_meter s type data with full | ⟨room, logged⟩
  · exact inv.of_meter full
  · exact inv.of_logging room logged

theorem MeterInv.meterLogOrCount (type data : Nat) : MeterInv (meterLogOrCount s type data) := by
  rcases meterLogOrCount_meter s type data with counted | ⟨room, logged⟩
  · exact inv.of_counting counted
  · exact inv.of_logging room logged

theorem MeterInv.postM (code src queue e0 e1 e2 : Nat) : MeterInv (postM s code src queue e0 e1 e2) :=
  inv.of_meter (postM_meter ..)

theorem MeterInv.meterFails (code : Nat) : MeterInv (meterFails s code) :=
  MeterInv.postM (MeterInv.meterLogOrCount (inv.of_still (t := { s with meter.fault := true }) rfl rfl rfl rfl) ..) ..

theorem MeterInv.noteKeys : MeterInv (noteKeys s) := by
  by_cases low : s.meter.sigsLeft = 65535
  · rw [noteKeys_low low]
    exact (inv.meterLog ..).postM ..
  by_cases none : s.meter.sigsLeft = 0
  · rw [noteKeys_exhausted none]
    exact (inv.meterLogOrCount ..).postM ..
  · rwa [noteKeys_quiet low none]

theorem MeterInv.meterUp : MeterInv (meterUp s) := by
  cases off : s.meter.off with
  | false => rwa [meterUp_powered off]
  | true =>
    rcases meterUp_unpowered off with up | ⟨u, code, up, failed⟩
    · exact inv.of_still (by rw [up]) (by rw [up]) (by rw [up]) (by rw [up])
    · rw [failed]
      exact (inv.of_still (by rw [up]) (by rw [up]) (by rw [up]) (by rw [up])).meterFails code

theorem MeterInv.coldStart : MeterInv (after s (exec .coldStart s)) := by
  cases on : s.mod.pwrgd with
  | true => rwa [exec_coldStart_on on]
  | false =>
    rw [exec_coldStart_off on]
    exact MeterInv.meterUp (inv.of_meter (restart_meter ..))

theorem MeterInv.meterSign (v : W64) : MeterInv (after s (exec (.meterSign v) s)) := by
  dsimp only [exec, execMeterSign, after]
  split
  · exact inv
  split
  · exact inv.of_still rfl rfl rfl rfl
  next left =>
    split
    · exact inv.of_still rfl rfl rfl rfl
    · exact inv.of_log rfl rfl (Nat.le_refl _) fun _ => by simp_all

theorem MeterInv.meterSignDone : MeterInv (after s (exec .meterSignDone s)) := by
  dsimp only [exec, execMeterSignDone, after]
  split
  · exact inv.of_log rfl rfl (Nat.le_refl _) (by simp)
  split
  · exact MeterInv.noteKeys (inv.of_log rfl rfl (Nat.sub_le ..) (by simp))
  · exact inv

/-- A cleared log holds the clearing alone, numbered on (R535). -/
theorem MeterInv.logCleared : MeterInv (after s (exec .logCleared s)) := by
  rw [exec_logCleared]
  obtain ⟨-, -, -, indices, signing⟩ := inv
  exact ⟨by simp [after, Meter.logging], by simp [after, Meter.logging], by simp [after, Meter.logging], indices, signing⟩

theorem MeterInv.csrWrite (c : Master) (a : Dpa) (n : Nat) (v : W64) : MeterInv (after s (exec (.csrWrite c a n v) s)) := by
  obtain ⟨apart, block⟩ := meterIsApart.2 c a n v s _ rfl
  by_cases host : c = .bar0 ∨ regBlock a.toNat ≠ 0xB8
  · exact inv.of_meter (apart host)
  · rw [not_or, not_not] at host
    rcases block host.1 host.2 with same | sign | ⟨x, nonce⟩ | ⟨x, index⟩
    · exact inv.of_meter (congrArg State.meter same)
    · have kept := inv.meterSign v
      rwa [sign] at kept
    · exact inv.of_still (congrArg (·.meter.log) nonce) (congrArg (·.meter.logSeq) nonce) (congrArg (·.meter.sigsLeft) nonce)
        (congrArg (·.meter.busy) nonce)
    · exact inv.of_still (congrArg (·.meter.log) index) (congrArg (·.meter.logSeq) index) (congrArg (·.meter.sigsLeft) index)
        (congrArg (·.meter.busy) index)

/-- Every command keeps the invariant: the meter's rows each by what they log and sign, and the others by leaving the meter alone. -/
theorem MeterInv.exec (i : Instr) : MeterInv (after s (exec i s)) := by
  have apart (other : isMeterRow i = false) (noWrite : ∀ c a n v, i ≠ .csrWrite c a n v) (noStart : i ≠ .coldStart) :
      MeterInv (after s (Machine.exec i s)) :=
    inv.of_meter (meter_of_keepsBut (exec_keeps i s) (meter_notMem_writesOf other noWrite noStart))
  cases i with
  | coldStart => exact inv.coldStart
  | csrWrite c a n v => exact inv.csrWrite c a n v
  | meterSign v => exact inv.meterSign v
  | meterSignDone => exact inv.meterSignDone
  | logCleared => exact inv.logCleared
  | meterInstUpdate | meterSave => exact inv.of_still rfl rfl rfl rfl
  | meterFault code => exact inv.meterFails code.toNat
  | sealOpen =>
    dsimp only [Machine.exec, execSealOpen, after]
    split
    · exact ((inv.of_still (t := { s with meter.sealIntact := false }) rfl rfl rfl rfl).meterLog 1 0).postM ..
    · exact inv
  | sealClose key =>
    dsimp only [Machine.exec, execSealClose, after]
    split
    · exact ((inv.of_still (t := { s with meter.sealIntact := true }) rfl rfl rfl rfl).meterLog 2 key.toNat).postM ..
    · exact inv
  | lrsUpdate version signed =>
    dsimp only [Machine.exec, execLrsUpdate, after]
    split
    · exact (inv.of_still (t := { s with meter.lrsVer := version }) rfl rfl rfl rfl).meterLog ..
    · exact inv
  | paramChange | ifUpdate =>
    dsimp only [Machine.exec, execParamChange, execIfUpdate, after]
    split
    · exact inv.meterLog ..
    · exact inv
  | _ => exact apart rfl (by simp) (by simp)

end Invariant

/-- Settles O5: a step runs the front command, which keeps the invariant. -/
theorem stepKeepsMeterInvariant : Obligations.StepKeepsMeterInvariant := by
  intro s t inv next
  rw [step] at next
  split at next
  · cases next
    exact inv
  next c rest _ =>
    have kept := MeterInv.exec (s := { s with pending := rest }) (inv.of_meter rfl) c
    rwa [next] at kept

/-- Settles O4: a reset log is empty, and all of 2^20 signatures are left. -/
theorem resetMeetsInvariants : Obligations.ResetMeetsInvariants :=
  ⟨⟨by decide, rfl, Nat.le_refl _, Nat.le_refl _, by simp [State.reset, Meter.initial]⟩, rfl, rfl⟩

end Sys2Proof.Machine
end

section
/-! PROOFS. Links (16 R543-R554): RDMA, the management port's answers, and the ports as they train and fall. -/

namespace Sys2Proof.Machine

/-! ## RDMA (16 R546, R547) -/

section Rdma

variable {s : State} {qp key n : Nat} {a : Dpa} {bs : List Byte} {f : Finding}

theorem requestTaken_iff : requestTaken s qp = true ↔ rdmaRuns s = true ∧ qp < 16384 := by
  simp [requestTaken]

/-- On another queue pair, or while RDMA does not run, no work request is taken. -/
theorem exec_rdma_notTaken (idle : rdmaRuns s = false ∨ 16384 ≤ qp) :
    exec (.rdmaWrite ⟨qp, key, f⟩ a bs) s = .next s ∧ exec (.rdmaRead ⟨qp, key, f⟩ a n) s = .next s ∧
      exec (.send qp bs) s = .next s := by
  have notTaken : requestTaken s qp = false := by
    rw [Bool.eq_false_iff, ne_eq, requestTaken_iff]
    rintro ⟨runs, pair⟩
    rcases idle with stopped | beyond
    · simp [stopped] at runs
    · omega
  simp [exec, execRdmaWrite, execRdmaRead, execSend, notTaken]

variable (taken : requestTaken s qp = true)
include taken

theorem exec_rdmaWrite_inside (inside : (registered s key a.toNat bs.length).any (·.write) = true) :
    exec (.rdmaWrite ⟨qp, key, f⟩ a bs) s = .next { (s.write 5 a.toNat bs f).1 with
      rsp := if (s.write 5 a.toNat bs f).2 then .none else .denied } := by
  simp [exec, execRdmaWrite, taken, inside]

theorem exec_rdmaWrite_outside (outside : (registered s key a.toNat bs.length).any (·.write) = false) :
    exec (.rdmaWrite ⟨qp, key, f⟩ a bs) s = .next { s with rsp := .denied } := by
  simp [exec, execRdmaWrite, taken, outside]

theorem exec_rdmaRead_inside (inside : (registered s key a.toNat n).isSome = true) :
    exec (.rdmaRead ⟨qp, key, f⟩ a n) s = .next { (s.read 5 a.toNat n f).1 with
      rsp := match (s.read 5 a.toNat n f).2 with
        | some bs => .bytes bs
        | none => .denied } := by
  simp only [exec, execRdmaRead, taken, inside, Bool.not_true, Bool.false_eq_true, if_false, if_true]
  rcases s.read 5 a.toNat n f with ⟨t, _ | bytes⟩ <;> rfl

theorem exec_rdmaRead_outside (outside : registered s key a.toNat n = none) :
    exec (.rdmaRead ⟨qp, key, f⟩ a n) s = .next { s with rsp := .denied } := by
  simp [exec, execRdmaRead, taken, outside]

theorem exec_send_taken : exec (.send qp bs) s = .next { s with links.received := s.links.received ++ [(qp, bs)] } := by
  simp [exec, execSend, taken]

end Rdma

/-- A registration that an access finds is one of the 4,096 and spans the access (R547). -/
theorem registered_spans {key a n : Nat} {g : Registration} {s : State} (found : registered s key a n = some g) :
    key < 4096 ∧ Tab.get none s.links.regs key = some g ∧ g.base ≤ a ∧ a + n ≤ g.base + g.len := by
  obtain ⟨listed, admitted⟩ := Option.filter_eq_some_iff.mp found
  simp only [regAdmitted, Bool.and_eq_true, decide_eq_true_eq] at admitted
  obtain ⟨⟨⟨bounded, -⟩, -⟩, span⟩ := admitted
  exact ⟨bounded, listed, span⟩

/-- Settles O23: a work request by whether it is taken, and what it reaches by the registration. -/
theorem rdmaStaysInItsRegistration : Obligations.RdmaStaysInItsRegistration := by
  refine ⟨fun qp key a bs n f s runs pair => ?_, fun key a n g s => registered_spans, fun qp key a bs n f s => exec_rdma_notTaken⟩
  have taken : requestTaken s qp = true := requestTaken_iff.mpr ⟨runs, pair⟩
  exact ⟨exec_rdmaWrite_inside taken, exec_rdmaWrite_outside taken, exec_rdmaRead_inside taken, exec_rdmaRead_outside taken,
    exec_send_taken taken⟩

/-! ## The management port (16 R555) -/

theorem exec_firmwareUpdate_noUnit {part : Byte} {one : Bool} {unit : BitVec 16} (image : List Byte) (s : State)
    (noUnit : unitsNamed part.toNat one unit.toNat = false) :
    exec (.firmwareUpdate part one unit image) s = .next { s with rsp := .value (BitVec.ofNat 64 stBadCmd) } := by
  simp [exec, execFirmwareUpdate, noUnit]

/-- The core's firmware runs from a restart on: it is stored and nothing is rolled out (14 R491). -/
theorem exec_firmwareUpdate_core {one : Bool} {unit : BitVec 16} (image : List Byte) (s : State)
    (named : unitsNamed 8 one unit.toNat = true) (running : s.warden.romOnly = false) :
    exec (.firmwareUpdate 8 one unit image) s = .next (if imageOk s 8 image then
      { storeImage s 8 image with rsp := .value (BitVec.ofNat 64 stOk) } else { s with rsp := .value (BitVec.ofNat 64 stDenied) }) := by
  by_cases signed : imageOk s 8 image = true
  · simp [exec, execFirmwareUpdate, named, running, signed]
  · simp [exec, execFirmwareUpdate, named, signed]

theorem takeRequest_keeps (s : State) (r : Request) (len : Nat) :
    keepsBut s (takeRequest s r len) [.rsp, .qau, .hbm, .warden, .links] := by
  simp [keepsBut]

/-- Settles O24: three rows are answers, a mailbox request by what the warden has in hand, an image by what it names. -/
theorem managementPortAnswers : Obligations.ManagementPortAnswers := by
  refine ⟨fun s => rfl, fun g s => rfl, fun s => rfl, fun type echo body s => ⟨fun rom => ?_, fun running inHand => ?_,
    fun running free => ⟨_, ?_, rfl, takeRequest_keeps ..⟩⟩, fun part one unit image s => ⟨exec_firmwareUpdate_noUnit image s,
    fun named running core => ?_⟩⟩
  · simp [exec, execMailbox, rom]
  · simp [exec, execMailbox, running, inHand]
  · simp [exec, execMailbox, running, free]
  · subst core
    exact exec_firmwareUpdate_core image s named running

/-! ## Posting leaves the ports (12 R408, 16 R553) -/

/-- The links but for the MSI-X vectors that a posted record raises. -/
def Links.noVectors (l : Links) : Links := { l with msixPend := [], msixSent := [] }

section Posts

variable (s : State) (q : Nat)

theorem write_links (r a : Nat) (bs : List Byte) (f : Finding) : (s.write r a bs f).1.links = s.links := by
  have frame := State.write_without s r a bs f [.hbm] (List.Subset.refl _)
  simpa [State.without] using congrArg State.links frame

theorem raiseVector_links (v : Nat) : (raiseVector s v).links.noVectors = s.links.noVectors := by
  unfold raiseVector
  dsimp only
  repeat' split
  all_goals rfl

theorem putRec_links (r : OutRec) : (putRec s q r).links = s.links := by
  unfold putRec
  extract_lets x s1 n s2
  have kept : s2.links = s.links := write_links s ..
  split <;> exact kept

theorem modQueue_links (f : Queue → Queue) : (s.modQueue q f).links = s.links := rfl

/-- The EVENT_LOST of m events is written, and their count cleared. -/
theorem putLost_links (r : OutRec) : (let t := putRec s q r; ({ t with qau.mLost := 0 } : State)).links = s.links :=
  putRec_links s q r

theorem writeNext_links : (writeNext s q).links = s.links := by
  unfold writeNext
  dsimp only
  split
  · rw [modQueue_links, putRec_links]
  split
  · exact putLost_links s q _
  split
  · rfl
  · rw [putRec_links, modQueue_links]
  · rw [putRec_links]
  split
  · rw [putRec_links, modQueue_links]
  · rw [putRec_links]

theorem writeAll_links (n : Nat) : (writeAll q n s).links = s.links := by
  induction n generalizing s with
  | zero => rfl
  | succ n ih =>
    rw [writeAll]
    split
    · rw [ih, writeNext_links]
    · rfl

theorem flushRing_links : (flushRing s q).links.noVectors = s.links.noVectors := by
  unfold flushRing
  dsimp only
  split
  · rw [writeAll_links]
  · split
    · rw [raiseVector_links, writeAll_links]
    · rw [writeAll_links]

theorem postM_links (code src queue e0 e1 e2 : Nat) : (postM s code src queue e0 e1 e2).links.noVectors = s.links.noVectors := by
  unfold postM flushM
  dsimp only
  split
  · rfl
  · split
    · rw [flushRing_links]
    · rfl

theorem linkEvent_links (src port up how : Nat) : (linkEvent s src port up how).links.noVectors = s.links.noVectors :=
  postM_links ..

theorem linkEvent_mgmtRate (src port up how : Nat) : (linkEvent s src port up how).links.mgmtRate = s.links.mgmtRate := by
  simpa [Links.noVectors] using congrArg Links.mgmtRate (linkEvent_links s src port up how)

theorem linkEvent_mgmtAddr (src port up how : Nat) : (linkEvent s src port up how).links.mgmtAddr = s.links.mgmtAddr := by
  simpa [Links.noVectors] using congrArg Links.mgmtAddr (linkEvent_links s src port up how)

theorem linkEvent_pcieUp (src port up how : Nat) : (linkEvent s src port up how).links.pcieUp = s.links.pcieUp := by
  simpa [Links.noVectors] using congrArg Links.pcieUp (linkEvent_links s src port up how)

theorem linkEvent_pcieWidth (src port up how : Nat) : (linkEvent s src port up how).links.pcieWidth = s.links.pcieWidth := by
  simpa [Links.noVectors] using congrArg Links.pcieWidth (linkEvent_links s src port up how)

theorem linkEvent_pcieGen (src port up how : Nat) : (linkEvent s src port up how).links.pcieGen = s.links.pcieGen := by
  simpa [Links.noVectors] using congrArg Links.pcieGen (linkEvent_links s src port up how)

theorem noteStart_links : (noteStart s).links.noVectors = s.links.noVectors := by
  unfold noteStart
  split
  · exact postM_links ..
  · rfl

end Posts

/-- What the ports hold is none of the vectors. -/
theorem netPort_of_links {s t : State} (same : t.links.noVectors = s.links.noVectors) (p : Nat) : t.netPort p = s.netPort p := by
  have ports : t.links.noVectors.ports = s.links.noVectors.ports := by rw [same]
  exact congrArg (fun ports => Tab.get NetPort.initial ports p) ports

/-- A port that has been tried is not what an unlisted port reads as, so it is listed and reads back. -/
theorem netPort_modNetPort {s : State} {p : Nat} {f : NetPort → NetPort} (tried : (f (s.netPort p)).tried = true) :
    (s.modNetPort p f).netPort p = f (s.netPort p) := by
  have listed : f (s.netPort p) ≠ NetPort.initial := fun h => Bool.noConfusion (tried.symm.trans (congrArg NetPort.tried h))
  exact (Tab.get_set_of_ne_default listed p p s.links.ports).trans (if_pos rfl)

/-! ## Ports (16 R543, R549, R552, R554) -/

section Written

variable {s : State} (up : awake s) (p : Fin 2) (v : W64)
include up

theorem exec_netPortWrite : exec (.netPortWrite p v) s = .next (if !modeOk (bits v.toNat 0 2) (bits v.toNat 8 2) then s
    else if bits v.toNat 0 2 = (s.netPort p.val).rate && bits v.toNat 8 2 = (s.netPort p.val).width
      && bit v.toNat 16 == (s.netPort p.val).macsec then s
    else noteStart (s.modNetPort p.val (fun y => { y with
      rate := bits v.toNat 0 2, width := bits v.toNat 8 2, macsec := bit v.toNat 16, up := 0, tried := false }))) := by
  simp only [exec, execNetPortWrite, blockOff_of_awake up, Bool.false_or]

/-- The function's state after its exposed queues are disabled and its vectors cleared (R552). -/
theorem exec_functionLevelReset (k : FlrKind) : exec (.functionLevelReset k) s =
    .next (let u := { (exposed s).foldl disableQueue s with
        links.flrs := satAdd 16 ((exposed s).foldl disableQueue s).links.flrs 1, links.msixOn := [] }
      if k = .perst then pcieDown u else u) := by
  simp only [exec, execFunctionLevelReset, blockOff_of_awake up, Bool.false_eq_true, if_false]

end Written

section Trained

variable {s : State} {r : LinkResult} (came : r.outcome = 0)
include came

theorem exec_linkTrained_port {p : Fin 2} (awake : s.pwr.state < 3) (runs : unitStopped s (16 + p.val) = false)
    (configured : (s.netPort p.val).rate ≠ 3) (cool : r.modPower.toNat ≤ 30) :
    let came : Byte := BitVec.ofNat 8 (r.up.toNat % 2 ^ interfaces (s.netPort p.val).width)
    exec (.linkTrained (Fin.castLE (by decide) p) r) s = .next (noteStart (linkEvent (s.modNetPort p.val (fun y => { y with
      up := came, tried := true, media := r.media.toNat, modPower := r.modPower })) srcNet p.val came.toNat (if came = 0 then 1 else 0))) := by
  have data : p.val ≠ 2 ∧ p.val ≠ 3 := by omega
  simp only [exec, execLinkTrained, Fin.val_castLE, runs, data, awake.not_ge, configured, portTrained, cool.not_gt, came, Bool.false_and,
    Bool.false_or, Bool.false_eq_true, if_false, decide_false, Fin.val_zero, ne_eq, not_true_eq_false]

theorem exec_linkTrained_mgmt (runs : unitStopped s 18 = false) (low : 1 ≤ r.rate.toNat) (high : r.rate.toNat ≤ 3)
    (vigil : s.pwr.state = 4 → r.rate.toNat = 1) : exec (.linkTrained 2 r) s = .next (linkEvent { s.draw.2 with
      links.mgmtRate := r.rate.toNat
      links.mgmtAddr := if s.links.ipv4 = 0 then BitVec.ofNat 32 s.draw.1 else s.links.ipv4 } srcMgmt 2 1 0) := by
  have allowed : (decide (1 ≤ r.rate.toNat ∧ r.rate.toNat ≤ 3) && (decide (s.pwr.state ≠ 4) || decide (r.rate.toNat = 1))) = true := by
    simp only [low, high, and_self, decide_true, Bool.true_and, Bool.or_eq_true, decide_eq_true_eq]
    exact (Decidable.em (s.pwr.state = 4)).symm.imp_right vigil
  simp only [exec, execLinkTrained, show ((2 : Fin 4) : Nat) = 2 from rfl, runs, mgmtTrained, came, allowed, Bool.false_and,
    Bool.false_eq_true, if_false, if_true, Fin.val_zero, ne_eq, not_true_eq_false]
  rfl

theorem exec_linkTrained_pcie (awake : s.pwr.state < 3) (on : s.links.pcieOn = true) (low : 4 ≤ r.rate.toNat)
    (high : r.rate.toNat ≤ 6 - s.links.maxGen) (wide : r.lanes.toNat ∈ [1, 4, 8, 16]) : exec (.linkTrained 3 r) s =
      .next (linkEvent { s with links.pcieUp := true, links.pcieWidth := r.lanes.toNat, links.pcieGen := r.rate.toNat } srcPcie 3 1 0) := by
  have allowed : (decide (4 ≤ r.rate.toNat ∧ r.rate.toNat ≤ 6 - s.links.maxGen) && [1, 4, 8, 16].contains r.lanes.toNat) = true := by
    simp [low, high, wide]
  simp only [exec, execLinkTrained, show ((3 : Fin 4) : Nat) = 3 from rfl, Nat.lt_irrefl, decide_false, Bool.and_false, awake.not_ge,
    pcieTrained, on, came, allowed, Bool.not_true, Bool.false_eq_true, if_false, if_true, Fin.val_zero, ne_eq, not_true_eq_false,
    show (3 : Nat) ≠ 2 by decide]

end Trained

/-- Settles O22: each row by its own next state; the events posted beside leave the ports and links. -/
theorem portsTrainAndFall : Obligations.PortsTrainAndFall := by
  refine ⟨fun p v s up => ?written, fun s up => ?reset, fun p r s low runs configured came cool => ?trained, fun p s up => ?lost,
    fun r s runs came low high vigil => ?mgmt, fun r s awake on came low high wide => ?pcie, fun s => ⟨fun up => ?mgmtDown,
      fun up => ?pcieLost, fun down => ?_, fun down => ?_⟩⟩
  case written =>
    rw [exec_netPortWrite up]
    refine ⟨fun bad => ?_, fun rate width mac => ?_, fun ok other => ?_⟩
    · simp [bad]
    · simp [rate, width, mac]
    · have differs : (decide (bits v.toNat 0 2 = (s.netPort p.val).rate) && decide (bits v.toNat 8 2 = (s.netPort p.val).width)
          && bit v.toNat 16 == (s.netPort p.val).macsec) = false := by
        rcases other with h | h | h <;> simp [h]
      simp only [ok, differs, Bool.not_true, Bool.false_eq_true, if_false]
  case reset =>
    refine ⟨?_, ?_, ?_, ?_⟩
    · simp [keepsBut]
    all_goals exact exec_functionLevelReset up _
  case trained =>
    refine ⟨_, exec_linkTrained_port came low runs configured cool, ?_, ?_, ?_⟩
    · rw [netPort_of_links ((noteStart_links _).trans (linkEvent_links ..)), netPort_modNetPort rfl]
    · rw [netPort_of_links ((noteStart_links _).trans (linkEvent_links ..)), netPort_modNetPort rfl]
    · simp [keepsBut]
  case lost =>
    have data : p.val ≠ 2 ∧ p.val ≠ 3 := by omega
    refine ⟨noteStart (linkEvent (s.modNetPort p.val (fun y => { y with up := 0, tried := true })) srcNet p.val 0 1), ?_, ?_, ?_⟩
    · simp only [exec, execPortDown, Fin.val_castLE, data, up, if_false]
    · rw [netPort_of_links ((noteStart_links _).trans (linkEvent_links ..)), netPort_modNetPort rfl]
    · simp [keepsBut]
  case mgmt =>
    refine ⟨_, exec_linkTrained_mgmt came runs low high vigil, ?_, fun set => ?_, ?_⟩
    · exact linkEvent_mgmtRate ..
    · exact (linkEvent_mgmtAddr ..).trans (if_neg set)
    · simp [keepsBut]
  case pcie =>
    refine ⟨_, exec_linkTrained_pcie came awake on low high wide, linkEvent_pcieUp ..,
      linkEvent_pcieWidth .., linkEvent_pcieGen .., ?_⟩
    simp [keepsBut]
  case mgmtDown =>
    refine ⟨linkEvent { s with links.mgmtRate := 0, links.mgmtAddr := 0 } srcMgmt 2 0 1, ?_,
      linkEvent_mgmtRate .., linkEvent_mgmtAddr .., ?_⟩
    · simp [exec, execPortDown, up]
    · simp [keepsBut]
  case pcieLost =>
    refine ⟨linkEvent (pcieDown s) srcPcie 3 0 1, ?_, linkEvent_pcieUp ..,
      linkEvent_pcieWidth .., linkEvent_pcieGen .., ?_⟩
    · simp [exec, execPortDown, up]
    · simp [keepsBut]
  · simp [exec, execPortDown, down]
  · simp [exec, execPortDown, down]

end Sys2Proof.Machine
end

section
/-! PROOFS. The warden's mailbox (13 R441-R458, 14 R509): a request by the checks that it passes, and the tamper responses (R477). -/

namespace Sys2Proof.Machine

/-! ## A request in hand (13 R442) -/

/-- A request of the type is in hand, is answered not yet, and no hand-over of Syeno runs. -/
structure InHand (s : State) (r : Request) (type : Nat) : Prop where
  request : s.warden.request = some r
  typed : r.type = type
  formed : r.bad = none
  running : s.warden.handover = false

/-- No request of the type is taken up: none is in hand, a hand-over runs, or what is in hand is of another type or answered. -/
def Idle (s : State) (type : Nat) : Prop :=
  s.warden.request = none ∨ s.warden.handover = true ∨ ∃ r, s.warden.request = some r ∧ (r.type ≠ type ∨ r.bad ≠ none)

/-- What a run comes to is answered; the request waits where it comes to nothing. -/
def answered (s : State) : Option (State × Nat × List Byte) → State
  | none => s
  | some (t, result, body) => reply t result body

section Run

variable {s : State} {type : Nat} {run : MbRun}

theorem runRequest_idle (idle : Idle s type) : runRequest s type run = s := by
  unfold runRequest
  split
  · rfl
  next r inHand =>
    rw [if_pos]
    rcases idle with none | handover | ⟨r', inHand', other | bad⟩
    · simp [none] at inHand
    · simp [handover]
    · cases inHand.symm.trans inHand'
      simp [other]
    · cases inHand.symm.trans inHand'
      simp [Option.isSome_iff_ne_none, bad]

theorem runRequest_inHand {r : Request} (inHand : InHand s r type) : runRequest s type run = answered s (run s r.body) := by
  obtain ⟨request, typed, formed, running⟩ := inHand
  simp only [runRequest, request, typed, formed, running, ne_eq, not_true_eq_false, decide_false, Bool.or_self, Option.isSome_none,
    Bool.false_eq_true, if_false]
  rcases run s r.body with _ | ⟨t, result, body⟩ <;> rfl

end Run

/-! ## Identity, attestation, challenges, the audit log and EXTEND (13 R450-R453) -/

section Answers

variable {s : State} {r : Request}

theorem exec_getIdentity (inHand : InHand s r 0x01) : exec .getIdentity s =
    .next (if r.body.isEmpty then reply s stOk (idKey ++ leBytes 8 modId ++ Config.identityCert) else reply s stBadCmd []) := by
  rw [exec, execGetIdentity, runRequest_inHand inHand]
  split <;> rfl

theorem exec_attest (inHand : InHand s r 0x02) : exec .attest s = .next (if r.body.length ≠ 32 then reply s stBadCmd [] else
    if s.warden.erased then reply s stFault [] else
      let t := (takeIndex s).2
      let report := reportBody t r.body s.warden.sigNext
      reply t stOk (report ++ padTo 5605 (Config.xmssSign (padTo 96 s.warden.idSeed) s.warden.sigNext report))) := by
  rw [exec, execAttest, runRequest_inHand inHand]
  split
  · rfl
  split <;> rfl

theorem exec_challenge (inHand : InHand s r 0x03) : exec .challenge s = .next (if !r.body.isEmpty then reply s stBadCmd [] else
    let c := padTo 32 (Config.drbg s.warden.draws)
    reply { s with
      warden.draws := s.warden.draws + 1
      warden.challenges := s.warden.challenges ++ [(BitVec.ofNat 256 (ofLe c), s.secs)] } stOk c) := by
  rw [exec, execChallenge, runRequest_inHand inHand]
  split <;> rfl

theorem exec_auditRead (inHand : InHand s r 0x04) : exec .auditRead s = .next (if r.body.length ≠ 8 then reply s stBadCmd [] else
    reply s stOk (((s.warden.audit.filter (fun e => decide (ofLe r.body ≤ e.seq))).take 1024).flatMap AuditEnt.bytes)) := by
  rw [exec, execAuditRead, runRequest_inHand inHand]
  split <;> rfl

theorem exec_extend (inHand : InHand s r 0x40) : exec .extend s =
    .next (if r.body.length ≠ 36 ∨ le r.body 0 4 < 10 ∨ 13 < le r.body 0 4 then reply s stBadCmd [] else
      let t := extendMr s (le r.body 0 4) (BitVec.ofNat 256 (le r.body 4 32))
      reply (logged t 0x40 r.body) stOk (leBytes 32 (mrAt t (le r.body 0 4)).toNat)) := by
  rw [exec, execExtend, runRequest_inHand inHand]
  dsimp only
  split <;> rfl

end Answers

/-- DEBUG_UNLOCK is taken up under the same conditions. -/
theorem exec_debugUnlock_idle {s : State} (idle : Idle s 0x30) : exec .debugUnlock s = .next s := by
  rw [exec, execDebugUnlock]
  split
  · rfl
  next r inHand =>
    rw [if_pos]
    rcases idle with none | handover | ⟨r', inHand', other | bad⟩
    · simp [none] at inHand
    · simp [handover]
    · cases inHand.symm.trans inHand'
      simp [other]
    · cases inHand.symm.trans inHand'
      simp [Option.isSome_iff_ne_none, bad]

/-- Settles O52: a row waits while its request is not in hand, and else answers what its run comes to. -/
theorem wardenAnswers : Obligations.WardenAnswers := by
  refine fun s => ⟨fun e listed idle => ?waits, fun r request formed running => ⟨fun typed => ?identity, fun typed => ?attest,
    fun typed => ?challenge, fun typed => ?audit, fun typed => ?extend⟩⟩
  case waits =>
    simp only [List.mem_cons, List.not_mem_nil, or_false] at listed
    rcases listed with rfl | rfl | rfl | rfl | rfl | rfl | rfl | rfl | rfl | rfl | rfl | rfl
    case inr.inr.inr.inr.inr.inr.inr.inr.inr.inl => exact exec_debugUnlock_idle idle
    all_goals exact congrArg _ (runRequest_idle idle)
  case identity =>
    rw [exec_getIdentity ⟨request, typed, formed, running⟩]
    exact ⟨fun body => by simp [body], fun empty => by simp [empty]⟩
  case attest =>
    rw [exec_attest ⟨request, typed, formed, running⟩]
    refine ⟨fun long => by rw [if_pos long], fun nonce erased => ?_, fun nonce kept => ?_⟩
    · rw [if_neg (not_not.mpr nonce), if_pos erased]
    · rw [if_neg (not_not.mpr nonce), kept, if_neg Bool.false_ne_true]
      rfl
  case challenge =>
    rw [exec_challenge ⟨request, typed, formed, running⟩]
    exact ⟨fun body => by simp [body], fun empty => by simp [empty]⟩
  case audit =>
    rw [exec_auditRead ⟨request, typed, formed, running⟩]
    exact ⟨fun other => by rw [if_pos other], fun number => by rw [if_neg (not_not.mpr number)]⟩
  case extend =>
    rw [exec_extend ⟨request, typed, formed, running⟩]
    refine ⟨fun bad => by rw [if_pos bad], fun long low high => ?_⟩
    rw [if_neg (by omega)]
    rfl

/-! ## Ownership, policy and the calendar (13 R443-R446, 14 R509) -/

section Owner

variable {s : State} {r : Request}

theorem exec_claim (inHand : InHand s r 0x10) : exec .claim s = .next (answered s (runClaim s r.body)) :=
  congrArg _ (runRequest_inHand inHand)

theorem exec_transfer (inHand : InHand s r 0x11) : exec .transfer s = .next (answered s (runTransfer s r.body)) :=
  congrArg _ (runRequest_inHand inHand)

theorem exec_policy (inHand : InHand s r 0x12) : exec .policy s = .next (answered s (runPolicy s r.body)) :=
  congrArg _ (runRequest_inHand inHand)

theorem exec_time (inHand : InHand s r 0x14) : exec .time s = .next (answered s (runTime s r.body)) :=
  congrArg _ (runRequest_inHand inHand)

theorem exec_sessionOpen (inHand : InHand s r 0x20) : exec .sessionOpen s = .next (answered s (runSessionOpen s r.body)) :=
  congrArg _ (runRequest_inHand inHand)

theorem exec_debugEnd (inHand : InHand s r 0x31) : exec .debugEnd s =
    .next (if r.body.isEmpty then reply (logged (endDebug s 0) 0x31 r.body) stOk [] else reply s stBadCmd []) := by
  rw [exec, execDebugEnd, runRequest_inHand inHand]
  split <;> rfl

/-- DEBUG_UNLOCK goes on, or begins, where its run comes to nothing. -/
theorem exec_debugUnlock (inHand : InHand s r 0x30) : exec .debugUnlock s = .next (match runDebugUnlock s r.body with
    | some (t, result, body) => reply t result body
    | none => if unlocking s then beginScrub s else beginUnlock s r.body) := by
  obtain ⟨request, typed, formed, running⟩ := inHand
  simp only [exec, execDebugUnlock, request, typed, formed, running, ne_eq, not_true_eq_false, decide_false, Bool.or_self,
    Option.isSome_none, Bool.false_eq_true, if_false] <;> rfl

end Owner

section Runs

variable {s : State} {b : List Byte}

theorem runClaim_short (short : b.length < 68) : runClaim s b = mbNo s stBadCmd := if_pos short

/-- A CLAIM with a ticket, by the challenge that it uses and by what the ticket and the module are (13 R443). -/
theorem runClaim_full (full : 68 ≤ b.length) : answered s (runClaim s b) = match Config.claimTicket (b.drop 68) with
    | none => reply s stDenied []
    | some (ident, digest, sig) => match usesChallenge s (b.take 68) [] sig with
      | none => reply s stDenied []
      | some c =>
        let t := dropChallenge s c
        if s.warden.owner.isSome = true ∨ s.warden.erased = true ∨ ident.toNat ≠ moduleIdent ∨ digest ≠ Config.shake256 (b.take 68) then
          reply t stDenied []
        else reply (logged { t with
          warden.draws := t.warden.draws + 1, warden.owner := some (b.take 68), warden.ownerEpoch := 1
          warden.salt := ofLe (padTo 32 (Config.drbg t.warden.draws)) } 0x10 b) stOk [] := by
  simp only [runClaim, full.not_gt, if_false]
  rcases Config.claimTicket (b.drop 68) with _ | ⟨ident, digest, sig⟩
  · rfl
  · dsimp only
    rcases usesChallenge s (b.take 68) [] sig with _ | c
    · rfl
    · have check : ((dropChallenge s c).warden.owner.isSome || (dropChallenge s c).warden.erased || decide (ident.toNat ≠ moduleIdent)
          || decide (digest ≠ Config.shake256 (b.take 68))) = true ↔ (s.warden.owner.isSome = true ∨ s.warden.erased = true ∨
            ident.toNat ≠ moduleIdent ∨ digest ≠ Config.shake256 (b.take 68)) := by
        simp only [Bool.or_eq_true, decide_eq_true_eq, or_assoc]
        rfl
      dsimp only
      by_cases refused : s.warden.owner.isSome = true ∨ s.warden.erased = true ∨
          ident.toNat ≠ moduleIdent ∨ digest ≠ Config.shake256 (b.take 68)
      · rw [if_pos (check.mpr refused), if_pos refused]
        rfl
      · rw [if_neg (mt check.mp refused), if_neg refused]
        rfl

theorem runTransfer_short (short : b.length < 68) : runTransfer s b = mbNo s stBadCmd := if_pos short

theorem runTransfer_unowned (full : 68 ≤ b.length) (unowned : s.warden.owner = none) : runTransfer s b = mbNo s stDenied := by
  simp only [runTransfer, full.not_gt, unowned, if_false]

/-- A TRANSFER of an owned module, by the challenge that it uses and by whether CSNs allow the sealed collections' end (13 R444). -/
theorem runTransfer_owned {k : List Byte} (full : 68 ≤ b.length) (owned : s.warden.owner = some k) :
    answered s (runTransfer s b) = match usesChallenge s k [] (b.drop 68) with
      | none => reply s stDenied []
      | some c => match destroySealed s (sealedCids s) with
        | none => s
        | some t =>
          let t := dropChallenge t c
          reply (logged (endSessions { t with
            warden.draws := t.warden.draws + 1, warden.owner := some (b.take 68), warden.ownerEpoch := t.warden.ownerEpoch + 1
            warden.salt := ofLe (padTo 32 (Config.drbg t.warden.draws)), warden.policy := none, warden.nextPolicy := none } 1
            (fun _ => true)) 0x11 b) stOk [] := by
  simp only [runTransfer, full.not_gt, owned, if_false]
  rcases usesChallenge s k [] (b.drop 68) with _ | c
  · rfl
  · rcases destroySealed s (sealedCids s) with _ | t <;> rfl

theorem runPolicy_unformed (unformed : policyFormed b = false) : runPolicy s b = mbNo s stBadCmd := by
  simp only [runPolicy, unformed, Bool.not_false, if_true]

theorem runPolicy_formed (formed : policyFormed b = true) : answered s (runPolicy s b) = if policyAuthentic s b then
    (if regionsOk s (policyOf b).regions then reply (logged (acceptPolicy s (policyOf b)) 0x12 b) stOk [] else reply s stBadCmd [])
    else reply s stDenied [] := by
  simp only [runPolicy, formed, Bool.not_true, Bool.false_eq_true, if_false]
  cases policyAuthentic s b
  · rfl
  · cases regionsOk s (policyOf b).regions <;> rfl

/-- What a TIME message must be beside signed (14 R509). -/
structure TimeFits (s : State) (b : List Byte) : Prop where
  long : 64 ≤ b.length
  magic : le b 0 4 = 0x454D4954
  zero : zeroAt b 36 28 = true
  boot : le b 16 8 = s.life.boot
  module : le b 8 8 = 0 ∨ le b 8 8 = moduleIdent
  newer : ∀ t, s.warden.tseq = some t → t < le b 4 4

theorem tseq_newer_iff : s.warden.tseq.all (fun t => decide (t < le b 4 4)) = true ↔
    ∀ t, s.warden.tseq = some t → t < le b 4 4 := by
  cases s.warden.tseq <;> simp

theorem runTime_fits (fits : TimeFits s b) : answered s (runTime s b) = if ownerSigned s (b.take 64) (b.drop 64) then
    reply (postM { logged s 0x14 b with
      warden.calendar := some ⟨le b 24 8, le b 32 4, s.secs⟩, warden.tseq := some (le b 4 4) } 0x0120 srcWarden noQueue
      (le b 24 8) (le b 32 4) 0) stOk []
    else reply s stDenied [] := by
  obtain ⟨long, magic, zero, boot, module, newer⟩ := fits
  have rest : (decide (le b 8 8 = 0) || decide (le b 8 8 = moduleIdent)) = true := by simpa using module
  simp only [runTime, long, magic, zero, boot, rest, tseq_newer_iff.mpr newer, decide_true, Bool.true_and, Bool.and_true]
  split <;> rfl

theorem runTime_misfit (misfit : ¬ TimeFits s b) : runTime s b = mbNo s stDenied := by
  unfold runTime
  rw [if_neg]
  intro fits
  simp only [Bool.and_eq_true, Bool.or_eq_true, decide_eq_true_eq] at fits
  obtain ⟨⟨⟨⟨⟨⟨long, magic⟩, zero⟩, -⟩, boot⟩, module⟩, newer⟩ := fits
  exact misfit ⟨long, magic, zero, boot, module, tseq_newer_iff.mp newer⟩

theorem runSessionOpen_unformed (unformed : openParts b = none) : runSessionOpen s b = mbNo s stBadCmd := by
  simp only [runSessionOpen, unformed]

section Formed

variable {ct box : List Byte} {q : Nat} (formed : openParts b = some (ct, q, box))
include formed

theorem runSessionOpen_debug (debug : s.warden.debugOpen = true ∨ unlocking s = true) : runSessionOpen s b = mbNo s stBusy := by
  rcases debug with opened | begun
  · simp only [runSessionOpen, formed, opened, Bool.true_or, if_true]
  · simp only [runSessionOpen, formed, begun, Bool.or_true, if_true]

theorem runSessionOpen_formed (closed : s.warden.debugOpen = false) (quiet : unlocking s = false) :
    answered s (runSessionOpen s b) =
      let ss := Config.kemDecaps s.warden.kem ct
      match (Config.gcmOpen (padTo 32 (Config.kmac256 ss (ascii "OPEN") [] 32)) (zeros 12) [] box).bind boxParts with
      | none => reply s stDenied []
      | some (g, k, nonce, sig) => match openSession s ct q ss g k nonce sig with
        | none => s
        | some (t, st, out) => reply t st out := by
  simp only [runSessionOpen, formed, closed, quiet, Bool.or_self, Bool.false_eq_true, if_false]
  rcases (Config.gcmOpen _ _ _ box).bind boxParts with _ | ⟨g, k, nonce, sig⟩
  · rfl
  · dsimp only
    rcases openSession s ct q (Config.kemDecaps s.warden.kem ct) g k nonce sig with _ | ⟨t, st, out⟩ <;> rfl

end Formed

end Runs

/-! ## Debug (13 R474-R476) -/

section Debug

variable {s : State} {r : Request} (inHand : InHand s r 0x30)
include inHand

theorem exec_debugUnlock_length (bad : r.body.length < 4 ∨ le r.body 0 4 = 0 ∨ 86400 < le r.body 0 4) :
    exec .debugUnlock s = .next (reply s stBadCmd []) := by
  have secs : r.body.length < 4 ∨ le r.body 0 4 < 1 ∨ 86400 < le r.body 0 4 := by omega
  rw [exec_debugUnlock inHand, show runDebugUnlock s r.body = mbNo s stBadCmd from if_pos secs]
  rfl

variable (long : 4 ≤ r.body.length) (low : 1 ≤ le r.body 0 4) (high : le r.body 0 4 ≤ 86400)
include long low high

theorem exec_debugUnlock_unowned (quiet : unlocking s = false) (unowned : s.warden.owner = none) :
    exec .debugUnlock s = .next (reply s stDenied []) := by
  simp only [exec_debugUnlock inHand, runDebugUnlock, long.not_gt, low.not_gt, high.not_gt, quiet, unowned, or_self, mbNo,
    Bool.false_eq_true, if_false]

/-- An unlock that is authorised begins by ending the sealed sessions (step 1). -/
theorem exec_debugUnlock_begins {k : List Byte} (quiet : unlocking s = false) (owned : s.warden.owner = some k)
    (closed : s.warden.debugOpen = false) : exec .debugUnlock s = match usesChallenge s k (r.body.take 4) (r.body.drop 4) with
      | none => .next (reply s stDenied [])
      | some c => if policyFlag s 0 then
          .next (endSessions { dropChallenge s c with warden.lease := le r.body 0 4 } 3 (fun _ => true))
        else .next (reply (dropChallenge s c) stDenied []) := by
  simp only [exec_debugUnlock inHand, runDebugUnlock, beginUnlock, long.not_gt, low.not_gt, high.not_gt, quiet, owned, closed, or_self,
    mbNo, Option.bind_some, Bool.false_eq_true, if_false]
  rcases usesChallenge s k (r.body.take 4) (r.body.drop 4) with _ | c
  · rfl
  · cases policyFlag s 0 <;> rfl

variable (begun : unlocking s = true) (drained : sessions s = [])
include begun drained

/-- Once the sealed queues have drained the keys are cleared (step 3). -/
theorem exec_debugUnlock_scrubs (fresh : s.warden.scrub = false) :
    exec .debugUnlock s = .next { clearKeys s with warden.scrub := true } := by
  simp only [exec_debugUnlock inHand, runDebugUnlock, beginScrub, long.not_gt, low.not_gt, high.not_gt, begun, drained, fresh, or_self,
    List.isEmpty_nil, Bool.not_true, Bool.not_false, Bool.false_eq_true, if_false, if_true]

/-- DEBUG opens at the end of the scrub (steps 4 to 6). -/
theorem exec_debugUnlock_opens (scrubbed : s.warden.scrub = true) : exec .debugUnlock s =
    .next (reply (logged (openDebug (dropSealedCtxs (scrubSealed s)) (le r.body 0 4)) 0x30 r.body) stOk []) := by
  simp only [exec_debugUnlock inHand, runDebugUnlock, long.not_gt, low.not_gt, high.not_gt, begun, drained, scrubbed, or_self, mbOk,
    List.isEmpty_nil, Bool.not_true, Bool.false_eq_true, if_false, if_true]

end Debug

section Expiry

variable {s : State}

theorem exec_debugLeaseExpiry_runs (runs : s.warden.debugOpen = false ∨ s.secs < s.warden.lease) :
    exec .debugLeaseExpiry s = .next s := by
  rcases runs with closed | early
  · simp [exec, execDebugLeaseExpiry, closed]
  · simp [exec, execDebugLeaseExpiry, early.not_ge]

theorem exec_debugLeaseExpiry_over (opened : s.warden.debugOpen = true) (past : s.warden.lease ≤ s.secs) :
    exec .debugLeaseExpiry s = .next (endDebug s 1) := by
  simp [exec, execDebugLeaseExpiry, opened, past]

variable {k : Fin 4095} {x : Session} {w u : Nat} (session : s.session k.val = some x) (now : wallNow s = some (w, u))
include session now

theorem exec_grantExpiry_good (good : x.notAfter = 2 ^ 64 - 1 ∨ w + u ≤ x.notAfter ∨ x.ending.isSome = true) :
    exec (.grantExpiry k) s = .next s := by
  simp only [exec, execGrantExpiry, session, now]
  rcases good with unbounded | early | ending
  · simp [unbounded]
  · simp [early.not_gt]
  · simp [Option.isNone_eq_false_iff.mpr ending]

theorem exec_grantExpiry_over (bounded : x.notAfter ≠ 2 ^ 64 - 1) (past : x.notAfter < w + u) (ongoing : x.ending = none) :
    exec (.grantExpiry k) s = .next (disableSealed s k.val 2) := by
  simp only [exec, execGrantExpiry, session, now, bounded, past, ongoing, ne_eq, not_false_eq_true, and_self, decide_true,
    Option.isNone_none, Bool.and_self, if_true]

end Expiry

/-- Settles O53: each request by the checks that it passes, and the two expiries by the time. -/
theorem ownerRequestsTakeEffect : Obligations.OwnerRequestsTakeEffect := by
  refine ⟨fun s r request formed running => ⟨fun typed => ?claim, fun typed => ?transfer, fun typed => ?policy, fun typed => ?time,
    fun typed => ?session, fun typed => ?unlock, fun typed => ?done⟩, fun s => ⟨exec_debugLeaseExpiry_runs, exec_debugLeaseExpiry_over,
    fun k x w u session now => ⟨exec_grantExpiry_good session now, exec_grantExpiry_over session now⟩⟩⟩
  case claim =>
    rw [exec_claim ⟨request, typed, formed, running⟩]
    refine ⟨fun short => by rw [runClaim_short short]; rfl, fun full => ?_⟩
    rw [runClaim_full full]
    rcases Config.claimTicket (r.body.drop 68) with _ | ⟨ident, digest, sig⟩
    · rfl
    · dsimp only
      rcases usesChallenge s (r.body.take 68) [] sig with _ | c
      · rfl
      · exact apply_ite _ _ _ _
  case transfer =>
    rw [exec_transfer ⟨request, typed, formed, running⟩]
    refine ⟨fun short => by rw [runTransfer_short short]; rfl, fun full unowned => by rw [runTransfer_unowned full unowned]; rfl,
      fun k full owned => ?_⟩
    rw [runTransfer_owned full owned]
    rcases usesChallenge s k [] (r.body.drop 68) with _ | c
    · rfl
    · dsimp only
      rcases destroySealed s (sealedCids s) with _ | t <;> rfl
  case policy =>
    rw [exec_policy ⟨request, typed, formed, running⟩]
    refine ⟨fun bad => by rw [runPolicy_unformed bad]; rfl, fun good => ?_⟩
    rw [runPolicy_formed good]
    split
    · exact apply_ite _ _ _ _
    · rfl
  case time =>
    rw [exec_time ⟨request, typed, formed, running⟩]
    refine ⟨fun misfit => ?_, fun long magic zero boot module newer => ?_⟩
    · rw [runTime_misfit]
      · rfl
      · rintro ⟨long, magic, zero, boot, module, newer⟩
        rcases misfit with short | other | stray | old | ⟨notAll, notThis⟩ | ⟨t, seq, stale⟩
        · omega
        · exact other magic
        · simp [zero] at stray
        · exact old boot
        · exact module.elim notAll notThis
        · exact stale.not_gt (newer t seq)
    · rw [runTime_fits ⟨long, magic, zero, boot, module, newer⟩]
      exact apply_ite _ _ _ _
  case session =>
    rw [exec_sessionOpen ⟨request, typed, formed, running⟩]
    refine ⟨fun bad => by rw [runSessionOpen_unformed bad]; rfl, fun ct q box parts =>
      ⟨fun debug => by rw [runSessionOpen_debug parts debug]; rfl, fun closed quiet => ?_⟩⟩
    rw [runSessionOpen_formed parts closed quiet]
    dsimp only
    rcases (Config.gcmOpen _ _ _ box).bind boxParts with _ | ⟨g, k, nonce, sig⟩
    · rfl
    · dsimp only
      rcases openSession s ct q (Config.kemDecaps s.warden.kem ct) g k nonce sig with _ | ⟨t, st, out⟩ <;> rfl
  case unlock =>
    have inHand : InHand s r 0x30 := ⟨request, typed, formed, running⟩
    exact ⟨exec_debugUnlock_length inHand, fun long low high => ⟨exec_debugUnlock_unowned inHand long low high,
      fun k => exec_debugUnlock_begins inHand long low high, fun begun drained =>
        ⟨exec_debugUnlock_scrubs inHand long low high begun drained, exec_debugUnlock_opens inHand long low high begun drained⟩⟩⟩
  case done =>
    rw [exec_debugEnd ⟨request, typed, formed, running⟩]
    exact ⟨fun body => by simp [body], fun empty => by simp [empty]⟩

/-! ## Tamper responses (13 R477) -/

/-- Settles O54: the level of the detector, and what each level adds. -/
theorem tamperResponses : Obligations.TamperResponses := by
  refine fun d s => ⟨fun low => ?_, fun middle => ?_, fun high => ?_⟩
  · have level : tamperLevel d.val = 1 := by simp [tamperLevel, low]
    simp [exec, execTamper, level]
  · have level : tamperLevel d.val = 2 := by
      have : ¬ d.val < 3 := by omega
      have : d.val < 5 := by omega
      simp [tamperLevel, *]
    simp only [exec, execTamper, level, tamperTwo]
    rfl
  · have level : tamperLevel d.val = 3 := by simp [tamperLevel, high]
    refine ⟨tamperThree (tamperTwo (tamperOne s 3 5)), ?_, rfl, rfl, rfl, rfl, rfl, rfl, rfl, rfl, rfl⟩
    simp only [exec, execTamper, level, Nat.reduceLeDiff, if_true]
    rw [high]

end Sys2Proof.Machine
end

section
/-! PROOFS. The activities of maintenance (14 R482-R487, R497-R506): an activity whose claim nothing keeps takes its entry and begins,
for hardware and for a command. -/

namespace Sys2Proof.Machine

/-! ## Asking for a claim (14 R482-R485) -/

theorem ask_claims {s : State} {a : Activity} {auto : Bool} {n : Nat} (claims : Claims s a auto n) (cmd queue tag : Nat) :
    ask s a auto cmd queue tag = .entry (runEntry s n (asks s a auto cmd queue tag)) n := by
  obtain ⟨free, starts⟩ := claims
  rcases starts with h | h <;> simp [ask, free, h, asks]

theorem askAuto_claims {s : State} {a : Activity} {n : Nat} (claims : Claims s a true n) :
    askAuto s a = runEntry s n (asks s a true 0 0 0) := by
  simp [askAuto, ask_claims claims]

/-- The phase of a command that stays with its activity's entry. -/
def actPhase (a : Activity) (n : Nat) : Phase :=
  match a with
  | .selftest .. => .selftest n
  | _ => .activity n

theorem askFor_claims {s : State} {c : Cmd} {a : Activity} {n : Nat} (claims : Claims s a false n) :
    askFor s c a = claimed s c a n (actPhase a n) := by
  simp only [askFor, ask_claims claims]
  rfl

/-! ## An activity of a MAINT command (12 R422, 14 R506) -/

section Activity

variable {s s' : State} {q : QueueId} {sub : Nat} {c : Cmd} {bs : List Byte} {authAt : List Byte → Option Nat}
  {shaped : List Byte → Bool} {a : Activity} {n : Nat}

/-- The command with an activity as its work. -/
def Cmd.acting (c : Cmd) (a : Activity) : Cmd := { c with job := .act a }

/-- The MAINT command at the front reads its body with the activity as its work. -/
def ActivityRead (s s' : State) (q : QueueId) (sub : Nat) (c : Cmd) (bs : List Byte) (a : Activity) : Prop :=
  maintCmd s q.val sub = some c ∧ MaintRead (s.setCmd (c.acting a)) s' q sub (c.acting a) bs

theorem activityMaint_runs (read : ActivityRead s s' q sub c bs a) (noSample : sub ≠ 0x0004)
    (free : authAt bs = none) (formed : shaped bs = true) :
    activityMaint s q sub authAt shaped a = runActivity s' ((c.acting a).withBody bs) a := by
  obtain ⟨front, read⟩ := read
  have passes : (if (true && shaped bs) = true then none else some stBadCmd) = none := by simp [formed]
  have run := runMaint_runs (checks := fun _ _ bs ok => if ok && shaped bs then none else some stBadCmd)
    (run := fun s c _ => some (runActivity s c a)) read noSample free passes
  simp only [activityMaint, front]
  exact run

theorem activityMaint_claims (read : ActivityRead s s' q sub c bs a) (noSample : sub ≠ 0x0004) (free : authAt bs = none)
    (formed : shaped bs = true) (asked : ∀ k, runActivity s' k a = askFor s' k a) (phase : actPhase a n = .activity n)
    (claims : Claims s' a false n) :
    activityMaint s q sub authAt shaped a = claimed s' ((c.acting a).withBody bs) a n (.activity n) := by
  rw [activityMaint_runs read noSample free formed, asked, askFor_claims claims, phase]

theorem simpleMaint_claims (read : ActivityRead s s' q sub c bs a) (noSample : sub ≠ 0x0004) (empty : bs = [])
    (asked : ∀ k, runActivity s' k a = askFor s' k a) (phase : actPhase a n = .activity n) (claims : Claims s' a false n) :
    simpleMaint s q sub a = claimed s' ((c.acting a).withBody bs) a n (.activity n) :=
  activityMaint_claims read noSample rfl (by simp [empty]) asked phase claims

end Activity

/-! ## Each activity of hardware, and of a command -/

/-- Settles O32: each activity asks, and where nothing keeps its claim the entry runs. -/
theorem activitiesTakeTheirClaims : Obligations.ActivitiesTakeTheirClaims := by
  refine ⟨fun s n => ?_, fun q c s s' bs n => ?_, ?_⟩
  · intro auto
    have takes {i : Instr} {a : Activity} (asked : exec i s = .next (askAuto s a)) : auto i a :=
      fun claims => asked.trans (congrArg _ (askAuto_claims claims))
    refine ⟨?_, ?_, ?_, ?_, ?_, ?_⟩
    · intro part u known stopped
      exact takes (by simp only [exec, execRefetch, known, stopped, Bool.true_or, Bool.true_and, if_true])
    · intro st p bank row inBank
      exact ⟨fun can => takes (by simp [exec, execRowRemap, inBank, can]),
        fun cannot => takes (by simp [exec, execRowRetire, inBank, cannot])⟩
    · intro st chan
      refine ⟨⟨fun spare => takes (congrArg _ (if_pos spare)), fun none => takes (congrArg _ (if_neg (Nat.not_lt.mpr none)))⟩, ?_⟩
      intro many notYet
      exact takes (by simp [exec, execStackRetire, many, notYet])
    · intro ch block package
      exact ⟨fun works => takes (congrArg _ (if_neg works)), fun failed => takes (congrArg _ (if_pos failed))⟩
    · intro p failing notYet
      exact takes (by simp [exec, execPcRetire, failing, notYet])
    · intro k charged due
      exact takes (by simp [exec, execHoldupTest, charged, due])
  · intro maint
    refine ⟨?_, ?_, ?_, ?_, ?_, ?_⟩
    · intro part u known empty front read claims
      refine congrArg _ (activityMaint_claims ⟨front, read⟩ (by decide) rfl ?_ (fun _ => rfl) rfl claims)
      simp only [empty, List.isEmpty_nil, known, Bool.true_or, Bool.and_self]
    · intro ch empty front read claims
      exact congrArg _ (simpleMaint_claims ⟨front, read⟩ (by decide) empty (fun _ => rfl) rfl claims)
    · intro p empty front read claims
      exact congrArg _ (simpleMaint_claims ⟨front, read⟩ (by decide) empty (fun _ => rfl) rfl claims)
    · intro st empty front read claims
      exact congrArg _ (simpleMaint_claims ⟨front, read⟩ (by decide) empty (fun _ => rfl) rfl claims)
    · intro k empty front read claims
      exact congrArg _ (simpleMaint_claims ⟨front, read⟩ (by decide) empty (fun _ => rfl) rfl claims)
    · intro st chan name data short long
      have shaped : (decide (data.length ≤ 512) && decide (max 1 data.length ≤ bs.length)) = true := by
        simp only [short, long, decide_true, Bool.and_self]
      refine ⟨fun retired front read claims => ?_, fun front read => ?_⟩
      · refine congrArg _ (activityMaint_claims ⟨front, read⟩ (by decide) rfl shaped (fun k => ?_) rfl claims)
        exact if_pos retired
      · exact congrArg _ (activityMaint_runs ⟨front, read⟩ (by decide) rfl shaped)
  · rintro q c s n ⟨front, formed⟩ known admits a claims
    have asked : exec (.selftest q) s = .next (admitSelftest s c) := by
      simp [exec, execSelftest, front, formed, Nat.not_le.mpr known, admits]
    rw [asked]
    exact congrArg _ (askFor_claims claims)

end Sys2Proof.Machine
end

section
/-! PROOFS. Entries of the claim table (14 R483, R486, R490-R506): how one that waits starts, is dropped or times out, and what the end
of a running one leaves. -/

namespace Sys2Proof.Machine

/-! ## What the end of a claim leaves (14 R486) -/

/-- What every step of a fold leaves, the fold leaves. -/
theorem foldl_unchanged {σ α β : Type} {p : σ → β} {f : σ → α → σ} (step : ∀ s x, p (f s x) = p s) (l : List α) (s : σ) :
    p (l.foldl f s) = p s := by
  induction l generalizing s with
  | nil => rfl
  | cons x l ih => rw [List.foldl_cons, ih, step]

/-- The counters of dropped and refused activities. -/
def actCounts (s : State) : Nat × Nat := (s.maint.drops, s.maint.refused)

theorem claimEvent_counts (s : State) (code n how : Nat) (a : Activity) :
    actCounts (claimEvent s code n how a) = actCounts s := by
  simp only [actCounts, claimEvent, postM_maint]

theorem endClaim_counts (s : State) (n how : Nat) : actCounts (endClaim s n how) = actCounts s := by
  unfold endClaim
  split
  · rfl
  · refine (claimEvent_counts ..).trans ((foldl_unchanged (fun t k => ?_) _ _).trans rfl)
    split <;> rfl

theorem endClaim_drops (s : State) (n how : Nat) : (endClaim s n how).maint.drops = s.maint.drops :=
  congrArg Prod.fst (endClaim_counts s n how)

theorem endClaim_refused (s : State) (n how : Nat) : (endClaim s n how).maint.refused = s.maint.refused :=
  congrArg Prod.snd (endClaim_counts s n how)

/-! ## An entry that waits (14 R483) -/

/-- The claim of an entry is dropped for one that supersedes it, and counted. -/
def superseded (s : State) (n : Nat) : State := { endClaim s n 1 with maint.drops := satAdd 16 s.maint.drops 1 }

/-- The claim of an entry that waited too long is refused, and counted. -/
def timedOut (s : State) (n : Nat) : State := { endClaim s n 2 with maint.refused := satAdd 16 s.maint.refused 1 }

theorem superseded_eq (s : State) (n : Nat) :
    superseded s n = { endClaim s n 1 with maint.drops := satAdd 16 (endClaim s n 1).maint.drops 1 } := by
  rw [endClaim_drops]
  rfl

theorem timedOut_eq (s : State) (n : Nat) :
    timedOut s n = { endClaim s n 2 with maint.refused := satAdd 16 (endClaim s n 2).maint.refused 1 } := by
  rw [endClaim_refused]
  rfl

section Waiting

variable {n : Fin 64} {c : Claim} {s : State}

theorem exec_claimStart_starts (held : s.claim n.val = some c) (waits : c.state = 0)
    (free : outcome s c.act c.auto (some n.val) = .both ∨ outcome s c.act c.auto (some n.val) = .pause) :
    exec (.claimStart n) s = .next (runEntry s n.val c) := by
  change execClaimStart n s = _
  unfold execClaimStart
  rw [held]
  dsimp only
  rw [if_neg (not_not.mpr waits)]
  rcases free with h | h <;> rw [h]

theorem exec_claimStart_stays (held : s.claim n.val = some c) (waits : c.state = 0)
    (keeps : outcome s c.act c.auto (some n.val) = .wait ∨ outcome s c.act c.auto (some n.val) = .busy) :
    exec (.claimStart n) s = .next s := by
  change execClaimStart n s = _
  unfold execClaimStart
  rw [held]
  dsimp only
  rw [if_neg (not_not.mpr waits)]
  rcases keeps with h | h <;> rw [h]

theorem exec_claimStart_drops (held : s.claim n.val = some c) (waits : c.state = 0)
    (drops : outcome s c.act c.auto (some n.val) = .drop) (hardware : c.auto = true) :
    exec (.claimStart n) s = .next (superseded s n.val) := by
  change execClaimStart n s = _
  unfold execClaimStart
  rw [held]
  dsimp only
  rw [if_neg (not_not.mpr waits), drops]
  dsimp only
  rw [hardware]
  split <;> rfl

/-- A command's activity that has waited 10 s and not begun is refused (14 R483, R486). -/
def waitsTooLong (s : State) (c : Claim) : Bool :=
  c.state = 0 && !c.begun && !c.auto && decide (c.since + 10 ≤ s.secs) && !admissionStopped s

theorem exec_claimWaitTimeout_ends {k : Cmd} (held : s.claim n.val = some c) (waits : c.state = 0) (byCommand : c.auto = false)
    (notBegun : c.begun = false) (long : c.since + 10 ≤ s.secs) (admits : admissionStopped s = false)
    (waiting : (timedOut s n.val).cmd c.cmd = some k) :
    exec (.claimWaitTimeout n) s = .next (fail (timedOut s n.val) k stBusy) := by
  have tooLong : waitsTooLong s c = true := by simp [waitsTooLong, waits, byCommand, notBegun, long, admits]
  unfold waitsTooLong at tooLong
  dsimp only [timedOut] at waiting
  change execClaimWaitTimeout n s = _
  unfold execClaimWaitTimeout
  rw [held]
  dsimp only
  rw [if_pos tooLong, waiting]
  rfl

theorem exec_claimWaitTimeout_stays (held : s.claim n.val = some c)
    (goesOn : c.auto = true ∨ c.begun = true ∨ s.secs < c.since + 10) : exec (.claimWaitTimeout n) s = .next s := by
  have notTooLong : ¬ waitsTooLong s c = true := by
    rcases goesOn with h | h | h
    · simp [waitsTooLong, h]
    · simp [waitsTooLong, h]
    · simp [waitsTooLong, Nat.not_le.mpr h]
  unfold waitsTooLong at notTooLong
  change execClaimWaitTimeout n s = _
  unfold execClaimWaitTimeout
  rw [held]
  dsimp only
  rw [if_neg notTooLong]

end Waiting

/-! ## An entry that runs (14 R486) -/

theorem exec_claimEnd {n : Fin 64} {r : W32} {cap esr : BitVec 16} {c : Claim} {s : State} (held : s.claim n.val = some c)
    (runs : c.state = 1) (rests : testNeeded s c.act = false) :
    exec (.claimEnd n r cap esr) s = .next (answerBad (endEntry s n.val c r.toNat cap.toNat esr.toNat)) := by
  have ready : (c.state = 1 && !testNeeded s c.act) = true := by simp [runs, rests]
  change execClaimEnd n r cap esr s = _
  unfold execClaimEnd
  rw [held]
  dsimp only
  rw [if_pos ready]

/-- Settles O33: a waiting entry by its outcome, a running one by its activity. -/
theorem claimsStartAndEnd : Obligations.ClaimsStartAndEnd := by
  refine ⟨fun n c s held waits => ?_, fun n r cap esr c s held runs => ?_⟩
  · refine ⟨exec_claimStart_starts held waits, exec_claimStart_stays held waits, fun drops hardware => ?_,
      fun k byCommand notBegun long admits => ?_, exec_claimWaitTimeout_stays held⟩
    · rw [exec_claimStart_drops held waits drops hardware, superseded_eq]
    · rw [← timedOut_eq]
      exact exec_claimWaitTimeout_ends held waits byCommand notBegun long admits
  · intro ends
    have finishes {t : State} (rests : testNeeded s c.act = false) (entry : endEntry s n.val c r.toNat cap.toNat esr.toNat = t) :
        exec (.claimEnd n r cap esr) s = .next (answerBad t) := by
      rw [exec_claimEnd held runs rests, entry]
    refine ⟨?_, ?_, ?_, ?_, ?_, ?_, ?_, ?_, ?_, ?_, ?_, ?_, ?_⟩
    · intro ch idle act
      refine finishes (by rw [act]; rfl) ?_
      simp only [endEntry, act, idle, List.isEmpty_nil, if_true, rejoinChannel]
    · intro st p bank row act
      exact finishes (by rw [act]; rfl) (by simp only [endEntry, act])
    · intro st p bank row act
      exact finishes (by rw [act]; rfl) (by simp only [endEntry, act])
    · intro st ch spare act
      exact finishes (by rw [act]; rfl) (by simp only [endEntry, act, spare, if_true])
    · intro st ch none act
      exact finishes (by rw [act]; rfl) (by simp only [endEntry, act, Nat.not_lt.mpr none, if_false])
    · intro ch b p free act
      refine finishes (by rw [act]; rfl) ?_
      simp only [endEntry, act, free]
      rfl
    · intro p t retires act
      exact finishes (by rw [act]; rfl) (by simp only [endEntry, act, retires])
    · intro st t spread retires act
      exact finishes (by rw [act]; rfl) (by simp only [endEntry, act, spread, if_true, retires])
    · intro ch t free rewrites act
      refine finishes (by rw [act]; rfl) ?_
      simp only [endEntry, act, free, rewrites]
      rfl
    · intro k act
      exact finishes (by rw [act]; rfl) (by simp only [endEntry, act])
    · intro st ch name d
      refine ⟨fun act => ?_, fun act => ?_⟩
      · refine finishes (by rw [act]; rfl) ?_
        simp only [endEntry, act]
        rfl
      · refine finishes (by rw [act]; rfl) ?_
        simp only [endEntry, act, if_true]
    · intro i b unneeded act
      refine finishes (by rw [act]; exact unneeded) ?_
      simp only [endEntry, act]
      rfl
    · intro part u ready runnable act
      refine finishes (by rw [act]; rfl) ?_
      simp only [endEntry, act, ready, if_true, endRefetch, runnable]

end Sys2Proof.Machine
end

section
/-! PROOFS. Starts, resets, saves and wakes (15 R528-R530, 16 R556-R564): what each of their steps leaves as it was, and what the whole
then comes to. -/

namespace Sys2Proof.Machine

/-! ## Parts that a frame does not name -/

section Parts

variable {s t : State} {B : List Blk}

theorem mod_of_keepsBut (kept : t.without B = s.without B) (out : .mod ∉ B) : t.mod = s.mod := by
  simpa [State.without, out] using congrArg State.mod kept

theorem warden_of_keepsBut (kept : t.without B = s.without B) (out : .warden ∉ B) : t.warden = s.warden := by
  simpa [State.without, out] using congrArg State.warden kept

theorem life_of_keepsBut (kept : t.without B = s.without B) (out : .life ∉ B) : t.life = s.life := by
  simpa [State.without, out] using congrArg State.life kept

theorem pwr_of_keepsBut (kept : t.without B = s.without B) (out : .pwr ∉ B) : t.pwr = s.pwr := by
  simpa [State.without, out] using congrArg State.pwr kept

theorem qau_of_keepsBut (kept : t.without B = s.without B) (out : .qau ∉ B) : t.qau = s.qau := by
  simpa [State.without, out] using congrArg State.qau kept

theorem hold_of_keepsBut (kept : t.without B = s.without B) (out : .hold ∉ B) : t.hold = s.hold := by
  simpa [State.without, out] using congrArg State.hold kept

end Parts

/-! ## What MOD keeps of the last start through the steps of the next (Table 16.7) -/

/-- Rails, the kind and cause of the last start, and the watchdog's resets. -/
def State.bootMarks (s : State) : Bool × Nat × Nat × List Nat :=
  (s.mod.pwrgd, s.mod.lastKind, s.mod.lastCause, s.mod.watchdogs)

theorem bootMarks_of_keepsBut {s t : State} {B : List Blk} (kept : t.without B = s.without B) (out : .mod ∉ B) :
    t.bootMarks = s.bootMarks := by
  simp only [State.bootMarks, mod_of_keepsBut kept out]

theorem stopUnit_bootMarks (s : State) (part unit : Nat) : (stopUnit s part unit).bootMarks = s.bootMarks := by
  unfold stopUnit
  split <;> rfl

theorem bootUnit_bootMarks (s : State) (part unit : Nat) : (bootUnit s part unit).bootMarks = s.bootMarks := by
  unfold bootUnit
  split
  · split <;> rfl
  · exact stopUnit_bootMarks s part unit

theorem bootUnits_bootMarks (s : State) : (bootUnits s).bootMarks = s.bootMarks :=
  foldl_unchanged (fun s p => foldl_unchanged (fun s u => bootUnit_bootMarks s p u) _ s) _ s

theorem bootCores_bootMarks (s : State) : (bootCores s).bootMarks = s.bootMarks := by
  unfold bootCores
  split
  · rfl
  · exact stopUnit_bootMarks s 8 0

theorem putRwl_bootMarks (blk off : Nat) (o : Open) (v : Nat) (s : State) : (putRwl blk off o v s).bootMarks = s.bootMarks := by
  by_cases rst : blk = 0x00 ∧ off = 0x10
  · rw [putRwl, if_pos rst]
    rfl
  · refine bootMarks_of_keepsBut (B := [.freeCtr, .qau, .alloc, .flash, .reel, .eng, .pwr, .links]) ?_ (by decide)
    rw [putRwl, if_neg rst]
    repeat rw [apply_ite (fun t => State.without t _)]
    simp

theorem applyLocks_bootMarks (s : State) (ls : List Lock) : (applyLocks s ls).bootMarks = s.bootMarks := by
  refine foldl_unchanged (p := State.bootMarks) (fun s l => ?_) ls s
  unfold applyLock
  dsimp only
  split
  · rfl
  · exact putRwl_bootMarks ..

theorem loadPolicy_bootMarks (s : State) : (loadPolicy s).bootMarks = s.bootMarks := by
  unfold loadPolicy
  refine (applyLocks_bootMarks _ _).trans (bootMarks_of_keepsBut (B := [.hbm]) ?_ (by decide))
  simp

theorem mount_bootMarks (s : State) : (mount s).bootMarks = s.bootMarks := by
  unfold mount
  refine (bootMarks_of_keepsBut (B := [.qau, .corpus, .hbm, .warden, .links]) (fitAll_without _ _ (by simp)) (by decide)).trans rfl

theorem train_bootMarks (s : State) : (train s).bootMarks = s.bootMarks :=
  bootMarks_of_keepsBut (train_without s _ (List.Subset.refl _)) (by decide)

theorem restartCsn_bootMarks (s : State) (current : Nat) : (restartCsn s current).bootMarks = s.bootMarks :=
  bootMarks_of_keepsBut (restartCsn_without s current _ (List.Subset.refl _)) (by decide)

theorem bootRest_bootMarks (s : State) : (bootRest s).bootMarks = s.bootMarks := by
  rw [bootRest, restartCsn_bootMarks, mount_bootMarks, train_bootMarks, loadPolicy_bootMarks, bootCores_bootMarks,
    bootUnits_bootMarks]

theorem postM_bootMarks (s : State) (code src queue e0 e1 e2 : Nat) : (postM s code src queue e0 e1 e2).bootMarks = s.bootMarks :=
  bootMarks_of_keepsBut (postM_without s _ _ _ _ _ _ _ (List.Subset.refl _)) (by decide)

theorem noteStart_bootMarks (s : State) : (noteStart s).bootMarks = s.bootMarks := by
  unfold noteStart
  split
  · exact (postM_bootMarks _ _ _ _ _ _ _).trans rfl
  · rfl

theorem startEvents_bootMarks (s : State) (debug : Bool) : (startEvents s debug).bootMarks = s.bootMarks :=
  bootMarks_of_keepsBut (startEvents_without s debug _ (List.Subset.refl _)) (by decide)

theorem serve_bootMarks (s : State) : (serve s).bootMarks = s.bootMarks := rfl

/-! ## What the warden keeps from its own boot on (13 R453) -/

/-- Calendar, sessions and the request in hand. -/
def State.wardenMarks (s : State) : Option Calendar × Tab (Option Session) × Option Request :=
  (s.warden.calendar, s.warden.keys, s.warden.request)

theorem wardenMarks_of_keepsBut {s t : State} {B : List Blk} (kept : t.without B = s.without B) (out : .warden ∉ B) :
    t.wardenMarks = s.wardenMarks := by
  simp only [State.wardenMarks, warden_of_keepsBut kept out]

theorem stopUnit_wardenMarks (s : State) (part unit : Nat) : (stopUnit s part unit).wardenMarks = s.wardenMarks := by
  unfold stopUnit
  split <;> rfl

theorem bootUnit_wardenMarks (s : State) (part unit : Nat) : (bootUnit s part unit).wardenMarks = s.wardenMarks := by
  unfold bootUnit
  split
  · split <;> rfl
  · exact stopUnit_wardenMarks s part unit

theorem bootUnits_wardenMarks (s : State) : (bootUnits s).wardenMarks = s.wardenMarks :=
  foldl_unchanged (fun s p => foldl_unchanged (fun s u => bootUnit_wardenMarks s p u) _ s) _ s

theorem bootCores_wardenMarks (s : State) : (bootCores s).wardenMarks = s.wardenMarks :=
  wardenMarks_of_keepsBut (bootCores_without s _ (List.Subset.refl _)) (by decide)

theorem applyLocks_wardenMarks (s : State) (ls : List Lock) : (applyLocks s ls).wardenMarks = s.wardenMarks :=
  foldl_unchanged (p := State.wardenMarks)
    (fun s l => wardenMarks_of_keepsBut (applyLock_without s l _ (List.Subset.refl _)) (by decide)) ls s

theorem loadPolicy_wardenMarks (s : State) : (loadPolicy s).wardenMarks = s.wardenMarks := by
  unfold loadPolicy
  refine (applyLocks_wardenMarks _ _).trans (wardenMarks_of_keepsBut (B := [.hbm]) ?_ (by decide))
  simp

theorem train_wardenMarks (s : State) : (train s).wardenMarks = s.wardenMarks :=
  wardenMarks_of_keepsBut (train_without s _ (List.Subset.refl _)) (by decide)

theorem postM_wardenMarks (s : State) (code src queue e0 e1 e2 : Nat) :
    (postM s code src queue e0 e1 e2).wardenMarks = s.wardenMarks :=
  wardenMarks_of_keepsBut (postM_without s _ _ _ _ _ _ _ (List.Subset.refl _)) (by decide)

theorem collEvent_wardenMarks (s : State) (code src cid : Nat) : (collEvent s code src cid).wardenMarks = s.wardenMarks := by
  unfold collEvent
  split
  · exact (postM_wardenMarks ..).trans rfl
  · exact postM_wardenMarks ..

theorem fitScan_wardenMarks (cids : List Nat) (s : State) : (fitScan cids s).wardenMarks = s.wardenMarks := by
  induction cids generalizing s with
  | nil => rfl
  | cons cid cids ih =>
    unfold fitScan
    split
    · rfl
    · split
      · exact ih s
      · exact (ih _).trans ((collEvent_wardenMarks ..).trans rfl)

theorem fitAll_wardenMarks (s : State) : (fitAll s).wardenMarks = s.wardenMarks := by
  refine (fitScan_wardenMarks _ _).trans (foldl_unchanged (fun s e => ?_) _ s)
  exact (collEvent_wardenMarks ..).trans rfl

theorem mount_wardenMarks (s : State) : (mount s).wardenMarks = s.wardenMarks :=
  (fitAll_wardenMarks _).trans rfl

theorem restartCsn_wardenMarks (s : State) (current : Nat) : (restartCsn s current).wardenMarks = s.wardenMarks :=
  wardenMarks_of_keepsBut (restartCsn_without s current _ (List.Subset.refl _)) (by decide)

theorem serve_wardenMarks (s : State) : (serve s).wardenMarks = s.wardenMarks := rfl

theorem bootRest_wardenMarks (s : State) : (bootRest s).wardenMarks = s.wardenMarks := by
  rw [bootRest, restartCsn_wardenMarks, mount_wardenMarks, train_wardenMarks, loadPolicy_wardenMarks, bootCores_wardenMarks,
    bootUnits_wardenMarks]

theorem startEvents_wardenMarks (s : State) (debug : Bool) : (startEvents s debug).wardenMarks = s.wardenMarks :=
  wardenMarks_of_keepsBut (startEvents_without s debug _ (List.Subset.refl _)) (by decide)

theorem noteStart_wardenMarks (s : State) : (noteStart s).wardenMarks = s.wardenMarks :=
  wardenMarks_of_keepsBut (noteStart_without s _ (List.Subset.refl _)) (by decide)

theorem extendMr_wardenMarks (s : State) (i : Nat) (d : BitVec 256) : (extendMr s i d).wardenMarks = s.wardenMarks := rfl

theorem measureBoot_wardenMarks (s : State) : (measureBoot s).wardenMarks = s.wardenMarks := by
  unfold measureBoot
  simp only [extendMr_wardenMarks]
  split
  · simp only [extendMr_wardenMarks]
    rfl
  · simp only [extendMr_wardenMarks]
    rfl

theorem wardenBoot_wardenMarks (s : State) : (wardenBoot s).wardenMarks = (none, [], none) := by
  have rest (u : State) (b : Bool) :
      (measureBoot (restoreIndex (if b then u else { u with warden.romOnly := true }))).wardenMarks = u.wardenMarks := by
    rw [measureBoot_wardenMarks]
    cases b <;> rfl
  exact (rest _ _).trans rfl

/-! ## Cold start and FULL restart (16 R561) -/

/-- The state at step 1 of a start, before the warden's own. -/
def ground (s : State) (kind cause : Nat) : State :=
  let t := resetBlocks s
  let t := { t with mod.lastKind := kind, mod.lastCause := cause, mod.startKind := kind, mod.pwrgd := true, csn.pins := s.csn.pins }
  let t := restoreLife (bankStart t (kind = 0))
  if kind = 0 then countFused t else t

theorem restart_eq (s : State) (kind cause : Nat) :
    restart s kind cause = if (ground s kind cause).warden.fuseFail then { wardenBoot (ground s kind cause) with warden.romOnly := true }
      else
        let t := wardenBoot (ground s kind cause)
        noteStart (startEvents (serve (if t.warden.romOnly then t else bootRest t)) s.warden.debugOpen) := rfl

theorem ground_mod (s : State) (kind cause : Nat) :
    (ground s kind cause).mod = { Mod.initial with
      lastKind := kind, lastCause := cause, startKind := kind, pwrgd := true } := by
  unfold ground
  dsimp only
  split
  · exact (mod_of_keepsBut (countFused_without _ _ (List.Subset.refl _)) (by decide)).trans rfl
  · rfl

theorem ground_boot (s : State) (kind cause : Nat) : (ground s kind cause).life.boot = s.life.boot := by
  unfold ground
  dsimp only
  split
  · exact (congrArg Life.boot (life_of_keepsBut (countFused_without _ _ (List.Subset.refl _)) (by decide))).trans rfl
  · rfl

theorem wardenBoot_boot (s : State) : (wardenBoot s).life.boot = s.life.boot + 1 := by
  have rest (u : State) (b : Bool) :
      (measureBoot (restoreIndex (if b then u else { u with warden.romOnly := true }))).life = u.life := by
    refine (life_of_keepsBut (measureBoot_without _ _ (List.Subset.refl _)) (by decide)).trans ?_
    cases b <;> rfl
  exact (congrArg Life.boot (rest _ _)).trans rfl

theorem wardenBoot_bootMarks (s : State) : (wardenBoot s).bootMarks = s.bootMarks :=
  bootMarks_of_keepsBut (wardenBoot_without s _ (List.Subset.refl _)) (by decide)

/-- A start has left its kind and cause, one boot more, and a warden without calendar, session or request. -/
structure Started (t : State) (kind cause boots : Nat) : Prop where
  rails : t.mod.pwrgd = true
  kind : t.mod.lastKind = kind
  cause : t.mod.lastCause = cause
  boots : t.life.boot = boots
  calendar : t.warden.calendar = none
  sessions : t.warden.keys = []
  request : t.warden.request = none

theorem started_of_marks {t : State} {kind cause boots : Nat} (mod : t.bootMarks = (true, kind, cause, []))
    (warden : t.wardenMarks = (none, [], none)) (boot : t.life.boot = boots) : Started t kind cause boots := by
  simp only [State.bootMarks, State.wardenMarks, Prod.mk.injEq] at mod warden
  obtain ⟨rails, kind, cause, -⟩ := mod
  obtain ⟨calendar, sessions, request⟩ := warden
  exact ⟨rails, kind, cause, boot, calendar, sessions, request⟩

theorem Started.of_parts {s t : State} {kind cause boots : Nat} (h : Started s kind cause boots) (mod : t.mod = s.mod)
    (life : t.life = s.life) (warden : t.warden = s.warden) : Started t kind cause boots := by
  obtain ⟨rails, kind, cause, boots, calendar, sessions, request⟩ := h
  exact ⟨mod ▸ rails, mod ▸ kind, mod ▸ cause, life ▸ boots, warden ▸ calendar, warden ▸ sessions, warden ▸ request⟩

theorem restart_started (s : State) (kind cause : Nat) : Started (restart s kind cause) kind cause (s.life.boot + 1) := by
  have mod : (wardenBoot (ground s kind cause)).bootMarks = (true, kind, cause, []) := by
    rw [wardenBoot_bootMarks, State.bootMarks, ground_mod]
    rfl
  have warden := wardenBoot_wardenMarks (ground s kind cause)
  have boot : (wardenBoot (ground s kind cause)).life.boot = s.life.boot + 1 := by rw [wardenBoot_boot, ground_boot]
  rw [restart_eq]
  split
  · exact started_of_marks mod warden boot
  · dsimp only
    generalize wardenBoot (ground s kind cause) = t at mod warden boot ⊢
    refine started_of_marks ?_ ?_ ?_
    · rw [noteStart_bootMarks, startEvents_bootMarks, serve_bootMarks]
      split
      · exact mod
      · rw [bootRest_bootMarks, mod]
    · rw [noteStart_wardenMarks, startEvents_wardenMarks, serve_wardenMarks]
      split
      · exact warden
      · rw [bootRest_wardenMarks, warden]
    · rw [life_of_keepsBut (noteStart_without _ _ (List.Subset.refl _)) (by decide),
        life_of_keepsBut (startEvents_without _ _ _ (List.Subset.refl _)) (by decide),
        life_of_keepsBut (serve_without _ _ (List.Subset.refl _)) (by decide)]
      split
      · exact boot
      · rw [life_of_keepsBut (bootRest_without _ _ (List.Subset.refl _)) (by decide), boot]

theorem exec_coldStart_started {s : State} (off : s.mod.pwrgd = false) :
    ∃ t, exec .coldStart s = .next t ∧
      Started t 0 (if s.hold.reportDue && s.draw.1 % 2 = 1 then 5 else 0) (s.life.boot + 1) := by
  refine ⟨_, exec_coldStart_off off, (restart_started s.draw.2 0 _).of_parts ?_ ?_ ?_⟩
  · exact mod_of_keepsBut (meterUp_without _ _ (List.Subset.refl _)) (by decide)
  · exact life_of_keepsBut (meterUp_without _ _ (List.Subset.refl _)) (by decide)
  · exact warden_of_keepsBut (meterUp_without _ _ (List.Subset.refl _)) (by decide)

theorem full_started (s : State) (cause : Nat) : Started (full s cause) 1 cause (s.life.boot + 1) := by
  have life : (railsOff (save (handoverEnds s) true true)).life = s.life := by
    rw [life_of_keepsBut (railsOff_without _ _ (List.Subset.refl _)) (by decide),
      life_of_keepsBut (save_without _ _ _ _ (List.Subset.refl _)) (by decide),
      life_of_keepsBut (handoverEnds_without _ _ (List.Subset.refl _)) (by decide)]
  exact life ▸ restart_started _ 1 cause

end Sys2Proof.Machine
end

section
/-! PROOFS. WARM resets, watchdog, hold-up save, wake and reload (15 R528, 16 R556-R564): what their steps leave of MOD and of the
commands in flight. -/

namespace Sys2Proof.Machine

/-! ## The commands that are fetched, through the steps of a WARM reset -/

/-- The commands that the queues have fetched. -/
def State.fetchedCmds (s : State) : List Cmd := s.qau.cmds

theorem cmds_of_keepsBut {s t : State} {B : List Blk} (kept : t.without B = s.without B) (out : .qau ∉ B) :
    t.fetchedCmds = s.fetchedCmds := by
  rw [State.fetchedCmds, State.fetchedCmds, qau_of_keepsBut kept out]

theorem posted_cmds (s : State) (code src queue e0 e1 e2 : Nat) :
    (postM s code src queue e0 e1 e2).fetchedCmds = s.fetchedCmds := postM_cmds ..

theorem noteLost_cmds (s : State) (b : Nat) (v : VSlot) : (noteLost s b v).fetchedCmds = s.fetchedCmds := by
  unfold noteLost
  split
  · rfl
  · exact posted_cmds ..

theorem loseSlots_cmds (s : State) (b fla : Nat) : (loseSlots s b fla).fetchedCmds = s.fetchedCmds := by
  refine foldl_unchanged (p := State.fetchedCmds) (fun s e => ?_) _ s
  dsimp only
  split
  · rfl
  · exact (noteLost_cmds ..).trans rfl

theorem loseUnit_cmds (s : State) (b fla : Nat) : (loseUnit s b fla).fetchedCmds = s.fetchedCmds := by
  unfold loseUnit
  dsimp only
  rw [cmds_of_keepsBut (renewImages_without _ _ _ (List.Subset.refl _)) (by decide),
    cmds_of_keepsBut (loseBacking_without _ _ _ (List.Subset.refl _)) (by decide),
    cmds_of_keepsBut (losePayloads_without _ _ _ (List.Subset.refl _)) (by decide), loseSlots_cmds]
  exact posted_cmds ..

theorem ownUnit_cmds (sealed : Bool) (s : State) (f : Nat) : (ownUnit sealed s f).fetchedCmds = s.fetchedCmds := by
  have counted (s : State) (o : FlashRead) : (countUnit s f sealed o).fetchedCmds = s.fetchedCmds :=
    cmds_of_keepsBut (countUnit_without s f sealed o _ (List.Subset.refl _)) (by decide)
  have read (t : State) (o : FlashRead) : (let u := countUnit t f sealed o
      if o = .lost then loseUnit u (borerOf u f) f else u).fetchedCmds = t.fetchedCmds := by
    dsimp only
    split
    · rw [loseUnit_cmds, counted]
    · exact counted t o
  exact (read _ _).trans rfl

theorem imageRead_cmds (s : State) (b : Block) : (imageRead s b).fetchedCmds = s.fetchedCmds := by
  unfold imageRead
  split
  · rfl
  · exact foldl_unchanged (p := State.fetchedCmds) (fun s f => ownUnit_cmds false s f) _ s

theorem verifyBlocks_cmds (s t : State) : (verifyBlocks s t).fetchedCmds = t.fetchedCmds := by
  refine foldl_unchanged (p := State.fetchedCmds) (fun t e => ?_) _ t
  split
  · split
    · dsimp only
      split
      · exact imageRead_cmds ..
      · exact imageRead_cmds ..
    · rfl
  · rfl

theorem putRwl_cmds (blk off : Nat) (o : Open) (v : Nat) (s : State) : (putRwl blk off o v s).fetchedCmds = s.fetchedCmds := by
  by_cases queue : blk = 0x01 ∧ 0x10000 ≤ off ∧ off < 0x20000 ∧ off % 0x40 = 0
  · rw [putRwl, if_neg (by omega), if_pos queue]
    exact modQueue_cmds _ _ _
  · refine cmds_of_keepsBut (B := [.freeCtr, .mod, .alloc, .flash, .reel, .eng, .pwr, .links]) ?_ (by decide)
    rw [putRwl, if_neg queue]
    repeat rw [apply_ite (fun t => State.without t _)]
    simp

theorem applyLocks_cmds (s : State) (ls : List Lock) : (applyLocks s ls).fetchedCmds = s.fetchedCmds := by
  refine foldl_unchanged (p := State.fetchedCmds) (fun s l => ?_) ls s
  unfold applyLock
  dsimp only
  split
  · rfl
  · exact putRwl_cmds ..

theorem releasePins_cmds (s : State) : (releasePins s).fetchedCmds = s.fetchedCmds :=
  (foldl_unchanged (p := State.fetchedCmds) (fun _ _ => posted_cmds ..) _ _).trans rfl

theorem endHolders_cmds (s : State) : (endHolders s).fetchedCmds = s.fetchedCmds :=
  (foldl_unchanged (p := State.fetchedCmds) (fun _ _ => posted_cmds ..) _ _).trans (releasePins_cmds s)

theorem noteBank_cmds (s : State) : (noteBank s).fetchedCmds = s.fetchedCmds := by
  unfold noteBank
  dsimp only
  split
  · rfl
  · exact posted_cmds ..

theorem endDebug_cmds (s : State) (why : Nat) : (endDebug s why).fetchedCmds = s.fetchedCmds := by
  unfold endDebug
  dsimp only
  split
  · rfl
  · rw [cmds_of_keepsBut (restoreSealed_without _ _ (List.Subset.refl _)) (by decide), posted_cmds]
    rfl

/-! ## The end of a hand-over, which a reset waits for (R560) -/

theorem runVersion_bootMarks (s : State) (part unit : Nat) (v : W32) : (runVersion s part unit v).bootMarks = s.bootMarks := by
  unfold runVersion
  split
  case h_5 => split <;> rfl
  all_goals rfl

theorem endDebug_bootMarks (s : State) (why : Nat) : (endDebug s why).bootMarks = s.bootMarks := by
  have sealedAgain (s : State) : (restoreSealed s).bootMarks = s.bootMarks := by
    unfold restoreSealed
    split <;> rfl
  unfold endDebug
  dsimp only
  split
  · rfl
  · rw [sealedAgain, postM_bootMarks]
    rfl

theorem endUpdate_bootMarks (s : State) (n : Nat) (c : Claim) (part unit : Nat) (rest : List Nat) (image : List Byte)
    (failed : Nat) : (endUpdate s n c part unit rest image failed).bootMarks = s.bootMarks := by
  have apart {t u : State}
      (kept : t.without [.freeCtr, .qau, .corpus, .flash, .reel, .hbm, .eng, .warden, .maint, .hold, .links] =
        u.without [.freeCtr, .qau, .corpus, .flash, .reel, .hbm, .eng, .warden, .maint, .hold, .links]) :
      t.bootMarks = u.bootMarks := bootMarks_of_keepsBut kept (by decide)
  unfold endUpdate
  dsimp only
  split
  · refine (apart (u := runVersion s part unit (Config.imageVersion image)) ?_).trans (runVersion_bootMarks ..)
    split <;> split <;> simp
  · split
    · rfl
    · refine apart ?_
      split
      · simp
      · split <;> simp

theorem handoverEnds_bootMarks (s : State) : (handoverEnds s).bootMarks = s.bootMarks := by
  have answered (s : State) : (answerBad s).bootMarks = s.bootMarks :=
    bootMarks_of_keepsBut (answerBad_without s _ (List.Subset.refl _)) (by decide)
  unfold handoverEnds
  split
  · rfl
  · split
    · rfl
    · split
      · rw [answered, endUpdate_bootMarks]
      · rfl

/-! ## WARM reset (16 R557) -/

/-- Steps 3 to 7 of Table 16.6, from the state `t` whose blocks are cleared; `s`: the state before. -/
def warmTail (s t : State) (cause : Nat) : State :=
  let t := verifyBlocks s (bootCores (bootUnits t))
  let t := applyLocks t ((t.warden.policy.map (·.locks)).getD [])
  let t := postM (restartCsn t s.csn.current) evResetCause srcMod noQueue 2 cause 0
  let t := noteBank (endDebug (endHolders t) 2)
  if t.pwr.protect then startEntry t 2 none none true else t

theorem warmTail_bootMarks (s t : State) (cause : Nat) : (warmTail s t cause).bootMarks = t.bootMarks := by
  have entry (u : State) : (if u.pwr.protect then startEntry u 2 none none true else u).bootMarks = u.bootMarks := by
    split <;> rfl
  unfold warmTail
  dsimp only
  rw [entry, bootMarks_of_keepsBut (noteBank_without _ _ (List.Subset.refl _)) (by decide), endDebug_bootMarks,
    bootMarks_of_keepsBut (endHolders_without _ _ (List.Subset.refl _)) (by decide), postM_bootMarks, restartCsn_bootMarks,
    applyLocks_bootMarks, bootMarks_of_keepsBut (verifyBlocks_without _ _ _ (List.Subset.refl _)) (by decide),
    bootCores_bootMarks, bootUnits_bootMarks]

theorem warmTail_cmds (s t : State) (cause : Nat) : (warmTail s t cause).fetchedCmds = t.fetchedCmds := by
  have entry (u : State) : (if u.pwr.protect then startEntry u 2 none none true else u).fetchedCmds = u.fetchedCmds := by
    split <;> rfl
  unfold warmTail
  dsimp only
  rw [entry, noteBank_cmds, endDebug_cmds, endHolders_cmds, posted_cmds,
    cmds_of_keepsBut (restartCsn_without _ _ _ (List.Subset.refl _)) (by decide), applyLocks_cmds, verifyBlocks_cmds,
    cmds_of_keepsBut (bootCores_without _ _ (List.Subset.refl _)) (by decide),
    cmds_of_keepsBut (bootUnits_without _ _ (List.Subset.refl _)) (by decide)]

theorem warm_eq (s : State) (cause : Nat) : ∃ t, warm s cause = warmTail (endContexts (handoverEnds s)) t cause ∧ t.fetchedCmds = [] ∧
    t.bootMarks = ((endContexts (handoverEnds s)).mod.pwrgd, 2, cause, (endContexts (handoverEnds s)).mod.watchdogs) :=
  ⟨_, rfl, rfl, rfl⟩

theorem warm_bootMarks (s : State) (cause : Nat) : (warm s cause).bootMarks = (s.mod.pwrgd, 2, cause, s.mod.watchdogs) := by
  obtain ⟨t, whole, -, marks⟩ := warm_eq s cause
  have ended := (bootMarks_of_keepsBut (endContexts_without (handoverEnds s) _ (List.Subset.refl _)) (by decide)).trans
    (handoverEnds_bootMarks s)
  simp only [State.bootMarks, Prod.mk.injEq] at ended
  obtain ⟨rails, -, -, resets⟩ := ended
  rw [whole, warmTail_bootMarks, marks, rails, resets]

theorem warm_cmds (s : State) (cause : Nat) : (warm s cause).fetchedCmds = [] := by
  obtain ⟨t, whole, idle, -⟩ := warm_eq s cause
  rw [whole, warmTail_cmds, idle]

/-! ## Reset requests (16 R557, R558, R560) -/

/-- The answer to a reset request is RESET's of the management port, and nothing else changes. -/
theorem resetSaid_refused (s : State) (c : ResetCause) :
    resetSaid s c false = if c = .management then { s with rsp := .value 0 } else s := rfl

theorem resetSaid_accepted (s : State) (c : ResetCause) :
    resetSaid s c true = if c = .management then { s with rsp := .value 1 } else s := rfl

theorem resetSaid_rsp {s : State} {c : ResetCause} (asked : c = .management) (ok : Bool) :
    (resetSaid s c ok).rsp = .value (if ok then 1 else 0) := by
  rw [resetSaid, if_pos asked]

section Requests

variable {s : State} {c : ResetCause}

theorem exec_fullReset_refused (refused : resetAllowed s c s.links.fullLock = false ∨ c = .watchdog) :
    exec (.fullReset c) s = .next (resetSaid s c false) := by
  have no : (resetAllowed s c s.links.fullLock && decide (c ≠ .watchdog)) = false := by
    rcases refused with h | h <;> simp [h]
  simp only [exec, execFullReset, no]
  rfl

theorem exec_fullReset_allowed (allowed : resetAllowed s c s.links.fullLock = true) (asks : c ≠ .watchdog) :
    exec (.fullReset c) s = .next (resetSaid (if starting s then s else full s (causeCode c)) c true) := by
  have yes : (resetAllowed s c s.links.fullLock && decide (c ≠ .watchdog)) = true := by simp [allowed, asks]
  simp only [exec, execFullReset, yes]
  cases starting s <;> rfl

theorem exec_warmReset_refused (refused : resetAllowed s c s.links.warmLock = false ∨ c = .resetN) :
    exec (.warmReset c) s = .next (resetSaid s c false) := by
  have no : (resetAllowed s c s.links.warmLock && decide (c ≠ .resetN)) = false := by
    rcases refused with h | h <;> simp [h]
  simp only [exec, execWarmReset, no]
  rfl

theorem warmOrWake_warm (cause : Nat) (inRun : s.pwr.state ≠ 4) (serves : s.mod.accepting = true ∨ s.hbm.serviceStopped = true) :
    warmOrWake s cause = warm s cause := by
  have ready : (s.mod.accepting || s.hbm.serviceStopped) = true := by rcases serves with h | h <;> simp [h]
  rw [warmOrWake, if_neg inRun, if_pos ready]

theorem exec_warmReset_allowed (allowed : resetAllowed s c s.links.warmLock = true) (asks : c ≠ .resetN) (inRun : s.pwr.state ≠ 4)
    (serves : s.mod.accepting = true ∨ s.hbm.serviceStopped = true) :
    exec (.warmReset c) s = .next (resetSaid (warm s (causeCode c)) c true) := by
  have yes : (resetAllowed s c s.links.warmLock && decide (c ≠ .resetN)) = true := by simp [allowed, asks]
  simp only [exec, execWarmReset, yes, if_true, warmOrWake_warm _ inRun serves]

end Requests

/-! ## The watchdog (16 R559) -/

section Watchdog

variable {s : State} {u : Fin 7}

/-- The watchdog's resets of the last hour. -/
def recentResets (s : State) : List Nat := s.mod.watchdogs.filter (fun t => decide (s.secs - t < 3600))

theorem exec_watchdog_idle (idle : (s.mod.accepting = false ∧ s.hbm.serviceStopped = false) ∨ s.pwr.state = 4 ∨
    s.mod.stoppedUnits.contains u.val = true) : exec (.watchdog u) s = .next s := by
  have held : (!(s.mod.accepting || s.hbm.serviceStopped) || s.pwr.state = 4 || s.mod.stoppedUnits.contains u.val) = true := by
    rcases idle with ⟨accepting, serves⟩ | h | h
    · simp [accepting, serves]
    · simp [h]
    · simp only [h, Bool.or_true]
  exact congrArg _ (if_pos held)

theorem exec_watchdog_acts (serves : s.mod.accepting = true ∨ s.hbm.serviceStopped = true) (inRun : s.pwr.state ≠ 4)
    (runs : s.mod.stoppedUnits.contains u.val = false) :
    exec (.watchdog u) s = .next (if 3 ≤ (recentResets s).length then
        { s with mod.watchdogs := recentResets s, mod.stoppedUnits := s.mod.stoppedUnits ++ [u.val] }
      else postM (warm { s with mod.watchdogs := recentResets s ++ [s.secs] } 4) evWatchdog srcMod noQueue u.val
        ((recentResets s).length + 1) 0) := by
  have acts : (!(s.mod.accepting || s.hbm.serviceStopped) || s.pwr.state = 4 || s.mod.stoppedUnits.contains u.val) = false := by
    rcases serves with h | h <;>
      simp only [h, inRun, runs, Bool.or_true, Bool.true_or, Bool.or_false, Bool.not_true, decide_false]
  change execWatchdog u s = _
  unfold execWatchdog recentResets
  dsimp only
  rw [acts]
  simp only [Bool.false_eq_true, if_false]

theorem warmReset_of_marks {t : State} {rails : Bool} {cause : Nat} {resets : List Nat} (marks : t.bootMarks = (rails, 2, cause, resets))
    (idle : t.fetchedCmds = []) :
    t.mod.lastKind = 2 ∧ t.mod.lastCause = cause ∧ t.mod.watchdogs = resets ∧ t.qau.cmds = [] := by
  simp only [State.bootMarks, Prod.mk.injEq] at marks
  obtain ⟨-, kind, cause, resets⟩ := marks
  exact ⟨kind, cause, resets, idle⟩

theorem watchdog_resets (s : State) (resets : List Nat) (code src queue e0 e1 e2 : Nat) :
    let t := postM (warm { s with mod.watchdogs := resets } 4) code src queue e0 e1 e2
    t.mod.lastKind = 2 ∧ t.mod.lastCause = 4 ∧ t.mod.watchdogs = resets ∧ t.qau.cmds = [] := by
  refine warmReset_of_marks ((postM_bootMarks ..).trans (warm_bootMarks _ 4)) ?_
  rw [posted_cmds, warm_cmds]

end Watchdog

/-! ## The hold-up save (15 R528) -/

theorem save_hold (s : State) (stored fromInput : Bool) :
    (save s stored fromInput).hold.saveValid = true ∧ (save s stored fromInput).hold.saveUsed = stored ∧
      (save s stored fromInput).hold.saveBoot = s.life.boot := by
  have boot : (saveSize s).2.life = s.life := life_of_keepsBut (saveSize_without s _ (List.Subset.refl _)) (by decide)
  unfold save
  dsimp only
  split
  · exact ⟨rfl, rfl, congrArg Life.boot boot⟩
  · split
    · exact ⟨rfl, rfl, congrArg Life.boot boot⟩
    · exact ⟨rfl, rfl, congrArg Life.boot boot⟩

theorem railsOff_hold (s : State) : (railsOff s).hold = s.hold :=
  hold_of_keepsBut (B := [.flash, .hbm, .eng]) (s := s) (t := endContexts s) (endContexts_without s _ (List.Subset.refl _)) (by decide)

theorem railsOff_off (s : State) :
    (railsOff s).mod.pwrgd = false ∧ (railsOff s).pwr.railMv = 0 ∧ (railsOff s).hbm.mem = [] := ⟨rfl, rfl, rfl⟩

theorem exec_holdupSave_on {s : State} (on : s.mod.pwrgd = true) (c : SaveCause) (stored : Bool) :
    exec (.holdupSave c stored) s = .next
      (let t := (railsOff (save s stored false)).draw
       { t.2 with hold.bankMv := t.1 % 4201, hold.charged := false, hold.below := true, hold.testing := 0, hold.connected := 0 }) := by
  simp only [exec, execHoldupSave, on]
  rfl

theorem holdupSave_meter (s : State) (stored : Bool) : (railsOff (save s stored false)).meter = s.meter := by
  rw [meter_of_keepsBut (railsOff_without _ _ (List.Subset.refl _)) (by decide),
    meter_of_keepsBut (save_without _ _ _ _ (List.Subset.refl _)) (by decide)]

/-! ## The exit from Vigil (16 R564) -/

/-- The power state reached. -/
def State.powerState (s : State) : Nat := s.pwr.state

theorem powerState_eq (s : State) : s.powerState = s.pwr.state := rfl

theorem powerState_of_keepsBut {s t : State} {B : List Blk} (kept : t.without B = s.without B) (out : .pwr ∉ B) :
    t.powerState = s.powerState := by
  rw [State.powerState, State.powerState, pwr_of_keepsBut kept out]

theorem putRwl_powerState (blk off : Nat) (o : Open) (v : Nat) (s : State) : (putRwl blk off o v s).powerState = s.powerState := by
  have power : (putPwrCfg o v s).powerState = s.powerState := by
    unfold putPwrCfg
    dsimp only
    split <;> rfl
  by_cases cfg : blk = 0xB0 ∧ off = 8
  · obtain ⟨rfl, rfl⟩ := cfg
    have whole : putRwl 0xB0 8 o v s = putPwrCfg o v s := by simp [putRwl]
    rw [whole, power]
  · refine powerState_of_keepsBut (B := [.freeCtr, .mod, .qau, .alloc, .flash, .reel, .eng, .links]) ?_ (by decide)
    unfold putRwl
    rw [if_neg cfg]
    repeat rw [apply_ite (fun t => State.without t _)]
    simp

theorem applyLocks_powerState (s : State) (ls : List Lock) : (applyLocks s ls).powerState = s.powerState := by
  refine foldl_unchanged (p := State.powerState) (fun s l => ?_) ls s
  unfold applyLock
  dsimp only
  split
  · rfl
  · exact putRwl_powerState ..

theorem loadPolicy_powerState (s : State) : (loadPolicy s).powerState = s.powerState := by
  unfold loadPolicy
  refine (applyLocks_powerState _ _).trans (powerState_of_keepsBut (B := [.hbm]) ?_ (by decide))
  simp

theorem leaveVigil_powerState (s : State) : (leaveVigil s).powerState = 0 := by
  unfold leaveVigil
  dsimp only
  rw [powerState_of_keepsBut (noteStart_without _ _ (List.Subset.refl _)) (by decide),
    powerState_of_keepsBut (postM_without _ _ _ _ _ _ _ _ (List.Subset.refl _)) (by decide),
    powerState_of_keepsBut (serve_without _ _ (List.Subset.refl _)) (by decide),
    powerState_of_keepsBut (mount_without _ _ (List.Subset.refl _)) (by decide),
    powerState_of_keepsBut (retrain_without _ _ (List.Subset.refl _)) (by decide), loadPolicy_powerState,
    powerState_of_keepsBut (bootUnits_without _ _ (List.Subset.refl _)) (by decide)]
  rfl

theorem exec_wake_stays {s : State} (stays : s.pwr.state ≠ 4 ∨ s.pwr.protect = true ∨ s.mod.pwrgd = false) :
    exec .wake s = .next { s with rsp := .value (BitVec.ofNat 64 s.pwr.state) } := by
  have no : (s.pwr.state = 4 && !s.pwr.protect && s.mod.pwrgd) = false := by
    rcases stays with h | h | h <;> simp [h]
  simp only [exec, execWake, no]
  rfl

theorem exec_wake_leaves {s : State} (vigil : s.pwr.state = 4) (free : s.pwr.protect = false) (rails : s.mod.pwrgd = true) :
    exec .wake s = .next { leaveVigil s with rsp := .value 0 } := by
  have yes : (s.pwr.state = 4 && !s.pwr.protect && s.mod.pwrgd) = true := by simp [vigil, free, rails]
  have reached : (leaveVigil s).pwr.state = 0 := by rw [← powerState_eq, leaveVigil_powerState]
  simp only [exec, execWake, yes, if_true, reached]
  rfl

/-! ## The reload (16 R562) -/

theorem exec_scanFormReload_held {s : State} {cid : BitVec 16}
    (held : s.mod.reload.head? ≠ some cid ∨ s.mod.accepting = false ∨ s.pwr.state ≠ 0 ∨ s.pwr.protect = true) :
    exec (.scanFormReload cid) s = .next s := by
  change execScanFormReload cid s = _
  unfold execScanFormReload
  rcases turn : s.mod.reload with _ | ⟨x, rest⟩
  · rfl
  · have waits : (x ≠ cid || !s.mod.accepting || s.pwr.state ≠ 0 || s.pwr.protect) = true := by
      rw [turn, List.head?_cons, ne_eq, Option.some.injEq] at held
      rcases held with h | h | h | h <;> simp [h]
    dsimp only
    rw [if_pos waits]

theorem exec_scanFormReload_turn {s : State} {cid : BitVec 16} {rest : List (BitVec 16)} {c : Coll} (turn : s.mod.reload = cid :: rest)
    (serves : s.mod.accepting = true) (run : s.pwr.state = 0) (free : s.pwr.protect = false)
    (there : (reloadBlocks s cid.toNat).coll cid.toNat = some c) (live : c.destroyed = none) (scanned : c.flashOnly = false)
    (keyed : c.keyed = true) :
    exec (.scanFormReload cid) s = .next (noteStart (collEvent (({ reloadBlocks s cid.toNat with
      mod.reload := rest, mod.phase := if rest = [] then 5 else (reloadBlocks s cid.toNat).mod.phase } : State).setColl cid.toNat
        (some { c with searchable := true })) evSearchable srcMaintBlock cid.toNat)) := by
  have goes : (cid ≠ cid || !s.mod.accepting || s.pwr.state ≠ 0 || s.pwr.protect) = false := by simp [serves, run, free]
  have loaded : (c.destroyed.isNone && !c.flashOnly && c.keyed) = true := by simp [live, scanned, keyed]
  change execScanFormReload cid s = _
  unfold execScanFormReload
  rw [turn]
  dsimp only
  rw [goes, there]
  dsimp only
  rw [loaded]
  simp only [Bool.false_eq_true, if_false, if_true, List.isEmpty_iff]

/-! ## The obligation -/

theorem exec_fullReset_started {s : State} {c : ResetCause} (allowed : resetAllowed s c s.links.fullLock = true)
    (asks : c ≠ .watchdog) (ready : s.warden.romOnly = false ∨ s.mod.lastKind = 2) :
    exec (.fullReset c) s = .next (resetSaid (full s (causeCode c)) c true) := by
  have rests : starting s = false := by rcases ready with h | h <;> simp [starting, h]
  rw [exec_fullReset_allowed allowed asks, rests]
  rfl

theorem resetSaid_started {t : State} {kind cause boots : Nat} (h : Started t kind cause boots) (c : ResetCause) (ok : Bool) :
    Started (resetSaid t c ok) kind cause boots := by
  unfold resetSaid
  split
  · exact h.of_parts rfl rfl rfl
  · exact h

theorem resetSaid_warm {t : State} {cause boots : Nat} {m : Meter} (kind : t.mod.lastKind = 2) (why : t.mod.lastCause = cause)
    (idle : t.qau.cmds = []) (boot : t.life.boot = boots) (meter : t.meter = m) (c : ResetCause) :
    let u := resetSaid t c true
    u.mod.lastKind = 2 ∧ u.mod.lastCause = cause ∧ u.qau.cmds = [] ∧ u.life.boot = boots ∧ u.meter = m ∧
      (c = .management → u.rsp = .value 1) := by
  intro u
  refine ⟨?_, ?_, ?_, ?_, ?_, fun asked => resetSaid_rsp asked true⟩
  all_goals
    simp only [u, resetSaid]
    split <;> assumption

/-- A state in Run, with the answer to a wake beside. -/
theorem woken {s t : State} (run : t.powerState = 0) (life : t.life = s.life) :
    ∃ u, ({ t with rsp := .value 0 } : State) = u ∧ u.pwr.state = 0 ∧ u.rsp = .value 0 ∧ u.life.boot = s.life.boot :=
  ⟨_, rfl, run, rfl, congrArg Life.boot life⟩

theorem exec_wake_woken {s : State} (vigil : s.pwr.state = 4) (free : s.pwr.protect = false) (rails : s.mod.pwrgd = true) :
    ∃ t, exec .wake s = .next t ∧ t.pwr.state = 0 ∧ t.rsp = .value 0 ∧ t.life.boot = s.life.boot := by
  obtain ⟨t, same, woken⟩ := woken (leaveVigil_powerState s)
    (life_of_keepsBut (leaveVigil_without s _ (List.Subset.refl _)) (by decide))
  exact ⟨t, (exec_wake_leaves vigil free rails).trans (congrArg _ same), woken⟩

/-- Settles O57: each row by its guard, and what its steps leave of MOD, of the warden and of the commands in flight. -/
theorem startsAndResets : Obligations.StartsAndResets := by
  intro s started refuses
  refine ⟨exec_coldStart_on, fun off => ?_, fun c => ⟨?_, ?_, ?_, ?_, ?_⟩, fun u => ⟨exec_watchdog_idle, fun serves inRun runs => ?_⟩,
    fun c stored => ⟨fun off => ?_, fun on => ?_⟩, exec_wake_stays, fun vigil free rails => ?_, fun cid => ⟨exec_scanFormReload_held, ?_⟩, ?_⟩
  · obtain ⟨t, next, rails, kind, cause, boots, calendar, sessions, request⟩ := exec_coldStart_started off
    refine ⟨t, next, ⟨rails, kind, boots, calendar, sessions, request⟩, fun noSave => ?_⟩
    rw [cause, noSave]
    rfl
  · exact exec_fullReset_refused
  · exact exec_warmReset_refused
  · intro allowed asks inRom cold
    have busy : starting s = true := by simp [starting, inRom, cold]
    rw [exec_fullReset_allowed allowed asks, busy]
    rfl
  · intro allowed asks ready
    obtain ⟨rails, kind, cause, boots, calendar, sessions, request⟩ := resetSaid_started (full_started s (causeCode c)) c true
    exact ⟨_, exec_fullReset_started allowed asks ready, ⟨rails, kind, boots, calendar, sessions, request⟩, cause,
      fun asked => resetSaid_rsp asked true⟩
  · intro allowed asks inRun serves
    obtain ⟨kind, cause, -, idle⟩ := warmReset_of_marks (warm_bootMarks s (causeCode c)) (warm_cmds s (causeCode c))
    refine ⟨_, exec_warmReset_allowed allowed asks inRun serves, resetSaid_warm kind cause idle ?_ ?_ c⟩
    · rw [life_of_keepsBut (warm_without _ _ _ (List.Subset.refl _)) (by decide)]
    · exact meter_of_keepsBut (warm_without _ _ _ (List.Subset.refl _)) (by decide)
  · rw [exec_watchdog_acts serves inRun runs]
    refine ⟨fun many => congrArg _ (if_pos many), fun few => ⟨_, congrArg _ (if_neg (Nat.not_le.mpr few)), ?_⟩⟩
    exact watchdog_resets ..
  · simp [exec, execHoldupSave, off]
  · refine ⟨_, exec_holdupSave_on on c stored, ?_⟩
    obtain ⟨valid, used, boot⟩ := save_hold s stored false
    obtain ⟨rails, rail, mem⟩ := railsOff_off (save s stored false)
    have hold := railsOff_hold (save s stored false)
    have meter := holdupSave_meter s stored
    generalize save s stored false = u at *
    generalize railsOff u = t at *
    exact ⟨rails, rail, rfl, by rw [← valid, ← hold]; rfl, by rw [← used, ← hold]; rfl, by rw [← boot, ← hold]; rfl, mem, meter⟩
  · exact exec_wake_woken vigil free rails
  · intro rest c turn serves run free u there live scanned keyed
    exact exec_scanFormReload_turn turn serves run free there live scanned keyed
  · rfl

end Sys2Proof.Machine
end

section
/-! PROOFS. Sensors and what they act on (15 R512-R517, R523, 16 R541, 14 R507): each row by its threshold, and a round of readings
group by group. -/

namespace Sys2Proof.Machine

/-! ## Tables in canonical form -/

theorem Tab.get_mod {α : Type} [DecidableEq α] {d : α} {t : Tab α} (canonical : Tab.wf d t = true) (n m : Nat) (f : α → α) :
    Tab.get d (Tab.mod d t n f) m = if m = n then f (Tab.get d t n) else Tab.get d t m := by
  unfold Tab.mod
  split
  · next same => rw [same, Tab.get_set_same d n _ t 0 canonical]
  · next other => rw [Tab.get_set_other d other _ t 0 canonical]

/-! ## A round of readings (15 R523) -/

/-- No event queue is enabled, and the tables that show the groups are canonical. -/
structure SensorsReady (s : State) : Prop where
  quiet : s.qau.even = false
  ctls : Tab.wf Stack.initial s.hbm.ctls = true
  groups : Tab.wf Group.initial s.therm.groups = true

/-- Two states show a group alike. -/
def SameGroup (s t : State) (g : Nat) : Prop := t.ctl g = s.ctl g ∧ t.group g = s.group g

/-- Two states show every group alike, and no event queue is enabled in the second. -/
structure SameSensors (s t : State) : Prop where
  quiet : t.qau.even = false
  ctls : t.hbm.ctls = s.hbm.ctls
  groups : t.therm.groups = s.therm.groups

theorem SameSensors.ready {s t : State} (h : SameSensors s t) (ready : SensorsReady s) : SensorsReady t :=
  ⟨h.quiet, h.ctls ▸ ready.ctls, h.groups ▸ ready.groups⟩

theorem SameSensors.group {s t : State} (h : SameSensors s t) (g : Nat) : SameGroup s t g := by
  simp only [SameGroup, State.ctl, State.group, h.ctls, h.groups, and_self]

theorem SameSensors.refl {s : State} (quiet : s.qau.even = false) : SameSensors s s := ⟨quiet, rfl, rfl⟩

/-- With no event queue enabled, an event is held or lost, and nothing else changes. -/
theorem postM_sameSensors {s : State} (quiet : s.qau.even = false) (code src queue e0 e1 e2 : Nat) :
    SameSensors s (postM s code src queue e0 e1 e2) := by
  unfold postM
  split
  · exact ⟨quiet, rfl, rfl⟩
  · have held (r : OutRec) : flushM { s with qau.order := s.qau.order + 1, qau.backlog := s.qau.backlog ++ [r] } =
        { s with qau.order := s.qau.order + 1, qau.backlog := s.qau.backlog ++ [r] } := by
      simp [flushM, quiet]
    rw [held]
    exact ⟨quiet, rfl, rfl⟩

theorem thermEvent_sameSensors {s : State} (quiet : s.qau.even = false) (g level t : Nat) :
    SameSensors s (thermEvent s g level t) := by
  unfold thermEvent
  split
  · exact postM_sameSensors quiet ..
  · exact postM_sameSensors quiet ..

section SameGroup

variable {s t u : State} {g : Nat}

theorem SameGroup.trans (first : SameGroup s t g) (next : SameGroup t u g) : SameGroup s u g :=
  ⟨next.1.trans first.1, next.2.trans first.2⟩

theorem SameGroup.level (same : SameGroup s t g) : groupLevel t g = groupLevel s g := by
  simp only [groupLevel, same.1, same.2]

theorem SameGroup.temp (same : SameGroup s t g) : groupTemp t g = groupTemp s g := by
  simp only [groupTemp, same.1, same.2]

theorem SameGroup.failed (same : SameGroup s t g) : groupFailed t g = groupFailed s g := by
  simp only [groupFailed, same.1, same.2]

theorem SameGroup.peak (same : SameGroup s t g) : (t.group g).peak = (s.group g).peak := by
  rw [same.2]

end SameGroup

/-! ### One group -/

section OneGroup

variable {s : State} (ready : SensorsReady s) (g : Nat)

include ready

theorem modCtl_ctl (f : Stack → Stack) (m : Nat) : (s.modCtl g f).ctl m = if m = g then f (s.ctl g) else s.ctl m :=
  Tab.get_mod ready.ctls g m f

theorem modGroup_group (f : Group → Group) (m : Nat) : (s.modGroup g f).group m = if m = g then f (s.group g) else s.group m :=
  Tab.get_mod ready.groups g m f

theorem modGroup_ready (f : Group → Group) : SensorsReady (s.modGroup g f) :=
  ⟨ready.quiet, ready.ctls, Tab.set_wf _ _ _ _ ready.groups⟩

theorem modGroup_other (f : Group → Group) {m : Nat} (other : m ≠ g) : SameGroup s (s.modGroup g f) m :=
  ⟨rfl, (modGroup_group ready g f m).trans (if_neg other)⟩

theorem setGroup_ready (level temp : Nat) (cool : Tab Nat) (failed : Bool) : SensorsReady (setGroup s g level temp cool failed) := by
  unfold setGroup
  split
  · exact ⟨ready.quiet, Tab.set_wf _ _ _ _ ready.ctls, ready.groups⟩
  · exact modGroup_ready ready g _

theorem setGroup_other (level temp : Nat) (cool : Tab Nat) (failed : Bool) {m : Nat} (other : m ≠ g) :
    SameGroup s (setGroup s g level temp cool failed) m := by
  unfold setGroup
  split
  · exact ⟨(modCtl_ctl ready g _ m).trans (if_neg other), rfl⟩
  · exact modGroup_other ready g _ other

/-- The group as set shows what it was set to, and keeps its PEAK. -/
theorem setGroup_same (level temp : Nat) (cool : Tab Nat) (failed : Bool) :
    groupLevel (setGroup s g level temp cool failed) g = level ∧ groupTemp (setGroup s g level temp cool failed) g = temp ∧
      ((setGroup s g level temp cool failed).group g).peak = (s.group g).peak := by
  by_cases stack : g < 12
  · simp only [setGroup, groupLevel, groupTemp, stack, if_true, modCtl_ctl ready]
    exact ⟨trivial, trivial, rfl⟩
  · simp only [setGroup, groupLevel, groupTemp, stack, if_false, modGroup_group ready, if_true, and_self]

theorem notePeak_same (t : Nat) :
    let u := s.modGroup g (fun x => { x with peak := max x.peak t })
    groupLevel u g = groupLevel s g ∧ groupTemp u g = groupTemp s g ∧ (u.group g).peak = max (s.group g).peak t := by
  intro u
  have set : u.group g = { s.group g with peak := max (s.group g).peak t } := (modGroup_group ready g _ g).trans (if_pos rfl)
  have kept : u.ctl g = s.ctl g := rfl
  simp only [groupLevel, groupTemp, set, kept, and_self]

/-- An event that is posted or not leaves every group as it is shown. -/
theorem thermEvent_ite (c : Prop) [Decidable c] (level t : Nat) : SameSensors s (if c then s else thermEvent s g level t) := by
  split
  · exact SameSensors.refl ready.quiet
  · exact thermEvent_sameSensors ready.quiet ..

theorem failGroup_ready : SensorsReady (failGroup s g) ∧ ∀ m, m ≠ g → SameGroup s (failGroup s g) m := by
  have set := setGroup_ready ready g (if g < 12 then 2 else 3) (groupTemp s g) [] true
  have others := fun m other => setGroup_other ready g (if g < 12 then 2 else 3) (groupTemp s g) [] true (m := m) other
  generalize held : setGroup s g (if g < 12 then 2 else 3) (groupTemp s g) [] true = u at set others
  have told : SameSensors u (if g < 12 && !groupFailed s g then postM u evSensorFail srcTherm noQueue g 0 0 else u) := by
    split
    · exact postM_sameSensors set.quiet ..
    · exact SameSensors.refl set.quiet
  unfold failGroup
  dsimp only
  rw [held]
  have noted := thermEvent_ite (told.ready set) g
  exact ⟨(noted _ _ _).ready (told.ready set), fun m other => ((others m other).trans (told.group m)).trans ((noted _ _ _).group m)⟩

theorem readGroup_ready (t : Nat) : SensorsReady (readGroup s g t) ∧ ∀ m, m ≠ g → SameGroup s (readGroup s g t) m := by
  unfold readGroup
  dsimp only
  generalize (if groupFailed s g then levelAt g t else max (groupLevel s g) (levelAt g t)) = level
  have set := setGroup_ready ready g level t (coolOf g t (groupCool s g)) false
  have peak := modGroup_ready set g (fun x => { x with peak := max x.peak t })
  have noted := thermEvent_ite peak g (level = groupLevel s g) level t
  exact ⟨noted.ready peak, fun m other =>
    ((setGroup_other ready g _ _ _ _ other).trans (modGroup_other set g _ other)).trans (noted.group m)⟩

/-- A valid reading of a working sensor is the temperature, raises the level at once, and the PEAK. -/
theorem readGroup_same (t : Nat) (works : groupFailed s g = false) :
    groupLevel (readGroup s g t) g = max (groupLevel s g) (levelAt g t) ∧ groupTemp (readGroup s g t) g = t ∧
      ((readGroup s g t).group g).peak = max (s.group g).peak t := by
  unfold readGroup
  dsimp only
  rw [works]
  have set := setGroup_ready ready g (max (groupLevel s g) (levelAt g t)) t (coolOf g t (groupCool s g)) false
  have peak := modGroup_ready set g (fun x => { x with peak := max x.peak t })
  obtain ⟨level, temp, top⟩ := setGroup_same ready g (max (groupLevel s g) (levelAt g t)) t (coolOf g t (groupCool s g)) false
  obtain ⟨level', temp', top'⟩ := notePeak_same set g t
  have noted := (thermEvent_ite peak g (max (groupLevel s g) (levelAt g t) = groupLevel s g) (max (groupLevel s g) (levelAt g t))
    t).group g
  simp only [Bool.false_eq_true, if_false]
  exact ⟨noted.level.trans (level'.trans level), noted.temp.trans (temp'.trans temp),
    noted.peak.trans (top'.trans (by rw [top]))⟩

end OneGroup

/-! ### The round -/

/-- One reading of a round. -/
def readOne (s : State) (g : Nat) (t : Option Nat) : State :=
  match t with
  | none => failGroup s g
  | some t => if t ≤ 150 then readGroup s g t else failGroup s g

theorem readAll_cons (s : State) (g : Nat) (t : Option Nat) (ts : List (Option Nat)) :
    readAll s g (t :: ts) = readAll (readOne s g t) (g + 1) ts := rfl

theorem readOne_ready {s : State} (ready : SensorsReady s) (g : Nat) (t : Option Nat) :
    SensorsReady (readOne s g t) ∧ ∀ m, m ≠ g → SameGroup s (readOne s g t) m := by
  unfold readOne
  split
  · exact failGroup_ready ready g
  · split
    · exact readGroup_ready ready g _
    · exact failGroup_ready ready g

/-- The groups before the first that is read stay as they are shown. -/
theorem readAll_below {s : State} (ready : SensorsReady s) {g k : Nat} (below : g < k) (ts : List (Option Nat)) :
    SameGroup s (readAll s k ts) g := by
  induction ts generalizing s k with
  | nil => exact ⟨rfl, rfl⟩
  | cons t ts ih =>
    obtain ⟨next, others⟩ := readOne_ready ready k t
    rw [readAll_cons]
    exact (others g (by omega)).trans (ih next (by omega))

theorem readAll_reads {s : State} (ready : SensorsReady s) {i k v : Nat} (ts : List (Option Nat)) (reading : ts[i]? = some (some v))
    (valid : v ≤ 150) (works : groupFailed s (k + i) = false) :
    groupTemp (readAll s k ts) (k + i) = v ∧
      groupLevel (readAll s k ts) (k + i) = max (groupLevel s (k + i)) (levelAt (k + i) v) ∧
      ((readAll s k ts).group (k + i)).peak = max (s.group (k + i)).peak v := by
  induction ts generalizing s i k with
  | nil => simp at reading
  | cons t ts ih =>
    obtain ⟨next, others⟩ := readOne_ready ready k t
    rw [readAll_cons]
    cases i with
    | zero =>
      rw [List.getElem?_cons_zero, Option.some.injEq] at reading
      have read : readOne s k t = readGroup s k v := by rw [reading, readOne, if_pos valid]
      obtain ⟨level, temp, peak⟩ := readGroup_same ready k v works
      have later := readAll_below next (Nat.lt_succ_self k) ts
      rw [read] at later ⊢
      exact ⟨later.temp.trans temp, later.level.trans level, later.peak.trans peak⟩
    | succ i =>
      rw [List.getElem?_cons_succ] at reading
      have same := others (k + (i + 1)) (by omega)
      have shift : k + (i + 1) = k + 1 + i := by omega
      rw [shift] at same works ⊢
      obtain ⟨temp, level, peak⟩ := ih next reading (same.failed.trans works)
      exact ⟨temp, by rw [level, same.level], by rw [peak, same.peak]⟩

/-- Where no group stands at level 3, a round leaves every group as its readings show it. -/
theorem afterRead_group {s : State} (calm : ∀ k, k < 18 → groupLevel s k ≠ 3) (g : Nat) : SameGroup s (afterRead s) g := by
  have goesOn (u : State) (shown : ∀ k, SameGroup s u k) :
      SameGroup s (if (List.range 18).any (fun g => groupLevel u g = 3) then startProtect u false else u) g := by
    have none : ¬ (List.range 18).any (fun g => groupLevel u g = 3) = true := by
      simp only [List.any_eq_true, List.mem_range, decide_eq_true_eq, not_exists, not_and]
      intro k inRange
      rw [(shown k).level]
      exact calm k inRange
    rw [if_neg none]
    exact shown g
  exact goesOn _ (fun _ => ⟨rfl, rfl⟩)

theorem exec_sensorRead {s : State} {ts : List (Option Nat)} (round : ts.length = 18) :
    exec (.sensorRead ts) s = .next (afterRead (readAll s 0 ts)) := congrArg _ (if_pos round)

theorem exec_sensorRead_shows {s : State} {ts : List (Option Nat)} {g v : Nat} (round : ts.length = 18) (ready : SensorsReady s)
    (calm : ∀ k, k < 18 → groupLevel (readAll s 0 ts) k ≠ 3) (reading : ts[g]? = some (some v)) (valid : v ≤ 150)
    (works : groupFailed s g = false) :
    ∃ t, exec (.sensorRead ts) s = .next t ∧ groupTemp t g = v ∧ groupLevel t g = max (groupLevel s g) (levelAt g v) ∧
      (t.group g).peak = max (s.group g).peak v := by
  have reads := readAll_reads (i := g) (k := 0) ready ts reading valid
  rw [Nat.zero_add] at reads
  obtain ⟨temp, level, peak⟩ := reads works
  have same := afterRead_group calm g
  exact ⟨_, exec_sensorRead round, same.temp.trans temp, same.level.trans level, same.peak.trans peak⟩

/-! ## The fall of a level, the cap, the rail (15 R513, R514, R523) -/

section Rows

variable {s : State}

/-- The level to which a group falls that is cool for its own: the highest below that it is not cool for. -/
def fallsTo (s : State) (g : Nat) : Nat :=
  (((levelsOf g).filter (fun l => decide (l.1 < groupLevel s g) && decide (Tab.get 0 (groupCool s g) l.1 < 40))).map (·.1)).foldl max 0

theorem exec_thermalClear_stays {g : Fin 18}
    (stays : groupLevel s g.val = 0 ∨ groupFailed s g.val = true ∨ Tab.get 0 (groupCool s g.val) (groupLevel s g.val) < 40) :
    exec (.thermalClear g) s = .next s := by
  refine congrArg _ (if_neg (fun ⟨raised, works, cool⟩ => ?_))
  rcases stays with h | h | h
  · exact raised h
  · simp [h] at works
  · exact absurd cool (Nat.not_le.mpr h)

theorem exec_thermalClear_falls {g : Fin 18} (raised : groupLevel s g.val ≠ 0) (works : groupFailed s g.val = false)
    (cool : 40 ≤ Tab.get 0 (groupCool s g.val) (groupLevel s g.val)) :
    exec (.thermalClear g) s = .next (thermEvent (setGroup s g.val (fallsTo s g.val) (groupTemp s g.val) (groupCool s g.val) false)
      g.val (fallsTo s g.val) (groupTemp s g.val)) :=
  congrArg _ (if_pos ⟨raised, by rw [works]; rfl, cool⟩)

/-- The state with the reading of the input power, current and voltage. -/
def inputRead (s : State) (w : BitVec 16) : State :=
  { s.draw.2.draw.2 with pwr.pinW := w.toNat, pwr.iin := s.draw.1 % 65536, pwr.vin := s.draw.2.draw.1 % 65536 }

/-- A CAP_ACTION is posted. -/
def capPosted (u : State) (w code : Nat) : State := postM u 0x0203 srcPwr noQueue code u.pwr.railMv w

theorem exec_capStep (w : BitVec 16) : exec (.capStep w) s = .next (
    if s.pwr.capW < w.toNat then
      if 700 < s.pwr.railMv ∧ s.pwr.state ≤ 1 then
        capPosted { inputRead s w with pwr.railMv := max 700 (s.pwr.railMv - 10) } w.toNat 0
      else if s.pwr.withheld then inputRead s w
      else capPosted { inputRead s w with pwr.withheld := true } w.toNat 1
    else if s.pwr.withheld ∧ 100 * w.toNat ≤ 95 * s.pwr.capW then capPosted { inputRead s w with pwr.withheld := false } w.toNat 2
    else inputRead s w) := rfl

theorem exec_railReturn_held (held : 1 < s.pwr.state ∨ (s.pwr.hotHalf = true ∧ s.pwr.hotClear < 40)) :
    exec .railReturn s = .next s := by
  have no : (decide (s.pwr.state ≤ 1) && !(s.pwr.hotHalf && decide (s.pwr.hotClear < reads10ms))) = false := by
    rcases held with h | ⟨hot, short⟩
    · simp [Nat.not_le.mpr h]
    · simp [hot, reads10ms, short]
  simp only [exec, execRailReturn, no, Bool.false_and]
  rfl

theorem exec_railReturn_step (low : s.pwr.state ≤ 1) (cool : s.pwr.hotHalf = false ∨ 40 ≤ s.pwr.hotClear) :
    exec .railReturn s = .next { s with
      pwr.hotHalf := false
      pwr.railMv := if s.pwr.railMv < setPoint s.pwr.opsel ∧ s.pwr.pinW ≤ s.pwr.capW ∧ s.pwr.withheld = false then
        min (setPoint s.pwr.opsel) (s.pwr.railMv + 10) else s.pwr.railMv } := by
  have yes : (decide (s.pwr.state ≤ 1) && !(s.pwr.hotHalf && decide (s.pwr.hotClear < reads10ms))) = true := by
    rcases cool with h | h
    · simp [low, h]
    · simp [low, reads10ms, Nat.not_lt.mpr h]
  simp only [exec, execRailReturn, yes, Bool.true_and, if_true]
  by_cases step : s.pwr.railMv < setPoint s.pwr.opsel ∧ s.pwr.pinW ≤ s.pwr.capW ∧ s.pwr.withheld = false
  · obtain ⟨below, within, free⟩ := step
    simp [below, within, free]
  · rw [if_neg step, if_neg (by simpa [and_assoc] using step)]

/-! ## Pace, input and flow (15 R512, R515, 16 R541) -/

/-- The paces of the rings, each the count over its fused count. -/
def pacesOf (ls : List W32) : List Nat := ls.zipIdx.map (fun l => min 0xFFFF (l.1.toNat * 1024 / Config.ropLaps l.2))

theorem exec_paceSample {ls : List W32} (ten : ls.length = 10) :
    exec (.paceSample ls) s = .next { s with pwr.pace := BitVec.ofNat 16 ((pacesOf ls).foldl min 0xFFFF) } := by
  simp only [exec, execPaceSample, ten, if_true, List.mapIdx_eq_zipIdx_map]
  rfl

theorem exec_inputRange_within {v : BitVec 16} (within : v.toNat < 3400 ∨ (3600 ≤ v.toNat ∧ v.toNat ≤ 5200) ∨ 6000 < v.toNat) :
    exec (.inputRange v) s = .next s := by
  simp only [exec, execInputRange]
  rw [if_neg (by omega), if_neg (by omega)]

theorem exec_inputRange_low {v : BitVec 16} (above : 3400 ≤ v.toNat) (below : v.toNat < 3600) :
    exec (.inputRange v) s = .next (postM { s with pwr.vin := v.toNat } 0x0204 srcPwr noQueue v.toNat 0 0) :=
  congrArg _ (if_pos ⟨above, below⟩)

theorem exec_inputRange_high {v : BitVec 16} (above : 5200 < v.toNat) (below : v.toNat ≤ 6000) :
    exec (.inputRange v) s = .next (postM { s with pwr.vin := v.toNat } 0x0204 srcPwr noQueue v.toNat 1 0) := by
  simp only [exec, execInputRange]
  rw [if_neg (by omega), if_pos ⟨above, below⟩]
  rfl

/-- The state with a flow sample that is enough counted. -/
def flowEnough (s : State) (f : Nat) : State :=
  { s with therm.flow := f, therm.lowFlow := 0, therm.veryLow := 0, therm.okFlow := min 10 (s.therm.okFlow + 1) }

/-- The state with a flow sample counted that is below 3.2 L/min, and not below 2.0. -/
def flowShort (s : State) (f : Nat) : State :=
  { s with therm.flow := f, therm.lowFlow := min 10 (s.therm.lowFlow + 1), therm.veryLow := 0, therm.okFlow := 0 }

theorem exec_flowSample_enough {f : BitVec 16} (enough : 320 ≤ f.toNat) :
    exec (.flowSample f) s = .next (if min 10 (s.therm.okFlow + 1) = 10 ∧ s.therm.flowPosted = true then
      postM { flowEnough s f.toNat with therm.flowPosted := false } 0x0303 srcTherm noQueue f.toNat 2 0
    else flowEnough s f.toNat) := by
  have low : ¬ f.toNat < 320 := by omega
  have very : ¬ f.toNat < 200 := by omega
  simp only [exec, execFlowSample, streak, low, very, enough, decide_true, decide_false, if_true, Bool.false_eq_true, if_false]
  rfl

theorem exec_flowSample_short {f : BitVec 16} (notVery : 200 ≤ f.toNat) (short : f.toNat < 320) :
    exec (.flowSample f) s = .next (if min 10 (s.therm.lowFlow + 1) = 10 ∧ (!s.therm.flowPosted) = true then
      postM { flowShort s f.toNat with therm.flowPosted := true } 0x0303 srcTherm noQueue f.toNat 0 0
    else flowShort s f.toNat) := by
  have enough : ¬ 320 ≤ f.toNat := by omega
  have very : ¬ f.toNat < 200 := by omega
  simp only [exec, execFlowSample, streak, short, very, enough, decide_true, decide_false, if_true, Bool.false_eq_true, if_false]
  rfl

/-! ## The bank (15 R571) -/

theorem exec_bankCharged_not (not : s.hold.charged = true ∨ s.hold.connected = 0) : exec .bankCharged s = .next s := by
  refine congrArg _ (if_pos ?_)
  rcases not with h | h <;> simp [h]

theorem exec_bankCharged (empty : s.hold.charged = false) (connected : s.hold.connected ≠ 0) :
    exec .bankCharged s = .next (noteBank { s with hold.charged := true, hold.bankMv := 4200 }) :=
  congrArg _ (if_neg (by simpa [empty] using connected))

end Rows

/-- Settles O56: each row by its threshold. -/
theorem sensorsAct : Obligations.SensorsAct := by
  intro s
  refine ⟨fun ts other => congrArg _ (if_neg other), ?_, fun g => ⟨exec_thermalClear_stays, exec_thermalClear_falls⟩, fun w => ?_,
    exec_railReturn_held, exec_railReturn_step, fun ls => ⟨fun other => congrArg _ (if_neg other), exec_paceSample⟩,
    fun none => congrArg _ (if_pos none), fun some => congrArg _ (if_neg some),
    fun v => ⟨exec_inputRange_low, exec_inputRange_high, exec_inputRange_within⟩, fun f => ⟨fun enough => ?_, fun notVery short => ?_⟩,
    exec_bankCharged_not, exec_bankCharged, rfl, rfl⟩
  · intro ts g v round quiet ctls groups calm reading valid works
    exact exec_sensorRead_shows round ⟨quiet, ctls, groups⟩ calm reading valid works
  · intro t say
    rw [exec_capStep]
    refine ⟨fun above rail low => ?_, fun above rail => ?_, fun within held under => ?_, fun within held => ?_⟩
    · rw [if_pos above, if_pos ⟨rail, low⟩]
      rfl
    · rw [if_pos above, if_neg (by omega)]
      exact ⟨fun held => congrArg _ (if_pos held), fun free => congrArg _ (if_neg (by simp [free]))⟩
    · rw [if_neg (Nat.not_lt.mpr within), if_pos ⟨held, under⟩]
      rfl
    · rw [if_neg (Nat.not_lt.mpr within), if_neg]
      · rfl
      · rintro ⟨withheld, under⟩
        rcases held with h | h
        · exact absurd (withheld.symm.trans h) (by decide)
        · exact absurd under (Nat.not_le.mpr h)
  · intro t
    rw [exec_flowSample_enough enough]
    refine ⟨fun goesOn => congrArg _ (if_neg ?_), fun posted many => congrArg _ (if_pos ⟨by omega, posted⟩)⟩
    rintro ⟨many, posted⟩
    rcases goesOn with h | h
    · exact absurd (posted.symm.trans h) (by decide)
    · omega
  · intro t
    rw [exec_flowSample_short notVery short]
    refine ⟨fun goesOn => congrArg _ (if_neg ?_), fun notPosted many => congrArg _ (if_pos ⟨by omega, by simp [notPosted]⟩)⟩
    rintro ⟨many, notPosted⟩
    rcases goesOn with h | h
    · simp [h] at notPosted
    · omega

end Sys2Proof.Machine
end
